-- ==== Sys2Proof/Word.lean ====
section
/-!
DEFINITION. The word types of the Kililo W1: bytes, 32-bit and 64-bit words.
-/

namespace Sys2Proof

abbrev Byte := BitVec 8
abbrev W32 := BitVec 32
abbrev W64 := BitVec 64

/-- The 64-bit word holding a natural number modulo 2^64 (wrap64 of R83). -/
abbrev w64 (n : Nat) : W64 := BitVec.ofNat 64 n

/-- The 32-bit word holding a natural number modulo 2^32 (wrap32 of R83). -/
abbrev w32 (n : Nat) : W32 := BitVec.ofNat 32 n

end Sys2Proof
end

