-- ==== Sys2Proof/Syntax.lean ====
section
/-!
DEFINITION. The whole syntax: one constructor of `Instr` for each row of spec/opcode_table.json. The rows with an
encoding carry their operands as the formats of R51 give them, the literal word included (R54); the rows of the
device's own events have no operands: what picks such an event, the core, strand, queue or channel it happens to, and what
arrives from outside the chip, stands in `State.arg`.
-/

namespace Sys2Proof

/-- A scalar register field x0 to x63 (R52). -/
abbrev XReg := BitVec 6
/-- A vector register field v0 to v31 (R52). -/
abbrev VReg := BitVec 5
/-- A mask field m0 to m7 (R52). -/
abbrev MReg := BitVec 3
/-- The token bits +n, -p, +p, -n, from bit 3 down (R56). -/
abbrev Tok := BitVec 4
/-- The literal word of an instruction, when L is 1 (R44, R54). -/
abbrev Lit := Option W32

/-- Operand b of the SR format: a register, or the sign-extended literal (R54). -/
inductive SrcB where
  | reg (r : XReg)
  | lit (w : W32)
  deriving DecidableEq, Repr

/-- Operand b of the VR format, as bsel and L choose it (R55). -/
inductive VecB where
  | vec (r : VReg) (m : MReg)
  | const (c : BitVec 8)
  | scalar (r : XReg)
  | imm (i : BitVec 8)
  | lit (w : W32)
  deriving DecidableEq, Repr

/-- The offset of the LS and VM formats: off6, or the literal as a signed byte count (R53, R54). -/
inductive Off where
  | short (o : BitVec 6)
  | lit (w : W32)
  deriving DecidableEq, Repr

/-- One of the four queues of a strand, or the sequencer itself (R45). -/
inductive Unit5 where
  | seq | lq | cq | sq | ea
  deriving DecidableEq, Repr

/-- One row of the opcode table is one constructor. -/
inductive Instr where
  -- scalar arithmetic (R148, R149)
  | add (d a : XReg) (b : SrcB)
  | sub (d a : XReg) (b : SrcB)
  | mul (d a : XReg) (b : SrcB)
  | mulh (d a : XReg) (b : SrcB)
  | mulhn (d a : XReg) (b : SrcB)
  | div (d a : XReg) (b : SrcB)
  | divn (d a : XReg) (b : SrcB)
  | rem (d a : XReg) (b : SrcB)
  | remn (d a : XReg) (b : SrcB)
  | and (d a : XReg) (b : SrcB)
  | or (d a : XReg) (b : SrcB)
  | xor (d a : XReg) (b : SrcB)
  | andn (d a : XReg) (b : SrcB)
  | shl (d a : XReg) (b : SrcB)
  | shr (d a : XReg) (b : SrcB)
  | sar (d a : XReg) (b : SrcB)
  | rol (d a : XReg) (b : SrcB)
  | min (d a : XReg) (b : SrcB)
  | max (d a : XReg) (b : SrcB)
  | minn (d a : XReg) (b : SrcB)
  | maxn (d a : XReg) (b : SrcB)
  | clz (d a : XReg)
  | ctz (d a : XReg)
  | popc (d a : XReg)
  | sext8 (d a : XReg)
  | sext16 (d a : XReg)
  | sext32 (d a : XReg)
  | cmpEq (d a : XReg) (b : SrcB)
  | cmpNe (d a : XReg) (b : SrcB)
  | cmpLt (d a : XReg) (b : SrcB)
  | cmpLtn (d a : XReg) (b : SrcB)
  | cmpLe (d a : XReg) (b : SrcB)
  | cmpLen (d a : XReg) (b : SrcB)
  | sel (d a : XReg) (b : SrcB)
  | mov (d : XReg) (b : SrcB)
  -- immediate forms (R150)
  | addi (d a : XReg) (imm : BitVec 14)
  | andi (d a : XReg) (imm : BitVec 14)
  | ori (d a : XReg) (imm : BitVec 14)
  | xori (d a : XReg) (imm : BitVec 14)
  | shlImm (d a : XReg) (n : BitVec 6)
  | shrImm (d a : XReg) (n : BitVec 6)
  | sarImm (d a : XReg) (n : BitVec 6)
  | rolImm (d a : XReg) (n : BitVec 6)
  | li (d : XReg) (imm : BitVec 20)
  | lih (d : XReg) (imm : BitVec 20)
  | lif (d : XReg) (imm : BitVec 20)
  -- control transfer (R151 to R153)
  | bcZ (a : XReg) (off : BitVec 20)
  | bcNz (a : XReg) (off : BitVec 20)
  | bcLt (a : XReg) (off : BitVec 20)
  | bcGe (a : XReg) (off : BitVec 20)
  | call (a : XReg) (off : BitVec 20)
  | loop (n : BitVec 2) (off : BitVec 20)
  | jr (a : XReg) (b : SrcB)
  | ret (a : XReg)
  -- task, strand, event and special-register forms (R154 to R166)
  | spawn (d a : XReg) (b : SrcB)
  | idx (d : XReg) (sel : BitVec 6)
  | cyc (d : XReg)
  | time (d : XReg)
  | csrr (d : XReg) (n : BitVec 6)
  | csrw (n : BitVec 6) (b : SrcB)
  | lit (d a : XReg) (b : SrcB)
  | adda (d a : XReg) (b : SrcB)
  | esig (a : XReg) (b : SrcB)
  | eset (n : BitVec 4) (b : SrcB)
  | eget (d : XReg) (n : BitVec 4)
  | ewait (n : BitVec 4) (cond : BitVec 2) (b : SrcB)
  | trap (b : SrcB)
  | ctxs (a : XReg)
  | ctxr (a : XReg)
  | wfe (d : XReg) (b : SrcB)
  | halt (b : SrcB)
  -- barriers (R260), translation forms (R283), launch, stream and KV forms (R369, R441, R455)
  | bdecl (s : BitVec 2) (a : XReg) (b : SrcB)
  | barvRel (s : BitVec 2) (j : BitVec 4)
  | barvRlx (s : BitVec 2) (j : BitVec 4)
  | barw (s : BitVec 2) (j : BitVec 4)
  | bara (s : BitVec 2) (j : BitVec 4)
  | bstat (d : XReg) (s : BitVec 2)
  | probe (d : XReg) (t : BitVec 4) (b : XReg)
  | pgreq (d : XReg) (t : BitVec 4) (b : XReg)
  | tinv (t : BitVec 4) (b : SrcB)
  | tdesc (t : BitVec 4) (b : SrcB)
  | qlaunch (d a : XReg) (b : SrcB)
  | qpatch (d a : XReg) (b : SrcB)
  | sstat (d : XReg) (sel : BitVec 6)
  | kvalloc (d a : XReg) (b : SrcB)
  | kvfree (d a : XReg) (b : SrcB)
  | kvchk (d a : XReg)
  -- engine aperture (R167), copy (R300), tumbler (R352), attention (R383), fabric (R400), encoder (R456)
  | epush (e a : XReg) (b : SrcB)
  | epop (d e : XReg) (b : SrcB)
  | estat (d e : XReg)
  | cpy (ch : BitVec 2) (b : SrcB)
  | cpym (ch : BitVec 2) (a : XReg) (b : SrcB)
  | cpyg (ch : BitVec 2) (a : XReg) (b : SrcB)
  | drain (d : XReg) (ch : BitVec 2)
  | chlink (ch : BitVec 2) (a : XReg) (b : SrcB)
  | chkick (ch : BitVec 2) (b : SrcB)
  | sbq (d : XReg) (b : SrcB)
  | tmbRlx (d a : XReg) (b : SrcB)
  | tmbAcq (d a : XReg) (b : SrcB)
  | tmbRel (d a : XReg) (b : SrcB)
  | tmbTRlx (d a : XReg) (b : SrcB)
  | tmbTAcq (d a : XReg) (b : SrcB)
  | tmbTRel (d a : XReg) (b : SrcB)
  | attn (a : XReg) (b : SrcB)
  | attnP8 (a : XReg) (b : SrcB)
  | attnP8n (a : XReg) (b : SrcB)
  | attw (d : XReg) (b : SrcB)
  | coll (d a : XReg)
  | famo (op : BitVec 4) (wide : Bool) (a : XReg) (b : SrcB)
  | fsig (a : XReg) (b : SrcB)
  | fwin (d : XReg) (b : SrcB)
  | encsub (a : XReg)
  -- loads, stores, atomics and rings (R201 to R214)
  | lds (d a : XReg) (size : BitVec 2) (off : Off) (tok : Tok)
  | sts (d a : XReg) (size : BitVec 2) (off : Off) (tok : Tok)
  | vlds (v : VReg) (a : XReg) (m : MReg) (off : Off) (tok : Tok)
  | vsts (v : VReg) (a : XReg) (m : MReg) (off : Off) (tok : Tok)
  | ldro (v : VReg) (a : XReg) (m : MReg) (off : Off) (tok : Tok)
  | vldsg (v : VReg) (a : XReg) (vi : VReg) (m : MReg) (tok : Tok)
  | vstss (v : VReg) (a : XReg) (vi : VReg) (m : MReg) (tok : Tok)
  | ldg (v : VReg) (t : BitVec 4) (xc : XReg) (m : MReg) (tok : Tok)
  | stg (v : VReg) (t : BitVec 4) (xc : XReg) (m : MReg) (tok : Tok)
  | pref (ro : Bool) (t : BitVec 4) (xc : XReg) (tok : Tok)
  | amoAdd (d a : XReg) (wide : Bool) (l : Lit) (tok : Tok)
  | amoMin (d a : XReg) (wide : Bool) (l : Lit) (tok : Tok)
  | amoMax (d a : XReg) (wide : Bool) (l : Lit) (tok : Tok)
  | amoMinn (d a : XReg) (wide : Bool) (l : Lit) (tok : Tok)
  | amoMaxn (d a : XReg) (wide : Bool) (l : Lit) (tok : Tok)
  | amoAnd (d a : XReg) (wide : Bool) (l : Lit) (tok : Tok)
  | amoOr (d a : XReg) (wide : Bool) (l : Lit) (tok : Tok)
  | amoXor (d a : XReg) (wide : Bool) (l : Lit) (tok : Tok)
  | amoSwap (d a : XReg) (wide : Bool) (l : Lit) (tok : Tok)
  | amoCas (d a : XReg) (wide : Bool) (l : Lit) (tok : Tok)
  | rclaim (d a : XReg) (tok : Tok)
  | rwait (d a : XReg) (tok : Tok)
  | rstat (d a : XReg) (tok : Tok)
  | rinit (d a : XReg) (tok : Tok)
  | rfill (d a : XReg) (tok : Tok)
  | rrel (d a : XReg) (tok : Tok)
  -- vector arithmetic, logic and movement (R180 to R186, R194)
  | vaddF32 (vd va : VReg) (b : VecB) (tok : Tok)
  | vsubF32 (vd va : VReg) (b : VecB) (tok : Tok)
  | vmulF32 (vd va : VReg) (b : VecB) (tok : Tok)
  | vfmaF32 (vd va : VReg) (b : VecB) (tok : Tok)
  | vfmacF32 (vd va : VReg) (b : VecB) (tok : Tok)
  | vminF32 (vd va : VReg) (b : VecB) (tok : Tok)
  | vmaxF32 (vd va : VReg) (b : VecB) (tok : Tok)
  | vaddI32 (vd va : VReg) (b : VecB) (tok : Tok)
  | vsubI32 (vd va : VReg) (b : VecB) (tok : Tok)
  | vmulI32 (vd va : VReg) (b : VecB) (tok : Tok)
  | vaddsI32 (vd va : VReg) (b : VecB) (tok : Tok)
  | vsubsI32 (vd va : VReg) (b : VecB) (tok : Tok)
  | vaddsN32 (vd va : VReg) (b : VecB) (tok : Tok)
  | vsubsN32 (vd va : VReg) (b : VecB) (tok : Tok)
  | vminI32 (vd va : VReg) (b : VecB) (tok : Tok)
  | vmaxI32 (vd va : VReg) (b : VecB) (tok : Tok)
  | vminN32 (vd va : VReg) (b : VecB) (tok : Tok)
  | vmaxN32 (vd va : VReg) (b : VecB) (tok : Tok)
  | vand (vd va : VReg) (b : VecB) (tok : Tok)
  | vor (vd va : VReg) (b : VecB) (tok : Tok)
  | vxor (vd va : VReg) (b : VecB) (tok : Tok)
  | vshl (vd va : VReg) (b : VecB) (tok : Tok)
  | vshr (vd va : VReg) (b : VecB) (tok : Tok)
  | vsar (vd va : VReg) (b : VecB) (tok : Tok)
  | vcmpF32 (md : MReg) (rel : BitVec 2) (va : VReg) (b : VecB) (tok : Tok)
  | vcmpI32 (md : MReg) (rel : BitVec 2) (va : VReg) (b : VecB) (tok : Tok)
  | vcmpN32 (md : MReg) (rel : BitVec 2) (va : VReg) (b : VecB) (tok : Tok)
  | vsel (vd va : VReg) (b : VecB) (tok : Tok)
  | vperm (vd va : VReg) (b : VecB) (tok : Tok)
  | vrot (vd va : VReg) (b : VecB) (tok : Tok)
  | vext (vd va : VReg) (b : VecB) (tok : Tok)
  | vins (vd va : VReg) (b : VecB) (tok : Tok)
  | vbcast (vd va : VReg) (b : VecB) (tok : Tok)
  | vsplat (vd : VReg) (b : VecB) (tok : Tok)
  | vtopk (vd va : VReg) (b : VecB) (tok : Tok)
  -- conversions, unary forms, reductions (R188 to R193)
  | cvtF32I32 (vd va : VReg) (m : MReg) (tok : Tok)
  | cvtF32N32 (vd va : VReg) (m : MReg) (tok : Tok)
  | cvtI32F32 (vd va : VReg) (m : MReg) (tok : Tok)
  | cvtI32F32Rz (vd va : VReg) (m : MReg) (tok : Tok)
  | cvtN32F32 (vd va : VReg) (m : MReg) (tok : Tok)
  | cvtN32F32Rz (vd va : VReg) (m : MReg) (tok : Tok)
  | pkF16 (vd va : VReg) (m : MReg) (tok : Tok)
  | pkBf16 (vd va : VReg) (m : MReg) (tok : Tok)
  | pkBf16Rz (vd va : VReg) (m : MReg) (tok : Tok)
  | pkF8e4Sat (vd va : VReg) (m : MReg) (tok : Tok)
  | pkF8e4Nan (vd va : VReg) (m : MReg) (tok : Tok)
  | pkF8e5 (vd va : VReg) (m : MReg) (tok : Tok)
  | pkI16 (vd va : VReg) (m : MReg) (tok : Tok)
  | pkI8 (vd va : VReg) (m : MReg) (tok : Tok)
  | pkN8 (vd va : VReg) (m : MReg) (tok : Tok)
  | pkT2 (vd va : VReg) (m : MReg) (tok : Tok)
  | upkF16 (vd va : VReg) (m : MReg) (tok : Tok)
  | upkBf16 (vd va : VReg) (m : MReg) (tok : Tok)
  | upkF8e4 (vd va : VReg) (m : MReg) (tok : Tok)
  | upkF8e5 (vd va : VReg) (m : MReg) (tok : Tok)
  | upkI16 (vd va : VReg) (m : MReg) (tok : Tok)
  | upkI8 (vd va : VReg) (m : MReg) (tok : Tok)
  | upkN8 (vd va : VReg) (m : MReg) (tok : Tok)
  | upkT2 (vd va : VReg) (m : MReg) (tok : Tok)
  | cvtF32E8 (vd va : VReg) (m : MReg) (tok : Tok)
  | vexp2 (vd va : VReg) (m : MReg) (tok : Tok)
  | vrcp (vd va : VReg) (m : MReg) (tok : Tok)
  | vrsq (vd va : VReg) (m : MReg) (tok : Tok)
  | vnegF32 (vd va : VReg) (m : MReg) (tok : Tok)
  | vabsF32 (vd va : VReg) (m : MReg) (tok : Tok)
  | vnegI32 (vd va : VReg) (m : MReg) (tok : Tok)
  | vabsI32 (vd va : VReg) (m : MReg) (tok : Tok)
  | vmov (vd va : VReg) (m : MReg) (tok : Tok)
  | vrsumF32 (vd va : VReg) (m : MReg) (tok : Tok)
  | vrmaxF32 (vd va : VReg) (m : MReg) (tok : Tok)
  | vrminF32 (vd va : VReg) (m : MReg) (tok : Tok)
  | vrsumI32 (vd va : VReg) (m : MReg) (tok : Tok)
  | vrmaxI32 (vd va : VReg) (m : MReg) (tok : Tok)
  | vrminI32 (vd va : VReg) (m : MReg) (tok : Tok)
  | vrmaxN32 (vd va : VReg) (m : MReg) (tok : Tok)
  | vrminN32 (vd va : VReg) (m : MReg) (tok : Tok)
  | vscanF32 (vd va : VReg) (m : MReg) (tok : Tok)
  | vscanI32 (vd va : VReg) (m : MReg) (tok : Tok)
  -- masks (R195)
  | mand (md ma mb : MReg) (tok : Tok)
  | mor (md ma mb : MReg) (tok : Tok)
  | mxor (md ma mb : MReg) (tok : Tok)
  | mandn (md ma mb : MReg) (tok : Tok)
  | mnot (md ma : MReg) (tok : Tok)
  | mmov (md ma : MReg) (tok : Tok)
  | mcnt (vd : VReg) (ma mb : MReg) (tok : Tok)
  -- matrix engine (R328)
  | mmaF8e4 (z : BitVec 4) (s : BitVec 8) (a : XReg) (l : Lit) (sat : Bool) (tok : Tok)
  | mmaF8e5 (z : BitVec 4) (s : BitVec 8) (a : XReg) (l : Lit) (sat : Bool) (tok : Tok)
  | mmaF8x (z : BitVec 4) (s : BitVec 8) (a : XReg) (l : Lit) (sat : Bool) (tok : Tok)
  | mmaBf16 (z : BitVec 4) (s : BitVec 8) (a : XReg) (l : Lit) (sat : Bool) (tok : Tok)
  | mmaF16 (z : BitVec 4) (s : BitVec 8) (a : XReg) (l : Lit) (sat : Bool) (tok : Tok)
  | mmaI8 (z : BitVec 4) (s : BitVec 8) (a : XReg) (l : Lit) (sat : Bool) (tok : Tok)
  | mmaI8n (z : BitVec 4) (s : BitVec 8) (a : XReg) (l : Lit) (sat : Bool) (tok : Tok)
  | mmaT2 (z : BitVec 4) (s : BitVec 8) (a : XReg) (l : Lit) (sat : Bool) (tok : Tok)
  | mmaF32x3 (z : BitVec 4) (s : BitVec 8) (a : XReg) (l : Lit) (sat : Bool) (tok : Tok)
  | csld (s : BitVec 8) (a : XReg) (l : Lit) (tok : Tok)
  | csldt (e : BitVec 2) (s : BitVec 8) (a : XReg) (l : Lit) (tok : Tok)
  | acscE8 (z p : BitVec 4) (clr : Bool) (a : XReg) (l : Lit) (tok : Tok)
  | acscF32 (z p : BitVec 4) (clr : Bool) (a : XReg) (l : Lit) (tok : Tok)
  | acz (z : BitVec 4) (tok : Tok)
  | acld (z : BitVec 4) (f : BitVec 2) (a : XReg) (l : Lit) (tok : Tok)
  | acst (z : BitVec 4) (f : BitVec 2) (a : XReg) (l : Lit) (tok : Tok)
  | acmv (z : BitVec 4) (a : XReg) (tok : Tok)
  | acvr (v : VReg) (col : Bool) (a : XReg) (tok : Tok)
  | acrd (v : VReg) (col : Bool) (a : XReg) (tok : Tok)
  | haspAcq (budget : BitVec 6) (prio : BitVec 2) (tok : Tok)
  | haspRel (tok : Tok)
  -- words without operands, and badv and ccan, one constructor for each slot or channel
  | badv0
  | badv1
  | badv2
  | badv3
  | ccan0
  | ccan1
  | ccan2
  | ccan3
  | join
  | yield
  | exit
  | fenceStrand
  | fenceCore
  | fenceGroup
  | fenceDev
  | fenceWin
  | fenceSys
  | eret
  | tsync
  -- events of the planes, resets and the host (chapters 00, 01, 18)
  | powerOnReset
  | moduleReset
  | frontEndReady
  | dataPlaneRelease
  | frontEndFirmwareRestart
  | managementCoreReset
  | functionLevelReset
  | hostLinkAccess
  | telemetrySnapshot
  | submissionWrite
  | queueEnable
  | queueReset
  | functionRecordWrite
  | registerWrite
  | tenantRecordWrite
  | directoryInvalidate
  | kvPoolDeclare
  | keyLoad
  | keyErase
  | windowForm
  | windowUpdateRoutes
  | windowDissolve
  | pin
  | unpin
  | attestationReport
  | raiseRollbackFloor
  | unfreezeBlackBoxRecord
  | loadTime
  | recoveryImage
  | telemetryRead
  | blackBoxNote
  | kvCreate
  | kvDestroy
  | kvReturnCache
  | thermalThrottleStep
  | thermalRecoverStep
  | fatalFault
  | sectorPoison
  | strandEccError
  -- events of strands, placements and queues (chapters 05 to 09)
  | bundleIssue
  | tokenDeadlock
  | tokenStranded
  | eventIncrementApply
  | taskTake
  | placementStart
  | placementRetire
  | ringWaiterWake
  | handlerEntry
  | nodeTermination
  | preemptionRequest
  | handlerOverrunTimeout
  | contextSave
  | groupResume
  | keptWaitComplete
  | wfeTimeout
  | barrierArrivalCount
  | barrierDelivery
  | translationWalk
  -- events of the copy engine, matrix array, slices and attention engine (chapters 11 to 14)
  | copyBegin
  | gatherBlockBegin
  | landingBegin
  | landingComplete
  | copyComplete
  | chainEntryFetch
  | haspGrant
  | routineInstall
  | tmbRoutineRun
  | tmbResultReturn
  | sectorEviction
  | kvRefillGrant
  | attentionRequestBegin
  | attentionRequestComplete
  -- events of the fabric (chapter 15)
  | linkFlitResend
  | linkDown
  | flowStop
  | flowGo
  | timingMessage
  | remoteAccessHome
  | famoApply
  | fsigApply
  | collContributionMerge
  | collComplete
  | collPreemptTimeout
  | remoteTermination
  | nodeForward
  | forwardedEntryComplete
  | windowFormMatch
  | windowFormTimeout
  -- packets, graphs and deadline issue (chapter 16), streams and encoders (chapter 17)
  | nop
  | node
  | dec
  | wait
  | waitSatisfied
  | signal
  | ffence
  | streamSetup
  | streamStop
  | streamReleaseAnchors
  | frame
  | frameRelease
  | frameSlotClaim
  | queueMap
  | nodeReadyCheck
  | arbiterPlace
  | preemptionDecision
  | completionRecord
  | encoderTakeSlot
  | encoderRecordPublish
  | clkEdge
  | timeAdvance
  | softErrorCorrected
  | unknownPacketType
  | unknownOpcode
  | lossOfPower
  deriving DecidableEq, Repr

end Sys2Proof
end

