-- ==== Sys2Proof/WellFormed.lean ====
section
/-!
DEFINITION. The checks on field values that a decoded word must meet; a word that fails one raises cause 0x01 at
decode (R52, R56, R58). The checks that spawn, idx, csrr, csrw, ewait and sstat make at issue are in their meanings
(R171, R455, R483).
-/

namespace Sys2Proof

/-- An LQ instruction has no previous queue: neither -p nor +p (R56). -/
def lqTok (t : Tok) : Bool := !t.getLsbD 2 && !t.getLsbD 1

/-- An SQ instruction has no next queue: neither +n nor -n (R56). -/
def sqTok (t : Tok) : Bool := !t.getLsbD 3 && !t.getLsbD 0

/-- Whether a form without an imm8 list accepts this operand b (R67, R177). -/
def VecB.noImm : VecB → Bool
  | .imm _ => false
  | _ => true

/-- Operand b of a form that requires bsel = 00 (R55). -/
def VecB.isVec : VecB → Bool
  | .vec _ _ => true
  | _ => false

/-- imm8 no greater than `n`; every other operand b is accepted (R186, R194). -/
def VecB.immLe (n : Nat) : VecB → Bool
  | .imm i => decide (i.toNat ≤ n)
  | _ => true

/-- The field values of an instruction are legal; of pref and probe, log entry 27 (R52, R54 to R56, R167, R179, R197, R205, R207, R208, R212, R283,
R300, R328, R352, R402). -/
def Instr.wf : Instr → Bool
  | .lds _ _ _ _ t | .vlds _ _ _ _ t | .ldro _ _ _ _ t | .vldsg _ _ _ _ t => lqTok t
  | .rclaim _ _ t | .rwait _ _ t | .rstat _ _ t => lqTok t
  | .sts _ _ _ _ t | .vsts _ _ _ _ t | .vstss _ _ _ _ t => sqTok t
  | .rfill _ _ t | .rrel _ _ t => sqTok t
  | .rinit d _ t => sqTok t && decide (d.toNat ≤ 62)
  | .ldg _ _ c _ t | .pref _ _ c t => lqTok t && decide (c.toNat ≤ 59)
  | .stg _ _ c _ t => sqTok t && decide (c.toNat ≤ 59)
  | .amoAdd _ a _ _ t | .amoMin _ a _ _ t | .amoMax _ a _ _ t | .amoMinn _ a _ _ t | .amoMaxn _ a _ _ t
  | .amoAnd _ a _ _ t | .amoOr _ a _ _ t | .amoXor _ a _ _ t | .amoSwap _ a _ _ t => lqTok t && decide (a.toNat ≤ 62)
  | .amoCas _ a _ _ t => lqTok t && decide (a.toNat ≤ 61)
  | .vaddF32 _ _ b _ | .vsubF32 _ _ b _ | .vmulF32 _ _ b _ | .vfmaF32 _ _ b _ | .vfmacF32 _ _ b _
  | .vminF32 _ _ b _ | .vmaxF32 _ _ b _ | .vaddI32 _ _ b _ | .vsubI32 _ _ b _ | .vmulI32 _ _ b _
  | .vaddsI32 _ _ b _ | .vsubsI32 _ _ b _ | .vaddsN32 _ _ b _ | .vsubsN32 _ _ b _ | .vminI32 _ _ b _
  | .vmaxI32 _ _ b _ | .vminN32 _ _ b _ | .vmaxN32 _ _ b _ | .vand _ _ b _ | .vor _ _ b _ | .vxor _ _ b _ => b.noImm
  | .vsplat _ b _ => b.noImm
  | .vcmpF32 md _ _ b _ | .vcmpI32 md _ _ b _ | .vcmpN32 md _ _ b _ => b.noImm && decide (md ≠ 0)
  | .vsel _ _ b _ | .vperm _ _ b _ => b.isVec
  | .vrot _ _ b _ | .vext _ _ b _ | .vins _ _ b _ | .vbcast _ _ b _ => b.immLe 63
  | .vtopk _ _ b _ => b.immLe 16
  | .mand md _ _ _ | .mor md _ _ _ | .mxor md _ _ _ | .mandn md _ _ _ | .mnot md _ _ | .mmov md _ _ => decide (md ≠ 0)
  | .mcnt vd _ _ _ => decide (vd.toNat ≤ 7)
  | .csldt e _ _ _ _ => decide (e ≠ 3)
  | .acscE8 z p _ _ _ _ | .acscF32 z p _ _ _ _ => decide (z ≠ p)
  | .epush e _ _ | .epop _ e _ | .estat _ e => decide (e.toNat ≤ 1)
  | .cpym _ a _ | .cpyg _ a _ => decide (a.toNat ≤ 62)
  | .tmbRlx d a _ | .tmbAcq d a _ | .tmbRel d a _ | .tmbTRlx d a _ | .tmbTAcq d a _ | .tmbTRel d a _ =>
    decide (d.toNat ≤ 62) && decide (a.toNat ≤ 61)
  | .famo op w _ _ => decide (op.toNat ≤ 9) && !(w && decide (8 ≤ op.toNat))
  | .probe _ _ b | .pgreq _ _ b => decide (b.toNat ≤ 59)
  | _ => true

end Sys2Proof
end

