-- ==== Sys2Proof/Decode.lean ====
section
/-!
DEFINITION. The decoder: a total function from an instruction word, with its literal, to an instruction or a named
refusal (R51 to R67), the same over bytes, and the encoder written from the same tables. Checks of field values that
leave the structure of the word intact are `Instr.wf`.
-/

namespace Sys2Proof

/-- Why a word is no instruction: each is cause 0x01, but for the last two, which name missing input. -/
inductive DecodeErr where
  /-- Major 0x3F stands only in headers (R59). -/
  | header
  /-- An unassigned major (R59). -/
  | major
  /-- An unassigned funct (R61 to R66). -/
  | funct
  /-- A nonzero unused field, or a sub-field value outside its list (R52, R67). -/
  | field
  /-- L = 1 where R54 forbids it. -/
  | literal
  /-- L = 1 and no literal word follows. -/
  | literalMissing
  /-- Fewer than four bytes. -/
  | short
  deriving DecidableEq, Repr

/-- Bits `[lo + len - 1 : lo]` of a word. -/
def fld (w lo len : Nat) : Nat := w / 2 ^ lo % 2 ^ len

/-- A six-bit field. -/
def xf (w lo : Nat) : BitVec 6 := BitVec.ofNat 6 (fld w lo 6)
/-- A five-bit field. -/
def vf (w lo : Nat) : BitVec 5 := BitVec.ofNat 5 (fld w lo 5)
/-- A four-bit field. -/
def qf (w lo : Nat) : BitVec 4 := BitVec.ofNat 4 (fld w lo 4)
/-- A three-bit field. -/
def mf (w lo : Nat) : BitVec 3 := BitVec.ofNat 3 (fld w lo 3)
/-- A two-bit field. -/
def df (w lo : Nat) : BitVec 2 := BitVec.ofNat 2 (fld w lo 2)
/-- An eight-bit field. -/
def bf (w lo : Nat) : BitVec 8 := BitVec.ofNat 8 (fld w lo 8)

/-- Whether an instruction word is followed by a literal: L = 1 in a format that has an L bit (R44). -/
def wantsLiteral (w : Nat) : Bool :=
  let m := fld w 25 7
  decide (fld w 24 1 = 1) &&
    (decide (m < 4) || (decide (0x20 ≤ m) && decide (m ≤ 0x2B)) || (decide (0x30 ≤ m) && decide (m ≤ 0x3D)) ||
      (decide (0x40 ≤ m) && decide (m ≤ 0x58)) || (decide (0x60 ≤ m) && decide (m ≤ 0x73)))

/-- Accept an instruction when every field it does not use is 0. -/
def zeros (ok : Bool) (i : Instr) : Except DecodeErr Instr := if ok then .ok i else .error .field

/-- A form that takes no literal (R54). -/
def noLit (l : Lit) (k : Except DecodeErr Instr) : Except DecodeErr Instr :=
  match l with
  | none => k
  | some _ => .error .literal

/-- One of four, by a two-bit field. -/
def four (n : Nat) (i0 i1 i2 i3 : Instr) : Instr :=
  match n with
  | 0 => i0
  | 1 => i1
  | 2 => i2
  | _ => i3

/-- Operand b of the SR format (R54). -/
def withB (w : Nat) (l : Lit) (k : SrcB → Except DecodeErr Instr) : Except DecodeErr Instr :=
  match l with
  | none => k (.reg (xf w 6))
  | some v => if fld w 6 6 = 0 then k (.lit v) else .error .field

/-- The offset of the LS and VM formats (R53, R54). -/
def withOff (w : Nat) (l : Lit) (k : Off → Except DecodeErr Instr) : Except DecodeErr Instr :=
  match l with
  | none => k (.short (xf w 4))
  | some v => if fld w 4 6 = 0 then k (.lit v) else .error .field

/-- Operand b of the VR format (R55). -/
def withVecB (w : Nat) (l : Lit) (k : VecB → Except DecodeErr Instr) : Except DecodeErr Instr :=
  match l with
  | some v => if fld w 4 2 = 3 then (if fld w 6 8 = 0 then k (.lit v) else .error .field) else .error .literal
  | none =>
    match fld w 4 2 with
    | 0 => k (.vec (vf w 6) (mf w 11))
    | 1 => k (.const (bf w 6))
    | 2 => if fld w 12 2 = 0 then k (.scalar (xf w 6)) else .error .field
    | _ => k (.imm (bf w 6))

/-- Major 0x00 (R61, R148). -/
def decodeAlu (w : Nat) (l : Lit) : Except DecodeErr Instr :=
  let d := xf w 18
  let a := xf w 12
  match fld w 0 6 with
  | 0x00 => withB w l fun b => .ok (.add d a b)
  | 0x01 => withB w l fun b => .ok (.sub d a b)
  | 0x02 => withB w l fun b => .ok (.mul d a b)
  | 0x03 => withB w l fun b => .ok (.mulh d a b)
  | 0x04 => withB w l fun b => .ok (.mulhn d a b)
  | 0x05 => withB w l fun b => .ok (.div d a b)
  | 0x06 => withB w l fun b => .ok (.divn d a b)
  | 0x07 => withB w l fun b => .ok (.rem d a b)
  | 0x08 => withB w l fun b => .ok (.remn d a b)
  | 0x09 => withB w l fun b => .ok (.and d a b)
  | 0x0a => withB w l fun b => .ok (.or d a b)
  | 0x0b => withB w l fun b => .ok (.xor d a b)
  | 0x0c => withB w l fun b => .ok (.andn d a b)
  | 0x0d => withB w l fun b => .ok (.shl d a b)
  | 0x0e => withB w l fun b => .ok (.shr d a b)
  | 0x0f => withB w l fun b => .ok (.sar d a b)
  | 0x10 => withB w l fun b => .ok (.rol d a b)
  | 0x11 => withB w l fun b => .ok (.min d a b)
  | 0x12 => withB w l fun b => .ok (.max d a b)
  | 0x13 => withB w l fun b => .ok (.minn d a b)
  | 0x14 => withB w l fun b => .ok (.maxn d a b)
  | 0x15 => noLit l (zeros (fld w 6 6 = 0) (.clz d a))
  | 0x16 => noLit l (zeros (fld w 6 6 = 0) (.ctz d a))
  | 0x17 => noLit l (zeros (fld w 6 6 = 0) (.popc d a))
  | 0x18 => noLit l (zeros (fld w 6 6 = 0) (.sext8 d a))
  | 0x19 => noLit l (zeros (fld w 6 6 = 0) (.sext16 d a))
  | 0x1a => noLit l (zeros (fld w 6 6 = 0) (.sext32 d a))
  | 0x1b => withB w l fun b => .ok (.cmpEq d a b)
  | 0x1c => withB w l fun b => .ok (.cmpNe d a b)
  | 0x1d => withB w l fun b => .ok (.cmpLt d a b)
  | 0x1e => withB w l fun b => .ok (.cmpLtn d a b)
  | 0x1f => withB w l fun b => .ok (.cmpLe d a b)
  | 0x20 => withB w l fun b => .ok (.cmpLen d a b)
  | 0x21 => withB w l fun b => .ok (.sel d a b)
  | 0x22 => withB w l fun b => zeros (fld w 12 6 = 0) (.mov d b)
  | _ => .error .funct

/-- Majors 0x04 to 0x1F: the SI, SJ and SB formats, named by op = major[6:1] (R51, R150 to R152). -/
def decodeImm (w : Nat) : Except DecodeErr Instr :=
  let d := xf w 20
  let a := xf w 14
  let i14 := BitVec.ofNat 14 (fld w 0 14)
  let i20 := BitVec.ofNat 20 (fld w 0 20)
  match fld w 26 6 with
  | 0x02 => .ok (.addi d a i14)
  | 0x03 => .ok (.andi d a i14)
  | 0x04 => .ok (.ori d a i14)
  | 0x05 => .ok (.xori d a i14)
  | 0x06 =>
    if fld w 6 6 = 0 then
      match fld w 12 2 with
      | 0 => .ok (.shlImm d a (xf w 0))
      | 1 => .ok (.shrImm d a (xf w 0))
      | 2 => .ok (.sarImm d a (xf w 0))
      | _ => .ok (.rolImm d a (xf w 0))
    else .error .field
  | 0x07 => .ok (.li d i20)
  | 0x08 => .ok (.lih d i20)
  | 0x09 => .ok (.lif d i20)
  | 0x0A => .ok (.bcZ d i20)
  | 0x0B => .ok (.bcNz d i20)
  | 0x0C => .ok (.bcLt d i20)
  | 0x0D => .ok (.bcGe d i20)
  | 0x0E => .ok (.call d i20)
  | 0x0F => zeros (fld w 22 4 = 0) (.loop (df w 20) i20)
  | _ => .error .major

/-- Major 0x01 (R62, R154, R105, R242). -/
def decodeCtl (w : Nat) (l : Lit) : Except DecodeErr Instr :=
  let d := xf w 18
  let a := xf w 12
  match fld w 0 6 with
  | 0x00 => withB w l fun b => zeros (fld w 18 6 = 0) (.jr a b)
  | 0x01 => noLit l (zeros (fld w 18 6 = 0 && fld w 6 6 = 0) (.ret a))
  | 0x02 => withB w l fun b => .ok (.spawn d a b)
  | 0x03 => noLit l (zeros (fld w 6 18 = 0) .join)
  | 0x04 => noLit l (zeros (fld w 6 18 = 0) .yield)
  | 0x05 => noLit l (zeros (fld w 6 18 = 0) .exit)
  | 0x06 => noLit l (zeros (fld w 6 6 = 0) (.idx d a))
  | 0x07 => noLit l (zeros (fld w 6 12 = 0) (.cyc d))
  | 0x08 => noLit l (zeros (fld w 6 12 = 0) (.time d))
  | 0x09 => noLit l (zeros (fld w 6 6 = 0) (.csrr d a))
  | 0x0a => withB w l fun b => zeros (fld w 12 6 = 0) (.csrw d b)
  | 0x0b => withB w l fun b => .ok (.lit d a b)
  | 0x0c => withB w l fun b => .ok (.adda d a b)
  | 0x0d => withB w l fun b => zeros (fld w 18 6 = 0) (.esig a b)
  | 0x0e => withB w l fun b => zeros (fld w 12 6 = 0 && fld w 22 2 = 0) (.eset (qf w 18) b)
  | 0x0f => noLit l (zeros (fld w 6 6 = 0 && fld w 16 2 = 0) (.eget d (qf w 12)))
  | 0x10 => withB w l fun b => zeros (fld w 12 6 = 0) (.ewait (qf w 18) (df w 22) b)
  | 0x11 => noLit l (zeros (fld w 6 18 = 0) .fenceStrand)
  | 0x12 => noLit l (zeros (fld w 6 18 = 0) .fenceCore)
  | 0x13 => noLit l (zeros (fld w 6 18 = 0) .fenceGroup)
  | 0x14 => noLit l (zeros (fld w 6 18 = 0) .fenceDev)
  | 0x15 => noLit l (zeros (fld w 6 18 = 0) .fenceWin)
  | 0x16 => noLit l (zeros (fld w 6 18 = 0) .fenceSys)
  | 0x17 => withB w l fun b => zeros (fld w 12 12 = 0) (.trap b)
  | 0x18 => noLit l (zeros (fld w 6 18 = 0) .eret)
  | 0x19 => noLit l (zeros (fld w 18 6 = 0 && fld w 6 6 = 0) (.ctxs a))
  | 0x1a => noLit l (zeros (fld w 18 6 = 0 && fld w 6 6 = 0) (.ctxr a))
  | 0x1b => withB w l fun b => zeros (fld w 12 6 = 0) (.wfe d b)
  | 0x1c => withB w l fun b => zeros (fld w 12 12 = 0) (.halt b)
  | _ => .error .funct

/-- Major 0x02 (R63, R260, R283, R369, R441, R455). -/
def decodeSvc (w : Nat) (l : Lit) : Except DecodeErr Instr :=
  let d := xf w 18
  let a := xf w 12
  match fld w 0 6 with
  | 0x00 => withB w l fun b => zeros (fld w 20 4 = 0) (.bdecl (df w 18) a b)
  | 0x01 => noLit l (zeros (fld w 20 4 = 0 && fld w 6 12 = 0) (four (fld w 18 2) .badv0 .badv1 .badv2 .badv3))
  | 0x02 => noLit l (zeros (fld w 20 4 = 0 && fld w 16 2 = 0 && fld w 6 6 = 0) (.barvRel (df w 18) (qf w 12)))
  | 0x03 => noLit l (zeros (fld w 20 4 = 0 && fld w 16 2 = 0 && fld w 6 6 = 0) (.barvRlx (df w 18) (qf w 12)))
  | 0x04 => noLit l (zeros (fld w 20 4 = 0 && fld w 16 2 = 0 && fld w 6 6 = 0) (.barw (df w 18) (qf w 12)))
  | 0x05 => noLit l (zeros (fld w 20 4 = 0 && fld w 16 2 = 0 && fld w 6 6 = 0) (.bara (df w 18) (qf w 12)))
  | 0x06 => noLit l (zeros (fld w 14 4 = 0 && fld w 6 6 = 0) (.bstat d (df w 12)))
  | 0x08 => noLit l (zeros (fld w 16 2 = 0) (.probe d (qf w 12) (xf w 6)))
  | 0x09 => noLit l (zeros (fld w 16 2 = 0) (.pgreq d (qf w 12) (xf w 6)))
  | 0x0a => withB w l fun b => zeros (fld w 18 6 = 0 && fld w 16 2 = 0) (.tinv (qf w 12) b)
  | 0x0b => noLit l (zeros (fld w 6 18 = 0) .tsync)
  | 0x0c => withB w l fun b => zeros (fld w 18 6 = 0 && fld w 16 2 = 0) (.tdesc (qf w 12) b)
  | 0x10 => withB w l fun b => .ok (.qlaunch d a b)
  | 0x11 => withB w l fun b => .ok (.qpatch d a b)
  | 0x12 => noLit l (zeros (fld w 6 6 = 0) (.sstat d a))
  | 0x13 => withB w l fun b => .ok (.kvalloc d a b)
  | 0x14 => withB w l fun b => .ok (.kvfree d a b)
  | 0x15 => noLit l (zeros (fld w 6 6 = 0) (.kvchk d a))
  | _ => .error .funct

/-- Major 0x03 (R64, R167, R300, R352, R383, R400, R456). -/
def decodeEng (w : Nat) (l : Lit) : Except DecodeErr Instr :=
  let d := xf w 18
  let a := xf w 12
  match fld w 0 6 with
  | 0x00 => withB w l fun b => .ok (.epush d a b)
  | 0x01 => withB w l fun b => .ok (.epop d a b)
  | 0x02 => noLit l (zeros (fld w 6 6 = 0) (.estat d a))
  | 0x04 => withB w l fun b => zeros (fld w 20 4 = 0 && fld w 12 6 = 0) (.cpy (df w 18) b)
  | 0x05 => withB w l fun b => zeros (fld w 20 4 = 0) (.cpym (df w 18) a b)
  | 0x06 => withB w l fun b => zeros (fld w 20 4 = 0) (.cpyg (df w 18) a b)
  | 0x07 => noLit l (zeros (fld w 14 4 = 0 && fld w 6 6 = 0) (.drain d (df w 12)))
  | 0x08 => withB w l fun b => zeros (fld w 20 4 = 0) (.chlink (df w 18) a b)
  | 0x09 => withB w l fun b => zeros (fld w 20 4 = 0 && fld w 12 6 = 0) (.chkick (df w 18) b)
  | 0x0a => withB w l fun b => zeros (fld w 12 6 = 0) (.sbq d b)
  | 0x0b => noLit l (zeros (fld w 20 4 = 0 && fld w 6 12 = 0) (four (fld w 18 2) .ccan0 .ccan1 .ccan2 .ccan3))
  | 0x10 => withB w l fun b => .ok (.tmbRlx d a b)
  | 0x11 => withB w l fun b => .ok (.tmbAcq d a b)
  | 0x12 => withB w l fun b => .ok (.tmbRel d a b)
  | 0x14 => withB w l fun b => .ok (.tmbTRlx d a b)
  | 0x15 => withB w l fun b => .ok (.tmbTAcq d a b)
  | 0x16 => withB w l fun b => .ok (.tmbTRel d a b)
  | 0x18 => withB w l fun b => zeros (fld w 18 6 = 0) (.attn a b)
  | 0x19 => withB w l fun b => zeros (fld w 18 6 = 0) (.attnP8 a b)
  | 0x1a => withB w l fun b => zeros (fld w 18 6 = 0) (.attnP8n a b)
  | 0x1b => withB w l fun b => zeros (fld w 12 6 = 0) (.attw d b)
  | 0x20 => noLit l (zeros (fld w 6 6 = 0) (.coll d a))
  | 0x21 => withB w l fun b => zeros (fld w 23 1 = 0) (.famo (qf w 18) (decide (fld w 22 1 = 1)) a b)
  | 0x22 => withB w l fun b => zeros (fld w 18 6 = 0) (.fsig a b)
  | 0x23 => withB w l fun b => zeros (fld w 12 6 = 0) (.fwin d b)
  | 0x24 => noLit l (zeros (fld w 18 6 = 0 && fld w 6 6 = 0) (.encsub a))
  | _ => .error .funct

/-- Majors 0x20 to 0x29: the LS, VM, VG and VT formats (R51, R60, R201 to R207). -/
def decodeMem (w : Nat) (l : Lit) : Except DecodeErr Instr :=
  let tok := qf w 0
  let v := vf w 19
  match fld w 25 7 with
  | 0x20 => withOff w l fun o => .ok (.lds (xf w 18) (xf w 12) (df w 10) o tok)
  | 0x21 => withOff w l fun o => .ok (.sts (xf w 18) (xf w 12) (df w 10) o tok)
  | 0x22 => withOff w l fun o => .ok (.vlds v (xf w 13) (mf w 10) o tok)
  | 0x23 => withOff w l fun o => .ok (.vsts v (xf w 13) (mf w 10) o tok)
  | 0x24 => withOff w l fun o => .ok (.ldro v (xf w 13) (mf w 10) o tok)
  | 0x25 => noLit l (zeros (fld w 4 1 = 0) (.vldsg v (xf w 13) (vf w 8) (mf w 5) tok))
  | 0x26 => noLit l (zeros (fld w 4 1 = 0) (.vstss v (xf w 13) (vf w 8) (mf w 5) tok))
  | 0x27 => noLit l (zeros (fld w 4 2 = 0) (.ldg v (qf w 15) (xf w 9) (mf w 6) tok))
  | 0x28 => noLit l (zeros (fld w 4 2 = 0) (.stg v (qf w 15) (xf w 9) (mf w 6) tok))
  | _ => noLit l (zeros (fld w 4 5 = 0 && fld w 20 4 = 0) (.pref (decide (fld w 19 1 = 1)) (qf w 15) (xf w 9) tok))

/-- Majors 0x2A and 0x2B: the QF format (R65, R67, R208, R212, R214). -/
def decodeQF (w : Nat) (l : Lit) : Except DecodeErr Instr :=
  let d := xf w 18
  let a := xf w 12
  let tok := qf w 0
  let wide := decide (fld w 4 1 = 1)
  if fld w 25 7 = 0x2A then
    match fld w 6 6 with
    | 0x00 => zeros (fld w 5 1 = 0) (.amoAdd d a wide l tok)
    | 0x01 => zeros (fld w 5 1 = 0) (.amoMin d a wide l tok)
    | 0x02 => zeros (fld w 5 1 = 0) (.amoMax d a wide l tok)
    | 0x03 => zeros (fld w 5 1 = 0) (.amoMinn d a wide l tok)
    | 0x04 => zeros (fld w 5 1 = 0) (.amoMaxn d a wide l tok)
    | 0x05 => zeros (fld w 5 1 = 0) (.amoAnd d a wide l tok)
    | 0x06 => zeros (fld w 5 1 = 0) (.amoOr d a wide l tok)
    | 0x07 => zeros (fld w 5 1 = 0) (.amoXor d a wide l tok)
    | 0x08 => zeros (fld w 5 1 = 0) (.amoSwap d a wide l tok)
    | 0x09 => zeros (fld w 5 1 = 0) (.amoCas d a wide l tok)
    | 0x10 => noLit l (zeros (fld w 4 2 = 0) (.rclaim d a tok))
    | 0x11 => noLit l (zeros (fld w 4 2 = 0) (.rwait d a tok))
    | 0x12 => noLit l (zeros (fld w 4 2 = 0) (.rstat d a tok))
    | _ => .error .funct
  else
    match fld w 6 6 with
    | 0x00 => noLit l (zeros (fld w 4 2 = 0) (.rinit d a tok))
    | 0x01 => noLit l (zeros (fld w 4 2 = 0) (.rfill d a tok))
    | 0x02 => noLit l (zeros (fld w 4 2 = 0) (.rrel d a tok))
    | _ => .error .funct

/-- Majors 0x30 to 0x3D and 0x40 to 0x54: the VR format (R59, R180 to R186, R194). -/
def decodeVR (w : Nat) (l : Lit) : Except DecodeErr Instr :=
  withVecB w l fun b =>
  let vd := vf w 19
  let va := vf w 14
  let tok := qf w 0
  match fld w 25 7 with
  | 0x30 => .ok (.vaddF32 vd va b tok)
  | 0x31 => .ok (.vsubF32 vd va b tok)
  | 0x32 => .ok (.vmulF32 vd va b tok)
  | 0x33 => .ok (.vfmaF32 vd va b tok)
  | 0x34 => .ok (.vfmacF32 vd va b tok)
  | 0x35 => .ok (.vminF32 vd va b tok)
  | 0x36 => .ok (.vmaxF32 vd va b tok)
  | 0x37 => .ok (.vaddI32 vd va b tok)
  | 0x38 => .ok (.vsubI32 vd va b tok)
  | 0x39 => .ok (.vmulI32 vd va b tok)
  | 0x3a => .ok (.vaddsI32 vd va b tok)
  | 0x3b => .ok (.vsubsI32 vd va b tok)
  | 0x3c => .ok (.vaddsN32 vd va b tok)
  | 0x3d => .ok (.vsubsN32 vd va b tok)
  | 0x40 => .ok (.vminI32 vd va b tok)
  | 0x41 => .ok (.vmaxI32 vd va b tok)
  | 0x42 => .ok (.vminN32 vd va b tok)
  | 0x43 => .ok (.vmaxN32 vd va b tok)
  | 0x44 => .ok (.vand vd va b tok)
  | 0x45 => .ok (.vor vd va b tok)
  | 0x46 => .ok (.vxor vd va b tok)
  | 0x47 => .ok (.vshl vd va b tok)
  | 0x48 => .ok (.vshr vd va b tok)
  | 0x49 => .ok (.vsar vd va b tok)
  | 0x4a => .ok (.vcmpF32 (mf w 19) (df w 22) va b tok)
  | 0x4b => .ok (.vcmpI32 (mf w 19) (df w 22) va b tok)
  | 0x4c => .ok (.vcmpN32 (mf w 19) (df w 22) va b tok)
  | 0x4d => .ok (.vsel vd va b tok)
  | 0x4e => .ok (.vperm vd va b tok)
  | 0x4f => .ok (.vrot vd va b tok)
  | 0x50 => .ok (.vext vd va b tok)
  | 0x51 => .ok (.vins vd va b tok)
  | 0x52 => .ok (.vbcast vd va b tok)
  | 0x53 => zeros (fld w 14 5 = 0) (.vsplat vd b tok)
  | 0x54 => .ok (.vtopk vd va b tok)
  | _ => .error .major

/-- Major 0x55 (R66). -/
def decodeCvt (w : Nat) : Except DecodeErr Instr :=
  let vd := vf w 19
  let va := vf w 14
  let m := mf w 5
  let tok := qf w 0
  match fld w 8 6 with
  | 0x00 => .ok (.cvtF32I32 vd va m tok)
  | 0x01 => .ok (.cvtF32N32 vd va m tok)
  | 0x02 => .ok (.cvtI32F32 vd va m tok)
  | 0x03 => .ok (.cvtI32F32Rz vd va m tok)
  | 0x04 => .ok (.cvtN32F32 vd va m tok)
  | 0x05 => .ok (.cvtN32F32Rz vd va m tok)
  | 0x08 => .ok (.pkF16 vd va m tok)
  | 0x09 => .ok (.pkBf16 vd va m tok)
  | 0x0a => .ok (.pkBf16Rz vd va m tok)
  | 0x0b => .ok (.pkF8e4Sat vd va m tok)
  | 0x0c => .ok (.pkF8e4Nan vd va m tok)
  | 0x0d => .ok (.pkF8e5 vd va m tok)
  | 0x0e => .ok (.pkI16 vd va m tok)
  | 0x0f => .ok (.pkI8 vd va m tok)
  | 0x10 => .ok (.pkN8 vd va m tok)
  | 0x11 => .ok (.pkT2 vd va m tok)
  | 0x18 => .ok (.upkF16 vd va m tok)
  | 0x19 => .ok (.upkBf16 vd va m tok)
  | 0x1a => .ok (.upkF8e4 vd va m tok)
  | 0x1b => .ok (.upkF8e5 vd va m tok)
  | 0x1c => .ok (.upkI16 vd va m tok)
  | 0x1d => .ok (.upkI8 vd va m tok)
  | 0x1e => .ok (.upkN8 vd va m tok)
  | 0x1f => .ok (.upkT2 vd va m tok)
  | 0x20 => .ok (.cvtF32E8 vd va m tok)
  | _ => .error .funct

/-- Major 0x56 (R66). -/
def decodeUn (w : Nat) : Except DecodeErr Instr :=
  let vd := vf w 19
  let va := vf w 14
  let m := mf w 5
  let tok := qf w 0
  match fld w 8 6 with
  | 0x00 => .ok (.vexp2 vd va m tok)
  | 0x01 => .ok (.vrcp vd va m tok)
  | 0x02 => .ok (.vrsq vd va m tok)
  | 0x03 => .ok (.vnegF32 vd va m tok)
  | 0x04 => .ok (.vabsF32 vd va m tok)
  | 0x05 => .ok (.vnegI32 vd va m tok)
  | 0x06 => .ok (.vabsI32 vd va m tok)
  | 0x07 => .ok (.vmov vd va m tok)
  | _ => .error .funct

/-- Major 0x57 (R66). -/
def decodeRed (w : Nat) : Except DecodeErr Instr :=
  let vd := vf w 19
  let va := vf w 14
  let m := mf w 5
  let tok := qf w 0
  match fld w 8 6 with
  | 0x00 => .ok (.vrsumF32 vd va m tok)
  | 0x01 => .ok (.vrmaxF32 vd va m tok)
  | 0x02 => .ok (.vrminF32 vd va m tok)
  | 0x03 => .ok (.vrsumI32 vd va m tok)
  | 0x04 => .ok (.vrmaxI32 vd va m tok)
  | 0x05 => .ok (.vrminI32 vd va m tok)
  | 0x06 => .ok (.vrmaxN32 vd va m tok)
  | 0x07 => .ok (.vrminN32 vd va m tok)
  | 0x08 => .ok (.vscanF32 vd va m tok)
  | 0x09 => .ok (.vscanI32 vd va m tok)
  | _ => .error .funct

/-- Major 0x58: the mask forms (R66, R195). -/
def decodeMsk (w : Nat) : Except DecodeErr Instr :=
  if fld w 22 2 = 0 && fld w 17 2 = 0 then
    let d := mf w 19
    let a := mf w 14
    let b := mf w 5
    let tok := qf w 0
    match fld w 8 6 with
    | 0x00 => .ok (.mand d a b tok)
    | 0x01 => .ok (.mor d a b tok)
    | 0x02 => .ok (.mxor d a b tok)
    | 0x03 => .ok (.mandn d a b tok)
    | 0x04 => zeros (fld w 5 3 = 0) (.mnot d a tok)
    | 0x05 => zeros (fld w 5 3 = 0) (.mmov d a tok)
    | 0x06 => .ok (.mcnt (vf w 19) a b tok)
    | _ => .error .funct
  else .error .field

/-- Majors 0x55 to 0x58: the VX format, with L = 0 and bit 4 clear (R54, R66). -/
def decodeVX (w : Nat) (l : Lit) : Except DecodeErr Instr :=
  noLit l (if fld w 4 1 = 0 then
    match fld w 25 7 with
    | 0x55 => decodeCvt w
    | 0x56 => decodeUn w
    | 0x57 => decodeRed w
    | _ => decodeMsk w
  else .error .field)

/-- Majors 0x60 to 0x73: the MX format (R59, R67, R328). -/
def decodeMX (w : Nat) (l : Lit) : Except DecodeErr Instr :=
  let z := qf w 20
  let s := bf w 12
  let a := xf w 6
  let f := fld w 4 2
  let tok := qf w 0
  match fld w 25 7 with
  | 0x60 => zeros (fld w 5 1 = 0) (.mmaF8e4 z s a l (decide (f = 1)) tok)
  | 0x61 => zeros (fld w 5 1 = 0) (.mmaF8e5 z s a l (decide (f = 1)) tok)
  | 0x62 => zeros (fld w 5 1 = 0) (.mmaF8x z s a l (decide (f = 1)) tok)
  | 0x63 => zeros (fld w 5 1 = 0) (.mmaBf16 z s a l (decide (f = 1)) tok)
  | 0x64 => zeros (fld w 5 1 = 0) (.mmaF16 z s a l (decide (f = 1)) tok)
  | 0x65 => zeros (fld w 5 1 = 0) (.mmaI8 z s a l (decide (f = 1)) tok)
  | 0x66 => zeros (fld w 5 1 = 0) (.mmaI8n z s a l (decide (f = 1)) tok)
  | 0x67 => zeros (fld w 5 1 = 0) (.mmaT2 z s a l (decide (f = 1)) tok)
  | 0x68 => zeros (fld w 5 1 = 0) (.mmaF32x3 z s a l (decide (f = 1)) tok)
  | 0x69 => zeros (fld w 20 4 = 0 && f = 0) (.csld s a l tok)
  | 0x6A => zeros (fld w 22 2 = 0 && f = 0) (.csldt (df w 20) s a l tok)
  | 0x6B => zeros (fld w 17 3 = 0 && f = 0) (.acscE8 z (qf w 12) (decide (fld w 16 1 = 1)) a l tok)
  | 0x6C => zeros (fld w 17 3 = 0 && f = 0) (.acscF32 z (qf w 12) (decide (fld w 16 1 = 1)) a l tok)
  | 0x6D => noLit l (zeros (fld w 4 16 = 0) (.acz z tok))
  | 0x6E => zeros (fld w 12 8 = 0) (.acld z (df w 4) a l tok)
  | 0x6F => zeros (fld w 12 8 = 0) (.acst z (df w 4) a l tok)
  | 0x70 => noLit l (zeros (fld w 12 8 = 0 && f = 0) (.acmv z a tok))
  | 0x71 => noLit l (zeros (fld w 18 6 = 0 && f = 0) (.acvr (vf w 12) (decide (fld w 17 1 = 1)) a tok))
  | 0x72 => noLit l (zeros (fld w 18 6 = 0 && f = 0) (.acrd (vf w 12) (decide (fld w 17 1 = 1)) a tok))
  | _ =>
    noLit l (match f with
      | 0 => zeros (fld w 20 4 = 0 && fld w 6 6 = 0) (.haspAcq (xf w 12) (df w 18) tok)
      | 1 => zeros (fld w 6 18 = 0) (.haspRel tok)
      | _ => .error .field)

/-- One instruction word, with the literal word where L = 1 (R59, R60). -/
def decodeWord (w : Nat) (l : Lit) : Except DecodeErr Instr :=
  let m := fld w 25 7
  if m = 0 then decodeAlu w l
  else if m = 1 then decodeCtl w l
  else if m = 2 then decodeSvc w l
  else if m = 3 then decodeEng w l
  else if m ≤ 0x1F then decodeImm w
  else if m ≤ 0x29 then decodeMem w l
  else if m ≤ 0x2B then decodeQF w l
  else if m = 0x3F then .error .header
  else if (0x30 ≤ m && m ≤ 0x3D) || (0x40 ≤ m && m ≤ 0x54) then decodeVR w l
  else if 0x55 ≤ m && m ≤ 0x58 then decodeVX w l
  else if 0x60 ≤ m && m ≤ 0x73 then decodeMX w l
  else .error .major

/-- A list of words: the instruction they begin with, and the words after it. -/
def decodeWords : List W32 → Except DecodeErr (Instr × List W32)
  | [] => .error .short
  | w :: ws =>
    if wantsLiteral w.toNat then
      match ws with
      | [] => .error .literalMissing
      | l :: rest => (decodeWord w.toNat (some l)).map (fun i => (i, rest))
    else (decodeWord w.toNat none).map (fun i => (i, ws))

/-- The little-endian words of a byte list; a tail shorter than a word is dropped (R2). -/
def wordsOf : List Byte → List W32
  | a :: b :: c :: d :: rest => (d ++ c ++ b ++ a) :: wordsOf rest
  | _ => []

/-- Decoding on any bytes: the first instruction, or the name of what is wrong (R2, R36, R51). -/
def decode (bs : List Byte) : Except DecodeErr Instr := (decodeWords (wordsOf bs)).map Prod.fst

/-- The instruction read from one whose bits are `w`, numbered as the opcode table numbers them: the first word is
bits 31..0, the literal word bits 63..32, and every bit above `nbits` is 0. -/
def decodeTableWord (nbits w : Nat) : Option Instr :=
  match decodeWords [BitVec.ofNat 32 (w % 2 ^ nbits), BitVec.ofNat 32 (w % 2 ^ nbits / 2 ^ 32)] with
  | .ok (i, _) => some i
  | .error _ => none

/-- The destination of an instruction word (R45, R60). -/
def unitOf (w : Nat) : Unit5 :=
  let m := fld w 25 7
  if m ≤ 2 then .seq
  else if m = 3 then .ea
  else if m ≤ 0x1F then .seq
  else if m = 0x21 || m = 0x23 || m = 0x26 || m = 0x28 || m = 0x2B then .sq
  else if m ≤ 0x2B then .lq
  else .cq

/-! ### The encoder -/

/-- A truth value as a bit. -/
def bit (b : Bool) : Nat := if b then 1 else 0

/-- The word whose fields stand at the given low bits. -/
def wordOf : List (Nat × Nat) → W32
  | [] => 0
  | (lo, v) :: fs => BitVec.ofNat 32 (v * 2 ^ lo) + wordOf fs

/-- A word of a format with a major and an L bit (R51). -/
def word (major l : Nat) (fs : List (Nat × Nat)) : W32 := wordOf ((25, major) :: (24, l) :: fs)

/-- The literal words that follow (R44). -/
def litWords (l : Lit) : List W32 := l.toList

/-- The SR format (R51, R54). -/
def encSR (major funct d a : Nat) : SrcB → List W32
  | .reg r => [word major 0 [(18, d), (12, a), (6, r.toNat), (0, funct)]]
  | .lit v => [word major 1 [(18, d), (12, a), (0, funct)], v]

/-- The LS format (R51). -/
def encLS (major d a size : Nat) (o : Off) (tok : Nat) : List W32 :=
  match o with
  | .short n => [word major 0 [(18, d), (12, a), (10, size), (4, n.toNat), (0, tok)]]
  | .lit v => [word major 1 [(18, d), (12, a), (10, size), (0, tok)], v]

/-- The VM format (R51). -/
def encVM (major v a m : Nat) (o : Off) (tok : Nat) : List W32 :=
  match o with
  | .short n => [word major 0 [(19, v), (13, a), (10, m), (4, n.toNat), (0, tok)]]
  | .lit x => [word major 1 [(19, v), (13, a), (10, m), (0, tok)], x]

/-- The QF format (R51). -/
def encQF (major funct d a wd : Nat) (l : Lit) (tok : Nat) : List W32 :=
  word major (bit l.isSome) [(18, d), (12, a), (6, funct), (4, wd), (0, tok)] :: litWords l

/-- The VR format (R51, R55). -/
def encVR (major vd va : Nat) (b : VecB) (tok : Nat) : List W32 :=
  match b with
  | .vec r m => [word major 0 [(19, vd), (14, va), (11, m.toNat), (6, r.toNat), (0, tok)]]
  | .const c => [word major 0 [(19, vd), (14, va), (6, c.toNat), (4, 1), (0, tok)]]
  | .scalar r => [word major 0 [(19, vd), (14, va), (6, r.toNat), (4, 2), (0, tok)]]
  | .imm i => [word major 0 [(19, vd), (14, va), (6, i.toNat), (4, 3), (0, tok)]]
  | .lit v => [word major 1 [(19, vd), (14, va), (4, 3), (0, tok)], v]

/-- The VX format (R51). -/
def encVX (major funct vd va m tok : Nat) : List W32 :=
  [word major 0 [(19, vd), (14, va), (8, funct), (5, m), (0, tok)]]

/-- The MX format (R51). -/
def encMX (major z s a f : Nat) (l : Lit) (tok : Nat) : List W32 :=
  word major (bit l.isSome) [(20, z), (12, s), (6, a), (4, f), (0, tok)] :: litWords l

/-- The words of an instruction; an event of the device has none (R51 to R67). -/
def encode : Instr → List W32
  | .add d a b => encSR 0x00 0x00 d.toNat a.toNat b
  | .sub d a b => encSR 0x00 0x01 d.toNat a.toNat b
  | .mul d a b => encSR 0x00 0x02 d.toNat a.toNat b
  | .mulh d a b => encSR 0x00 0x03 d.toNat a.toNat b
  | .mulhn d a b => encSR 0x00 0x04 d.toNat a.toNat b
  | .div d a b => encSR 0x00 0x05 d.toNat a.toNat b
  | .divn d a b => encSR 0x00 0x06 d.toNat a.toNat b
  | .rem d a b => encSR 0x00 0x07 d.toNat a.toNat b
  | .remn d a b => encSR 0x00 0x08 d.toNat a.toNat b
  | .and d a b => encSR 0x00 0x09 d.toNat a.toNat b
  | .or d a b => encSR 0x00 0x0a d.toNat a.toNat b
  | .xor d a b => encSR 0x00 0x0b d.toNat a.toNat b
  | .andn d a b => encSR 0x00 0x0c d.toNat a.toNat b
  | .shl d a b => encSR 0x00 0x0d d.toNat a.toNat b
  | .shr d a b => encSR 0x00 0x0e d.toNat a.toNat b
  | .sar d a b => encSR 0x00 0x0f d.toNat a.toNat b
  | .rol d a b => encSR 0x00 0x10 d.toNat a.toNat b
  | .min d a b => encSR 0x00 0x11 d.toNat a.toNat b
  | .max d a b => encSR 0x00 0x12 d.toNat a.toNat b
  | .minn d a b => encSR 0x00 0x13 d.toNat a.toNat b
  | .maxn d a b => encSR 0x00 0x14 d.toNat a.toNat b
  | .clz d a => [word 0x00 0 [(18, d.toNat), (12, a.toNat), (0, 0x15)]]
  | .ctz d a => [word 0x00 0 [(18, d.toNat), (12, a.toNat), (0, 0x16)]]
  | .popc d a => [word 0x00 0 [(18, d.toNat), (12, a.toNat), (0, 0x17)]]
  | .sext8 d a => [word 0x00 0 [(18, d.toNat), (12, a.toNat), (0, 0x18)]]
  | .sext16 d a => [word 0x00 0 [(18, d.toNat), (12, a.toNat), (0, 0x19)]]
  | .sext32 d a => [word 0x00 0 [(18, d.toNat), (12, a.toNat), (0, 0x1a)]]
  | .cmpEq d a b => encSR 0x00 0x1b d.toNat a.toNat b
  | .cmpNe d a b => encSR 0x00 0x1c d.toNat a.toNat b
  | .cmpLt d a b => encSR 0x00 0x1d d.toNat a.toNat b
  | .cmpLtn d a b => encSR 0x00 0x1e d.toNat a.toNat b
  | .cmpLe d a b => encSR 0x00 0x1f d.toNat a.toNat b
  | .cmpLen d a b => encSR 0x00 0x20 d.toNat a.toNat b
  | .sel d a b => encSR 0x00 0x21 d.toNat a.toNat b
  | .mov d b => encSR 0x00 0x22 d.toNat 0 b
  | .addi d a i => [wordOf [(26, 0x02), (20, d.toNat), (14, a.toNat), (0, i.toNat)]]
  | .andi d a i => [wordOf [(26, 0x03), (20, d.toNat), (14, a.toNat), (0, i.toNat)]]
  | .ori d a i => [wordOf [(26, 0x04), (20, d.toNat), (14, a.toNat), (0, i.toNat)]]
  | .xori d a i => [wordOf [(26, 0x05), (20, d.toNat), (14, a.toNat), (0, i.toNat)]]
  | .shlImm d a n => [wordOf [(26, 0x06), (20, d.toNat), (14, a.toNat), (12, 0), (0, n.toNat)]]
  | .shrImm d a n => [wordOf [(26, 0x06), (20, d.toNat), (14, a.toNat), (12, 1), (0, n.toNat)]]
  | .sarImm d a n => [wordOf [(26, 0x06), (20, d.toNat), (14, a.toNat), (12, 2), (0, n.toNat)]]
  | .rolImm d a n => [wordOf [(26, 0x06), (20, d.toNat), (14, a.toNat), (12, 3), (0, n.toNat)]]
  | .li d i => [wordOf [(26, 0x07), (20, d.toNat), (0, i.toNat)]]
  | .lih d i => [wordOf [(26, 0x08), (20, d.toNat), (0, i.toNat)]]
  | .lif d i => [wordOf [(26, 0x09), (20, d.toNat), (0, i.toNat)]]
  | .bcZ d i => [wordOf [(26, 0x0a), (20, d.toNat), (0, i.toNat)]]
  | .bcNz d i => [wordOf [(26, 0x0b), (20, d.toNat), (0, i.toNat)]]
  | .bcLt d i => [wordOf [(26, 0x0c), (20, d.toNat), (0, i.toNat)]]
  | .bcGe d i => [wordOf [(26, 0x0d), (20, d.toNat), (0, i.toNat)]]
  | .call d i => [wordOf [(26, 0x0e), (20, d.toNat), (0, i.toNat)]]
  | .loop n i => [wordOf [(26, 0x0F), (20, n.toNat), (0, i.toNat)]]
  | .jr a b => encSR 0x01 0x00 0 a.toNat b
  | .ret a => encSR 0x01 0x01 0 a.toNat (.reg 0)
  | .spawn d a b => encSR 0x01 0x02 d.toNat a.toNat b
  | .join => encSR 0x01 0x03 0 0 (.reg 0)
  | .yield => encSR 0x01 0x04 0 0 (.reg 0)
  | .exit => encSR 0x01 0x05 0 0 (.reg 0)
  | .idx d a => encSR 0x01 0x06 d.toNat a.toNat (.reg 0)
  | .cyc d => encSR 0x01 0x07 d.toNat 0 (.reg 0)
  | .time d => encSR 0x01 0x08 d.toNat 0 (.reg 0)
  | .csrr d a => encSR 0x01 0x09 d.toNat a.toNat (.reg 0)
  | .csrw d b => encSR 0x01 0x0a d.toNat 0 b
  | .lit d a b => encSR 0x01 0x0b d.toNat a.toNat b
  | .adda d a b => encSR 0x01 0x0c d.toNat a.toNat b
  | .esig a b => encSR 0x01 0x0d 0 a.toNat b
  | .eset n b => encSR 0x01 0x0e n.toNat 0 b
  | .eget d n => encSR 0x01 0x0f d.toNat n.toNat (.reg 0)
  | .ewait n c b => encSR 0x01 0x10 (n.toNat + 16 * c.toNat) 0 b
  | .fenceStrand => encSR 0x01 0x11 0 0 (.reg 0)
  | .fenceCore => encSR 0x01 0x12 0 0 (.reg 0)
  | .fenceGroup => encSR 0x01 0x13 0 0 (.reg 0)
  | .fenceDev => encSR 0x01 0x14 0 0 (.reg 0)
  | .fenceWin => encSR 0x01 0x15 0 0 (.reg 0)
  | .fenceSys => encSR 0x01 0x16 0 0 (.reg 0)
  | .trap b => encSR 0x01 0x17 0 0 b
  | .eret => encSR 0x01 0x18 0 0 (.reg 0)
  | .ctxs a => encSR 0x01 0x19 0 a.toNat (.reg 0)
  | .ctxr a => encSR 0x01 0x1a 0 a.toNat (.reg 0)
  | .wfe d b => encSR 0x01 0x1b d.toNat 0 b
  | .halt b => encSR 0x01 0x1c 0 0 b
  | .bdecl s a b => encSR 0x02 0x00 s.toNat a.toNat b
  | .badv0 => encSR 0x02 0x01 0 0 (.reg 0)
  | .badv1 => encSR 0x02 0x01 1 0 (.reg 0)
  | .badv2 => encSR 0x02 0x01 2 0 (.reg 0)
  | .badv3 => encSR 0x02 0x01 3 0 (.reg 0)
  | .barvRel s j => encSR 0x02 0x02 s.toNat j.toNat (.reg 0)
  | .barvRlx s j => encSR 0x02 0x03 s.toNat j.toNat (.reg 0)
  | .barw s j => encSR 0x02 0x04 s.toNat j.toNat (.reg 0)
  | .bara s j => encSR 0x02 0x05 s.toNat j.toNat (.reg 0)
  | .bstat d s => encSR 0x02 0x06 d.toNat s.toNat (.reg 0)
  | .probe d t x => encSR 0x02 0x08 d.toNat t.toNat (.reg x)
  | .pgreq d t x => encSR 0x02 0x09 d.toNat t.toNat (.reg x)
  | .tinv t b => encSR 0x02 0x0a 0 t.toNat b
  | .tsync => encSR 0x02 0x0b 0 0 (.reg 0)
  | .tdesc t b => encSR 0x02 0x0c 0 t.toNat b
  | .qlaunch d a b => encSR 0x02 0x10 d.toNat a.toNat b
  | .qpatch d a b => encSR 0x02 0x11 d.toNat a.toNat b
  | .sstat d a => encSR 0x02 0x12 d.toNat a.toNat (.reg 0)
  | .kvalloc d a b => encSR 0x02 0x13 d.toNat a.toNat b
  | .kvfree d a b => encSR 0x02 0x14 d.toNat a.toNat b
  | .kvchk d a => encSR 0x02 0x15 d.toNat a.toNat (.reg 0)
  | .epush e a b => encSR 0x03 0x00 e.toNat a.toNat b
  | .epop d a b => encSR 0x03 0x01 d.toNat a.toNat b
  | .estat d a => encSR 0x03 0x02 d.toNat a.toNat (.reg 0)
  | .cpy c b => encSR 0x03 0x04 c.toNat 0 b
  | .cpym s a b => encSR 0x03 0x05 s.toNat a.toNat b
  | .cpyg s a b => encSR 0x03 0x06 s.toNat a.toNat b
  | .drain d s => encSR 0x03 0x07 d.toNat s.toNat (.reg 0)
  | .chlink s a b => encSR 0x03 0x08 s.toNat a.toNat b
  | .chkick c b => encSR 0x03 0x09 c.toNat 0 b
  | .sbq d b => encSR 0x03 0x0a d.toNat 0 b
  | .ccan0 => encSR 0x03 0x0b 0 0 (.reg 0)
  | .ccan1 => encSR 0x03 0x0b 1 0 (.reg 0)
  | .ccan2 => encSR 0x03 0x0b 2 0 (.reg 0)
  | .ccan3 => encSR 0x03 0x0b 3 0 (.reg 0)
  | .tmbRlx d a b => encSR 0x03 0x10 d.toNat a.toNat b
  | .tmbAcq d a b => encSR 0x03 0x11 d.toNat a.toNat b
  | .tmbRel d a b => encSR 0x03 0x12 d.toNat a.toNat b
  | .tmbTRlx d a b => encSR 0x03 0x14 d.toNat a.toNat b
  | .tmbTAcq d a b => encSR 0x03 0x15 d.toNat a.toNat b
  | .tmbTRel d a b => encSR 0x03 0x16 d.toNat a.toNat b
  | .attn a b => encSR 0x03 0x18 0 a.toNat b
  | .attnP8 a b => encSR 0x03 0x19 0 a.toNat b
  | .attnP8n a b => encSR 0x03 0x1a 0 a.toNat b
  | .attw d b => encSR 0x03 0x1b d.toNat 0 b
  | .coll d a => encSR 0x03 0x20 d.toNat a.toNat (.reg 0)
  | .famo op wd a b => encSR 0x03 0x21 (op.toNat + 16 * bit wd) a.toNat b
  | .fsig a b => encSR 0x03 0x22 0 a.toNat b
  | .fwin d b => encSR 0x03 0x23 d.toNat 0 b
  | .encsub a => encSR 0x03 0x24 0 a.toNat (.reg 0)
  | .lds d a s o t => encLS 0x20 d.toNat a.toNat s.toNat o t.toNat
  | .sts d a s o t => encLS 0x21 d.toNat a.toNat s.toNat o t.toNat
  | .vlds v a m o t => encVM 0x22 v.toNat a.toNat m.toNat o t.toNat
  | .vsts v a m o t => encVM 0x23 v.toNat a.toNat m.toNat o t.toNat
  | .ldro v a m o t => encVM 0x24 v.toNat a.toNat m.toNat o t.toNat
  | .vldsg v a i m t => [word 0x25 0 [(19, v.toNat), (13, a.toNat), (8, i.toNat), (5, m.toNat), (0, t.toNat)]]
  | .vstss v a i m t => [word 0x26 0 [(19, v.toNat), (13, a.toNat), (8, i.toNat), (5, m.toNat), (0, t.toNat)]]
  | .ldg v t c m k => [word 0x27 0 [(19, v.toNat), (15, t.toNat), (9, c.toNat), (6, m.toNat), (0, k.toNat)]]
  | .stg v t c m k => [word 0x28 0 [(19, v.toNat), (15, t.toNat), (9, c.toNat), (6, m.toNat), (0, k.toNat)]]
  | .pref r t c k => [word 0x29 0 [(19, bit r), (15, t.toNat), (9, c.toNat), (0, k.toNat)]]
  | .amoAdd d a wd l t => encQF 0x2A 0x00 d.toNat a.toNat (bit wd) l t.toNat
  | .amoMin d a wd l t => encQF 0x2A 0x01 d.toNat a.toNat (bit wd) l t.toNat
  | .amoMax d a wd l t => encQF 0x2A 0x02 d.toNat a.toNat (bit wd) l t.toNat
  | .amoMinn d a wd l t => encQF 0x2A 0x03 d.toNat a.toNat (bit wd) l t.toNat
  | .amoMaxn d a wd l t => encQF 0x2A 0x04 d.toNat a.toNat (bit wd) l t.toNat
  | .amoAnd d a wd l t => encQF 0x2A 0x05 d.toNat a.toNat (bit wd) l t.toNat
  | .amoOr d a wd l t => encQF 0x2A 0x06 d.toNat a.toNat (bit wd) l t.toNat
  | .amoXor d a wd l t => encQF 0x2A 0x07 d.toNat a.toNat (bit wd) l t.toNat
  | .amoSwap d a wd l t => encQF 0x2A 0x08 d.toNat a.toNat (bit wd) l t.toNat
  | .amoCas d a wd l t => encQF 0x2A 0x09 d.toNat a.toNat (bit wd) l t.toNat
  | .rclaim d a t => encQF 0x2A 0x10 d.toNat a.toNat 0 none t.toNat
  | .rwait d a t => encQF 0x2A 0x11 d.toNat a.toNat 0 none t.toNat
  | .rstat d a t => encQF 0x2A 0x12 d.toNat a.toNat 0 none t.toNat
  | .rinit d a t => encQF 0x2B 0x00 d.toNat a.toNat 0 none t.toNat
  | .rfill d a t => encQF 0x2B 0x01 d.toNat a.toNat 0 none t.toNat
  | .rrel d a t => encQF 0x2B 0x02 d.toNat a.toNat 0 none t.toNat
  | .vaddF32 d a b t => encVR 0x30 d.toNat a.toNat b t.toNat
  | .vsubF32 d a b t => encVR 0x31 d.toNat a.toNat b t.toNat
  | .vmulF32 d a b t => encVR 0x32 d.toNat a.toNat b t.toNat
  | .vfmaF32 d a b t => encVR 0x33 d.toNat a.toNat b t.toNat
  | .vfmacF32 d a b t => encVR 0x34 d.toNat a.toNat b t.toNat
  | .vminF32 d a b t => encVR 0x35 d.toNat a.toNat b t.toNat
  | .vmaxF32 d a b t => encVR 0x36 d.toNat a.toNat b t.toNat
  | .vaddI32 d a b t => encVR 0x37 d.toNat a.toNat b t.toNat
  | .vsubI32 d a b t => encVR 0x38 d.toNat a.toNat b t.toNat
  | .vmulI32 d a b t => encVR 0x39 d.toNat a.toNat b t.toNat
  | .vaddsI32 d a b t => encVR 0x3a d.toNat a.toNat b t.toNat
  | .vsubsI32 d a b t => encVR 0x3b d.toNat a.toNat b t.toNat
  | .vaddsN32 d a b t => encVR 0x3c d.toNat a.toNat b t.toNat
  | .vsubsN32 d a b t => encVR 0x3d d.toNat a.toNat b t.toNat
  | .vminI32 d a b t => encVR 0x40 d.toNat a.toNat b t.toNat
  | .vmaxI32 d a b t => encVR 0x41 d.toNat a.toNat b t.toNat
  | .vminN32 d a b t => encVR 0x42 d.toNat a.toNat b t.toNat
  | .vmaxN32 d a b t => encVR 0x43 d.toNat a.toNat b t.toNat
  | .vand d a b t => encVR 0x44 d.toNat a.toNat b t.toNat
  | .vor d a b t => encVR 0x45 d.toNat a.toNat b t.toNat
  | .vxor d a b t => encVR 0x46 d.toNat a.toNat b t.toNat
  | .vshl d a b t => encVR 0x47 d.toNat a.toNat b t.toNat
  | .vshr d a b t => encVR 0x48 d.toNat a.toNat b t.toNat
  | .vsar d a b t => encVR 0x49 d.toNat a.toNat b t.toNat
  | .vcmpF32 d r a b t => encVR 0x4a (d.toNat + 8 * r.toNat) a.toNat b t.toNat
  | .vcmpI32 d r a b t => encVR 0x4b (d.toNat + 8 * r.toNat) a.toNat b t.toNat
  | .vcmpN32 d r a b t => encVR 0x4c (d.toNat + 8 * r.toNat) a.toNat b t.toNat
  | .vsel d a b t => encVR 0x4d d.toNat a.toNat b t.toNat
  | .vperm d a b t => encVR 0x4e d.toNat a.toNat b t.toNat
  | .vrot d a b t => encVR 0x4f d.toNat a.toNat b t.toNat
  | .vext d a b t => encVR 0x50 d.toNat a.toNat b t.toNat
  | .vins d a b t => encVR 0x51 d.toNat a.toNat b t.toNat
  | .vbcast d a b t => encVR 0x52 d.toNat a.toNat b t.toNat
  | .vsplat d b t => encVR 0x53 d.toNat 0 b t.toNat
  | .vtopk d a b t => encVR 0x54 d.toNat a.toNat b t.toNat
  | .cvtF32I32 d a m t => encVX 0x55 0x00 d.toNat a.toNat m.toNat t.toNat
  | .cvtF32N32 d a m t => encVX 0x55 0x01 d.toNat a.toNat m.toNat t.toNat
  | .cvtI32F32 d a m t => encVX 0x55 0x02 d.toNat a.toNat m.toNat t.toNat
  | .cvtI32F32Rz d a m t => encVX 0x55 0x03 d.toNat a.toNat m.toNat t.toNat
  | .cvtN32F32 d a m t => encVX 0x55 0x04 d.toNat a.toNat m.toNat t.toNat
  | .cvtN32F32Rz d a m t => encVX 0x55 0x05 d.toNat a.toNat m.toNat t.toNat
  | .pkF16 d a m t => encVX 0x55 0x08 d.toNat a.toNat m.toNat t.toNat
  | .pkBf16 d a m t => encVX 0x55 0x09 d.toNat a.toNat m.toNat t.toNat
  | .pkBf16Rz d a m t => encVX 0x55 0x0a d.toNat a.toNat m.toNat t.toNat
  | .pkF8e4Sat d a m t => encVX 0x55 0x0b d.toNat a.toNat m.toNat t.toNat
  | .pkF8e4Nan d a m t => encVX 0x55 0x0c d.toNat a.toNat m.toNat t.toNat
  | .pkF8e5 d a m t => encVX 0x55 0x0d d.toNat a.toNat m.toNat t.toNat
  | .pkI16 d a m t => encVX 0x55 0x0e d.toNat a.toNat m.toNat t.toNat
  | .pkI8 d a m t => encVX 0x55 0x0f d.toNat a.toNat m.toNat t.toNat
  | .pkN8 d a m t => encVX 0x55 0x10 d.toNat a.toNat m.toNat t.toNat
  | .pkT2 d a m t => encVX 0x55 0x11 d.toNat a.toNat m.toNat t.toNat
  | .upkF16 d a m t => encVX 0x55 0x18 d.toNat a.toNat m.toNat t.toNat
  | .upkBf16 d a m t => encVX 0x55 0x19 d.toNat a.toNat m.toNat t.toNat
  | .upkF8e4 d a m t => encVX 0x55 0x1a d.toNat a.toNat m.toNat t.toNat
  | .upkF8e5 d a m t => encVX 0x55 0x1b d.toNat a.toNat m.toNat t.toNat
  | .upkI16 d a m t => encVX 0x55 0x1c d.toNat a.toNat m.toNat t.toNat
  | .upkI8 d a m t => encVX 0x55 0x1d d.toNat a.toNat m.toNat t.toNat
  | .upkN8 d a m t => encVX 0x55 0x1e d.toNat a.toNat m.toNat t.toNat
  | .upkT2 d a m t => encVX 0x55 0x1f d.toNat a.toNat m.toNat t.toNat
  | .cvtF32E8 d a m t => encVX 0x55 0x20 d.toNat a.toNat m.toNat t.toNat
  | .vexp2 d a m t => encVX 0x56 0x00 d.toNat a.toNat m.toNat t.toNat
  | .vrcp d a m t => encVX 0x56 0x01 d.toNat a.toNat m.toNat t.toNat
  | .vrsq d a m t => encVX 0x56 0x02 d.toNat a.toNat m.toNat t.toNat
  | .vnegF32 d a m t => encVX 0x56 0x03 d.toNat a.toNat m.toNat t.toNat
  | .vabsF32 d a m t => encVX 0x56 0x04 d.toNat a.toNat m.toNat t.toNat
  | .vnegI32 d a m t => encVX 0x56 0x05 d.toNat a.toNat m.toNat t.toNat
  | .vabsI32 d a m t => encVX 0x56 0x06 d.toNat a.toNat m.toNat t.toNat
  | .vmov d a m t => encVX 0x56 0x07 d.toNat a.toNat m.toNat t.toNat
  | .vrsumF32 d a m t => encVX 0x57 0x00 d.toNat a.toNat m.toNat t.toNat
  | .vrmaxF32 d a m t => encVX 0x57 0x01 d.toNat a.toNat m.toNat t.toNat
  | .vrminF32 d a m t => encVX 0x57 0x02 d.toNat a.toNat m.toNat t.toNat
  | .vrsumI32 d a m t => encVX 0x57 0x03 d.toNat a.toNat m.toNat t.toNat
  | .vrmaxI32 d a m t => encVX 0x57 0x04 d.toNat a.toNat m.toNat t.toNat
  | .vrminI32 d a m t => encVX 0x57 0x05 d.toNat a.toNat m.toNat t.toNat
  | .vrmaxN32 d a m t => encVX 0x57 0x06 d.toNat a.toNat m.toNat t.toNat
  | .vrminN32 d a m t => encVX 0x57 0x07 d.toNat a.toNat m.toNat t.toNat
  | .vscanF32 d a m t => encVX 0x57 0x08 d.toNat a.toNat m.toNat t.toNat
  | .vscanI32 d a m t => encVX 0x57 0x09 d.toNat a.toNat m.toNat t.toNat
  | .mand d a b t => encVX 0x58 0x00 d.toNat a.toNat b.toNat t.toNat
  | .mor d a b t => encVX 0x58 0x01 d.toNat a.toNat b.toNat t.toNat
  | .mxor d a b t => encVX 0x58 0x02 d.toNat a.toNat b.toNat t.toNat
  | .mandn d a b t => encVX 0x58 0x03 d.toNat a.toNat b.toNat t.toNat
  | .mnot d a t => encVX 0x58 0x04 d.toNat a.toNat 0 t.toNat
  | .mmov d a t => encVX 0x58 0x05 d.toNat a.toNat 0 t.toNat
  | .mcnt d a b t => encVX 0x58 0x06 d.toNat a.toNat b.toNat t.toNat
  | .mmaF8e4 z s a l f t => encMX 0x60 z.toNat s.toNat a.toNat (bit f) l t.toNat
  | .mmaF8e5 z s a l f t => encMX 0x61 z.toNat s.toNat a.toNat (bit f) l t.toNat
  | .mmaF8x z s a l f t => encMX 0x62 z.toNat s.toNat a.toNat (bit f) l t.toNat
  | .mmaBf16 z s a l f t => encMX 0x63 z.toNat s.toNat a.toNat (bit f) l t.toNat
  | .mmaF16 z s a l f t => encMX 0x64 z.toNat s.toNat a.toNat (bit f) l t.toNat
  | .mmaI8 z s a l f t => encMX 0x65 z.toNat s.toNat a.toNat (bit f) l t.toNat
  | .mmaI8n z s a l f t => encMX 0x66 z.toNat s.toNat a.toNat (bit f) l t.toNat
  | .mmaT2 z s a l f t => encMX 0x67 z.toNat s.toNat a.toNat (bit f) l t.toNat
  | .mmaF32x3 z s a l f t => encMX 0x68 z.toNat s.toNat a.toNat (bit f) l t.toNat
  | .csld s a l t => encMX 0x69 0 s.toNat a.toNat 0 l t.toNat
  | .csldt e s a l t => encMX 0x6A e.toNat s.toNat a.toNat 0 l t.toNat
  | .acscE8 z p c a l t => encMX 0x6B z.toNat (p.toNat + 16 * bit c) a.toNat 0 l t.toNat
  | .acscF32 z p c a l t => encMX 0x6C z.toNat (p.toNat + 16 * bit c) a.toNat 0 l t.toNat
  | .acz z t => encMX 0x6D z.toNat 0 0 0 none t.toNat
  | .acld z f a l t => encMX 0x6E z.toNat 0 a.toNat f.toNat l t.toNat
  | .acst z f a l t => encMX 0x6F z.toNat 0 a.toNat f.toNat l t.toNat
  | .acmv z a t => encMX 0x70 z.toNat 0 a.toNat 0 none t.toNat
  | .acvr v c a t => encMX 0x71 0 (v.toNat + 32 * bit c) a.toNat 0 none t.toNat
  | .acrd v c a t => encMX 0x72 0 (v.toNat + 32 * bit c) a.toNat 0 none t.toNat
  | .haspAcq b p t => encMX 0x73 0 (b.toNat + 64 * p.toNat) 0 0 none t.toNat
  | .haspRel t => encMX 0x73 0 0 0 1 none t.toNat
  | _ => []

end Sys2Proof
end

