-- ==== Sys2Proof/Config.lean ====
section
/-!
DEFINITION. What the manual leaves open and the model keeps free: opaque constants with no body, so that no proof
sees a value of one. Each is applied to the counter `State.free` of the step, or to the operands it depends on.
The assumption log names each.
-/

namespace Sys2Proof.Config

/-- Lane by lane, whether a read inside a latency window returns the new value (R103, R174; log entry 5). The first
argument is the step's counter, the second tells apart the reads of one step. -/
opaque freeLanes : Nat → Nat → W64

/-- Whether the read-only cache still holds a line (R116; log entry 6). -/
opaque freeHit : Nat → Nat → Bool

/-- Whether a translation cache has evicted an entry (R282; log entry 11). -/
opaque freeEvict : Nat → Nat → Bool

/-- Which GDDR7 channel's memory port serves an access that no rule ties to one (R32, R282; log entry 97). -/
opaque freePort : Nat → Nat → Nat

/-- Which of the values that an element has held a read of it returns, where several are open (R40, R116; log entries 6 and 92). -/
opaque freePast : Nat → Nat → Nat

/-- Responses that the home side of the fabric router can hold for one rank, beside one (R397; log entry 98). -/
opaque respSpace : Nat

/-- Element by element, whether a cancelled or detached engine write took effect, or a turn performs it (R97, R110, R115, R291; log
entries 5, 7, 24 and 30). -/
opaque freeElem : Nat → Nat → Bool

/-- Words that the device measures and no rule states: module power and die temperature (R476; log entry 8). -/
opaque freeWord : Nat → Nat → W64

/-- Whether a signature of RSA-3072 under PSS with SHA-384 verifies: key, message and signature (R465; log entry 9). -/
opaque rsaVerifies : List Byte → List Byte → List Byte → Bool

/-- Whether a signature of SLH-DSA under FIPS 205 with SHA2-192s verifies: key, message and signature (R465; log entry 9). -/
opaque slhVerifies : List Byte → List Byte → List Byte → Bool

/-- The SHA-384 digests of the public keys, RSA and SLH-DSA, that are fused into the compute die (R465). -/
opaque fusedKey : Nat → BitVec 384

/-- The key pair that the management core generates for the device key at a boot (R469; log entry 9). -/
opaque deviceKey : Nat → BitVec 512

/-- Unwrapping a key pair with the device's key-encryption key: none when it fails (R469; log entry 9). -/
opaque unwrapKey : List Byte → Option (BitVec 512)

/-- The signature of an attestation report (R468; log entry 9). -/
opaque attestSign : List Byte → List Byte

/-- The image that a firmware slot holds when the module is made (R465; log entry 9). -/
opaque flashImage : Nat → List Byte

/-- Bytes of an image's header before the signatures, which these cover (R465; log entry 9). -/
opaque signedBytes : List Byte → Nat

/-- What an image carries for its signatures: 0 and 1 the RSA-3072 and the SLH-DSA signature, 2 and 3 the public keys (R465; log entry
9). -/
opaque imageSign : List Byte → Nat → List Byte

/-- The length that an image's header gives for one of the three images: management, front end, encoder (R465; log entry 9). -/
opaque imageLength : List Byte → Nat → Nat

/-- The SHA-384 digest that an image's header gives for one of the three images (R465; log entry 9). -/
opaque imageDigest : List Byte → Nat → BitVec 384

/-- The security version in an image's header (R465; log entry 9). -/
opaque imageVersion : List Byte → BitVec 32

/-- The payload that an encoder makes of a frame: of the step, the codec and the depth, the rung record, whether a key frame is coded, the
frame number, the samples of the three planes in raster order, and the encoder work area. Of AV1 one temporal unit in the low-overhead
OBU format, of HEVC one access unit as an Annex B byte stream (R459; log entry 64). -/
opaque codedFrame : Nat → Nat → Nat → Bool → Nat → List Nat → List Byte → List Byte

/-- What an encoder stores in its work area as it codes a frame, its reconstruction among it: offsets and bytes, of the same arguments
(R459; log entry 64). -/
opaque codedWork : Nat → Nat → Nat → Bool → Nat → List Nat → List Byte → List (Nat × Byte)

/-- Whether a port of the fabric router has a link, as the modules are cabled (R479; log entry 9). -/
opaque cabled : Nat → Bool

/-- The fused rollback floor at power-on (R465; log entry 9). -/
opaque fusedFloor : BitVec 32

/-- The fused preference bit (R466; log entry 9). -/
opaque fusedPreference : Bool

end Sys2Proof.Config
end

