-- ==== Sys2Proof/Machine/Map.lean ====
section
/-!
DEFINITION. Finite maps as lists of key and value pairs, and byte memories in canonical form: keys strictly
rising, and no entry equal to what an unlisted address reads as.
-/

namespace Sys2Proof.Machine

/-- A finite map from numbers, as a list of pairs in rising key order. -/
abbrev Map (α : Type) := List (Nat × α)

/-- The value at a key, or `d` where the map lists none. -/
def Map.get {α : Type} (d : α) : Map α → Nat → α
  | [], _ => d
  | (k, v) :: m, i => if k = i then v else Map.get d m i

/-- Put a value at a key. -/
def Map.put {α : Type} : Map α → Nat → α → Map α
  | [], i, v => [(i, v)]
  | (k, w) :: m, i, v =>
    if k < i then (k, w) :: Map.put m i v
    else if k = i then (i, v) :: m
    else (i, v) :: (k, w) :: m

/-- Whether a key is listed. -/
def Map.has {α : Type} : Map α → Nat → Bool
  | [], _ => false
  | (k, _) :: m, i => decide (k = i) || Map.has m i

/-- Drop every entry of a key. -/
def Map.erase {α : Type} (m : Map α) (i : Nat) : Map α := m.filter (fun p => p.1 ≠ i)

/-- Insert into a list that a comparison keeps in order, after what it does not precede. -/
def insertBy {α : Type} (lt : α → α → Bool) (x : α) : List α → List α
  | [] => [x]
  | y :: ys => if lt x y then x :: y :: ys else y :: insertBy lt x ys

/-- Sort by a comparison, keeping the order of equals. -/
def sortBy {α : Type} (lt : α → α → Bool) (l : List α) : List α := l.foldl (fun acc x => insertBy lt x acc) []

/-- A byte memory: (address, byte) pairs. -/
abbrev Mem := List Host.Cell

/-- What a byte that no entry lists reads as (log entry 2). -/
def Mem.blank : Byte := 0

/-- The byte at an address. -/
def Mem.get : Mem → Nat → Byte
  | [], _ => Mem.blank
  | (k, v) :: m, a => if k = a then v else Mem.get m a

/-- Drop the entries of an address. -/
def Mem.erase : Mem → Nat → Mem
  | [], _ => []
  | (k, w) :: m, a => if k = a then Mem.erase m a else (k, w) :: Mem.erase m a

/-- Write one byte, keeping the canonical form: the blank byte is not listed. -/
def Mem.set : Mem → Nat → Byte → Mem
  | [], a, v => if v = Mem.blank then [] else [(a, v)]
  | (k, w) :: m, a, v =>
    if k < a then (k, w) :: Mem.set m a v
    else if k = a then (if v = Mem.blank then Mem.erase m a else (a, v) :: m)
    else if v = Mem.blank then (k, w) :: Mem.erase m a else (a, v) :: (k, w) :: m

/-- The canonical form: addresses strictly rising from `lo`, no listed byte blank. -/
def Mem.wfFrom : Nat → Mem → Bool
  | _, [] => true
  | lo, (k, v) :: m => decide (lo ≤ k) && decide (v ≠ Mem.blank) && Mem.wfFrom (k + 1) m

/-- A memory is in canonical form. -/
def Mem.wf (m : Mem) : Bool := Mem.wfFrom 0 m

/-- Read `n` bytes from an address up. -/
def Mem.read (m : Mem) (a : Nat) : Nat → List Byte
  | 0 => []
  | n + 1 => Mem.get m a :: Mem.read m (a + 1) n

/-- Write bytes from an address up. -/
def Mem.write (m : Mem) (a : Nat) : List Byte → Mem
  | [] => m
  | b :: bs => Mem.write (Mem.set m a b) (a + 1) bs

end Sys2Proof.Machine
end

