-- ==== Sys2Proof/Machine/Bits.lean ====
section
/-!
DEFINITION. Bit fields, sign extension and byte order (R2, R83).
-/

namespace Sys2Proof.Machine

/-- The number that a little-endian list of bytes spells (R2). -/
def leNat : List Byte → Nat
  | [] => 0
  | b :: bs => b.toNat + 256 * leNat bs

/-- The `n` little-endian bytes of a number, higher bits dropped (R2). -/
def leBytes : Nat → Nat → List Byte
  | 0, _ => []
  | n + 1, x => BitVec.ofNat 8 x :: leBytes n (x / 256)

/-- Bits `[lo + len - 1 : lo]` of a number. -/
def bitsAt (x lo len : Nat) : Nat := (x >>> lo) % 2 ^ len

/-- A truth value as a number. -/
def natOf (b : Bool) : Nat := if b then 1 else 0

/-- `sext64` of an `n`-bit number (R83). -/
def sext64 (n : Nat) (x : Nat) : W64 := (BitVec.ofNat n x).signExtend 64

/-- `n / d` rounded up. -/
def ceilDiv (n d : Nat) : Nat := (n + d - 1) / d

/-- The signed value of an `n`-bit field. -/
def sval (n x : Nat) : Int := (BitVec.ofNat n x).toInt

/-- The low `n` bits of an integer, as a number (wrap_n of R83). -/
def wrapN (n : Nat) (x : Int) : Nat := (x % (2 ^ n : Nat)).toNat

/-- Clamp into the signed n-bit range (sat_iN of R83), as a bit pattern. -/
def satI (n : Nat) (x : Int) : Nat :=
  wrapN n (max (-(2 ^ (n - 1) : Nat)) (min x ((2 ^ (n - 1) : Nat) - 1)))

/-- Clamp into the unsigned n-bit range (sat_nN of R83). -/
def satN (n : Nat) (x : Int) : Nat := (max 0 (min x ((2 ^ n : Nat) - 1))).toNat

/-- Bits set in the low `n` bits of `x`. -/
def popcount : Nat → Nat → Nat
  | 0, _ => 0
  | n + 1, x => x % 2 + popcount n (x / 2)

/-- Leading zeros of the low `n` bits of `x`. -/
def leadingZeros : Nat → Nat → Nat
  | 0, _ => 0
  | n + 1, x => if x.testBit n then 0 else 1 + leadingZeros n x

/-- Trailing zeros of the low `n` bits of `x`. -/
def trailingZeros : Nat → Nat → Nat
  | 0, _ => 0
  | n + 1, x => if x % 2 = 1 then 0 else 1 + trailingZeros n (x / 2)

/-- Number of bits of a number: 0 for 0, else one more than the place of its top bit; `fuel` bounds it. -/
def bitLength (fuel x : Nat) : Nat := fuel - leadingZeros fuel x

/-- CRC-32C step over one byte (R470). -/
def crcByte : Nat → Nat → Nat
  | 0, c => c
  | n + 1, c => crcByte n (if c % 2 = 1 then (c / 2) ^^^ 0x82F63B78 else c / 2)

/-- The CRC-32C of a sector's bytes: polynomial 0x1EDC6F41, initial value all ones, final complement (R470). -/
def crc32c (bs : List Byte) : W32 :=
  BitVec.ofNat 32 (bs.foldl (fun c b => crcByte 8 (c ^^^ b.toNat)) 0xFFFFFFFF ^^^ 0xFFFFFFFF)

end Sys2Proof.Machine
end

