-- ==== Sys2Proof/Machine/Num.lean ====
section
/-!
DEFINITION. Number formats and exact arithmetic: every result is formed from exact extended reals and rounded at the
one point its form fixes (R9, R72 to R93).
-/

namespace Sys2Proof.Machine

/-- An exact extended real: (-1)^neg * m * 2^e, with a sign on zero (R9). -/
inductive XR where
  | nan
  | inf (neg : Bool)
  | fin (neg : Bool) (m : Nat) (e : Int)
  deriving DecidableEq, Repr

/-- The floating-point formats (R72). -/
inductive FFmt where
  | f32 | f16 | bf16 | f8e4 | f8e5
  deriving DecidableEq, Repr

/-- Fraction bits (R72). -/
def FFmt.frac : FFmt → Nat
  | .f32 => 23 | .f16 => 10 | .bf16 => 7 | .f8e4 => 3 | .f8e5 => 2

/-- Exponent bits (R72). -/
def FFmt.expo : FFmt → Nat
  | .f32 => 8 | .f16 => 5 | .bf16 => 8 | .f8e4 => 4 | .f8e5 => 5

/-- Bias (R72). -/
def FFmt.bias : FFmt → Nat
  | .f32 => 127 | .f16 => 15 | .bf16 => 127 | .f8e4 => 7 | .f8e5 => 15

/-- The encoding of the largest finite value (R72). -/
def FFmt.maxFin : FFmt → Nat
  | .f32 => 0x7F7FFFFF | .f16 => 0x7BFF | .bf16 => 0x7F7F | .f8e4 => 0x7E | .f8e5 => 0x7B

/-- The canonical NaN (R76). -/
def FFmt.nanBits : FFmt → Nat
  | .f32 => 0x7FC00000 | .f16 => 0x7E00 | .bf16 => 0x7FC0 | .f8e4 => 0x7F | .f8e5 => 0x7E

/-- The sign bit as a number. -/
def FFmt.signBit (F : FFmt) : Nat := 2 ^ (F.frac + F.expo)

/-- Exponent of the finest grid: the smallest subnormal is 2 to this power (R72). -/
def FFmt.grid (F : FFmt) : Int := 1 - (F.bias : Int) - (F.frac : Int)

/-- The exact value of an encoding (val of R83). -/
def fval (F : FFmt) (bits : Nat) : XR :=
  let mag := bits % F.signBit
  let neg := decide (bits / F.signBit % 2 = 1)
  let f := mag % 2 ^ F.frac
  let ex := mag / 2 ^ F.frac
  if F = .f8e4 then
    if mag = 0x7F then .nan
    else if ex = 0 then .fin neg f F.grid else .fin neg (f + 2 ^ F.frac) (F.grid + (ex : Int) - 1)
  else if ex = 2 ^ F.expo - 1 then (if f = 0 then .inf neg else .nan)
  else if ex = 0 then .fin neg f F.grid
  else .fin neg (f + 2 ^ F.frac) (F.grid + (ex : Int) - 1)

/-- m / 2^s rounded to an integer: to nearest, ties to even, or toward zero (R80, R82). -/
def roundShift (rz : Bool) (m s : Nat) : Nat :=
  let q := m / 2 ^ s
  let r := m % 2 ^ s
  if rz then q
  else if 2 * r < 2 ^ s then q
  else if 2 * r = 2 ^ s then q + q % 2
  else q + 1

/-- A finite magnitude rounded onto the grid of a format, as the encoding it would have with an unbounded exponent
(R80): the grid is p significant bits, never finer than the smallest subnormal. -/
def roundMag (F : FFmt) (rz : Bool) (m : Nat) (e : Int) : Nat :=
  if m = 0 then 0
  else
    let p := F.frac + 1
    let q := max F.grid (e + (m.log2 + 1 : Nat) - (p : Nat))
    let mm := if q ≤ e then m * 2 ^ (e - q).toNat else roundShift rz m (q - e).toNat
    (q - F.grid).toNat * 2 ^ F.frac + mm

/-- The encoding with a sign. -/
def signed (F : FFmt) (neg : Bool) (mag : Nat) : Nat := if neg then F.signBit + mag else mag

/-- rne_F of R80 for the formats that overflow to an infinity; for F8E4 it is rne_f8e4_nan (R81). -/
def rne (F : FFmt) (x : XR) : Nat :=
  match x with
  | .nan => F.nanBits
  | .inf neg => if F = .f8e4 then F.nanBits else signed F neg (F.maxFin + 1)
  | .fin neg m e =>
    let b := roundMag F false m e
    if F.maxFin < b then (if F = .f8e4 then F.nanBits else signed F neg (F.maxFin + 1)) else signed F neg b

/-- Rounding to nearest with an overflow, or an infinity, replaced by the largest finite value: sat_f32 (R83) and
rne_f8e4_sat (R81). -/
def rneSat (F : FFmt) (x : XR) : Nat :=
  match x with
  | .nan => F.nanBits
  | .inf neg => signed F neg F.maxFin
  | .fin neg m e => signed F neg (min F.maxFin (roundMag F false m e))

/-- rz_F of R82. -/
def rz (F : FFmt) (x : XR) : Nat :=
  match x with
  | .nan => F.nanBits
  | .inf neg => signed F neg (F.maxFin + 1)
  | .fin neg m e => signed F neg (min F.maxFin (roundMag F true m e))

/-- An F32 pattern's exact value. -/
def v32 (x : W32) : XR := fval .f32 x.toNat

/-- rne_f32 as a word. -/
def r32 (x : XR) : W32 := BitVec.ofNat 32 (rne .f32 x)

/-- The canonical F32 NaN (R76). -/
def nan32 : W32 := 0x7FC00000

/-- The signed integer m * 2^(e - lo), for lo at or below e. -/
def scaled (neg : Bool) (m : Nat) (e lo : Int) : Int :=
  let v : Int := (m : Int) * 2 ^ (e - lo).toNat
  if neg then -v else v

/-- Exact sum, with the sign of a zero result as R79 gives it. -/
def XR.add : XR → XR → XR
  | .nan, _ => .nan
  | _, .nan => .nan
  | .inf a, .inf b => if a = b then .inf a else .nan
  | .inf a, .fin _ _ _ => .inf a
  | .fin _ _ _, .inf b => .inf b
  | .fin na ma ea, .fin nb mb eb =>
    let lo := min ea eb
    let v := scaled na ma ea lo + scaled nb mb eb lo
    if v = 0 then .fin (na && nb) 0 0 else .fin (decide (v < 0)) v.natAbs lo

/-- The negation of a value. -/
def XR.neg : XR → XR
  | .nan => .nan
  | .inf a => .inf !a
  | .fin n m e => .fin (!n) m e

/-- Exact product (R78, R79). -/
def XR.mul : XR → XR → XR
  | .nan, _ => .nan
  | _, .nan => .nan
  | .inf a, .inf b => .inf (a != b)
  | .inf a, .fin b m _ => if m = 0 then .nan else .inf (a != b)
  | .fin a m _, .inf b => if m = 0 then .nan else .inf (a != b)
  | .fin a ma ea, .fin b mb eb => .fin (a != b) (ma * mb) (ea + eb)

/-- A value times a power of two. -/
def XR.scale (x : XR) (k : Int) : XR :=
  match x with
  | .fin n m e => .fin n m (e + k)
  | y => y

/-- Exact sum of a list, from a first term (R79, R85). -/
def XR.sum (a : XR) (l : List XR) : XR := l.foldl XR.add a

/-- An integer as an exact value. -/
def XR.ofInt (v : Int) : XR := .fin (decide (v < 0)) v.natAbs 0

/-- Whether a value is NaN. -/
def XR.isNan : XR → Bool
  | .nan => true
  | _ => false

/-- rne_f32(a + b). -/
def fadd (a b : W32) : W32 := r32 ((v32 a).add (v32 b))
/-- rne_f32(a - b). -/
def fsub (a b : W32) : W32 := r32 ((v32 a).add (v32 b).neg)
/-- rne_f32(a * b). -/
def fmul (a b : W32) : W32 := r32 ((v32 a).mul (v32 b))
/-- rne_f32(a * b + c), rounded once. -/
def ffma (a b c : W32) : W32 := r32 (((v32 a).mul (v32 b)).add (v32 c))

/-- Whether a pattern is an F32 NaN. -/
def isNan32 (x : W32) : Bool := decide (0x7F800000 < x.toNat % 2 ^ 31)

/-- Order of the F32 values other than NaN, with -0 below +0 (R83). -/
def key32 (x : W32) : Int :=
  if x.toNat < 2 ^ 31 then (x.toNat : Int) else -((x.toNat % 2 ^ 31 : Nat) : Int) - 1

/-- Order of the F32 values other than NaN, with -0 equal to +0. -/
def mag32 (x : W32) : Int :=
  if x.toNat < 2 ^ 31 then (x.toNat : Int) else -((x.toNat % 2 ^ 31 : Nat) : Int)

/-- fmax_dev (R83). -/
def fmaxDev (a b : W32) : W32 :=
  if isNan32 a || isNan32 b then nan32 else if key32 a < key32 b then b else a

/-- fmin_dev (R83). -/
def fminDev (a b : W32) : W32 :=
  if isNan32 a || isNan32 b then nan32 else if key32 b < key32 a then b else a

/-- fcmp (R83): relation 0 eq, 1 lt, 2 le, 3 ne (R183). -/
def fcmp (a b : W32) (rel : Nat) : Bool :=
  if isNan32 a || isNan32 b then decide (rel = 3)
  else
    match rel with
    | 0 => decide (mag32 a = mag32 b)
    | 1 => decide (mag32 a < mag32 b)
    | 2 => decide (mag32 a ≤ mag32 b)
    | _ => decide (mag32 a ≠ mag32 b)

/-- A finite value rounded to an integer (cvt of R83). -/
def roundInt (rzMode : Bool) (neg : Bool) (m : Nat) (e : Int) : Int :=
  let a : Nat := if 0 ≤ e then m * 2 ^ e.toNat else roundShift rzMode m (-e).toNat
  if neg then -(a : Int) else a

/-- cvt_i(x, n, mode) of R83, as an n-bit pattern. -/
def cvtI (n : Nat) (rzMode : Bool) (x : XR) : Nat :=
  match x with
  | .nan => 0
  | .inf neg => if neg then 2 ^ (n - 1) else 2 ^ (n - 1) - 1
  | .fin neg m e => satI n (roundInt rzMode neg m e)

/-- cvt_n(x, n, mode) of R83. -/
def cvtN (n : Nat) (rzMode : Bool) (x : XR) : Nat :=
  match x with
  | .nan => 0
  | .inf neg => if neg then 0 else 2 ^ n - 1
  | .fin neg m e => satN n (roundInt rzMode neg m e)

/-- rcp_dev (R83): the quotient to 40 bits past the divisor's length, with a sticky bit below, rounded once. -/
def rcpDev (x : W32) : W32 :=
  match v32 x with
  | .nan => nan32
  | .inf neg => BitVec.ofNat 32 (signed .f32 neg 0)
  | .fin neg m e =>
    if m = 0 then BitVec.ofNat 32 (signed .f32 neg 0x7F800000)
    else
      let k := m.log2 + 40
      let q := 2 ^ k / m
      let st := if 2 ^ k % m = 0 then 0 else 1
      r32 (.fin neg (2 * q + st) (-e - (k : Int) - 1))

/-- Integer square root by bits, from bit `n - 1` down. -/
def isqrtFrom (y : Nat) : Nat → Nat → Nat
  | 0, r => r
  | n + 1, r => let c := r + 2 ^ n; isqrtFrom y n (if c * c ≤ y then c else r)

/-- rsq_dev (R83): the reciprocal root to over 40 bits, with a sticky bit below, rounded once. -/
def rsqDev (x : W32) : W32 :=
  match v32 x with
  | .nan => nan32
  | .inf neg => if neg then nan32 else 0
  | .fin neg m e =>
    if m = 0 then BitVec.ofNat 32 (signed .f32 neg 0x7F800000)
    else if neg then nan32
    else
      let odd := e % 2 = 1
      let m2 := if odd then 2 * m else m
      let e2 := if odd then e - 1 else e
      let k : Nat := 60
      let r := isqrtFrom (2 ^ (2 * k) / m2) 61 0
      let st := if r * r * m2 = 2 ^ (2 * k) then 0 else 1
      r32 (.fin false (2 * r + st) (-(e2 / 2) - (k : Int) - 1))

/-- The polynomial's coefficients, C5 down to C0 (R90). -/
def exp2Coeffs : List W32 := [0x3AAEC3FF, 0x3C1D955B, 0x3D635847, 0x3E75FDF0, 0x3F317218, 0x3F800000]

/-- exp2_dev (R90). -/
def exp2Dev (x : W32) : W32 :=
  match v32 x with
  | .nan => nan32
  | .inf neg => if neg then 0 else 0x7F800000
  | .fin neg m e =>
    if mag32 0x43010000 ≤ mag32 x then 0x7F800000
    else if mag32 x ≤ mag32 0xC3170000 then 0
    else
      let n := roundInt false neg m e
      let f := r32 ((XR.fin neg m e).add (XR.ofInt n).neg)
      let p := exp2Coeffs.foldl (fun p c => fadd (fmul p f) c) (0x392183FB : W32)
      r32 ((v32 p).scale n)

/-- Pair adjacent elements (R92). -/
def pairUp {α : Type} (op : α → α → α) : List α → List α
  | a :: b :: l => op a b :: pairUp op l
  | l => l

/-- red_tree over 64 elements: six levels of adjacent pairs (R92). -/
def redTree {α : Type} (op : α → α → α) (d : α) (w : List α) : α :=
  (pairUp op (pairUp op (pairUp op (pairUp op (pairUp op (pairUp op w)))))).headD d

/-- scan_seq: the inclusive prefix in lane order (R93). -/
def scanSeq {α : Type} (op : α → α → α) (acc : α) : List α → List α
  | [] => []
  | a :: l => let s := op acc a; s :: scanSeq op s l

/-- The three BF16 slices of an F32 value, as BF16 patterns (R87). -/
def split3 (x : W32) : Nat × Nat × Nat :=
  match v32 x with
  | .nan => (0x7FC0, 0, 0)
  | .inf neg => (signed .bf16 neg 0x7F80, 0, 0)
  | .fin neg m e =>
    let v := XR.fin neg m e
    let hi := rz .bf16 v
    let r1 := v.add (fval .bf16 hi).neg
    let mid := rz .bf16 r1
    let r2 := r1.add (fval .bf16 mid).neg
    (hi, mid, rz .bf16 r2)

/-- A T2 element's sign-select (R74). -/
def t2Val (b : Nat) : Int :=
  match b % 4 with
  | 1 => 1
  | 3 => -1
  | _ => 0

/-- An E8 scale's value (R75). -/
def e8Val (e : Nat) : XR := if e % 256 = 255 then .nan else .fin false 1 ((e % 256 : Nat) - 127 : Int)

/-- A product of passes 1 to 5 of mma.f32x3: a zero slice contributes +0 (R88). -/
def slicePair (full : Bool) (a b : Nat) : XR :=
  let x := fval .bf16 a
  let y := fval .bf16 b
  let z : XR → Bool := fun v => match v with
    | .fin _ 0 _ => true
    | _ => false
  if !full && (z x || z y) then .fin false 0 0 else x.mul y

/-- acsc.e8 on one cell (R86). -/
def scaleE8 (er ec : Nat) (p c : W32) : W32 :=
  if er % 256 = 255 || ec % 256 = 255 then nan32
  else r32 ((v32 c).add ((v32 p).scale (((er % 256 : Nat) : Int) - 127 + (((ec % 256 : Nat) : Int) - 127))))

/-- acsc.f32 on one cell (R86). -/
def scaleF32 (rs cs p c : W32) : W32 := fadd c (fmul (fmul p rs) cs)

end Sys2Proof.Machine
end

