-- ==== Sys2Proof/Machine/State.lean ====
section
/-!
DEFINITION. The state of the machine as plain data: strands, cores, core groups, memory, the front end, the fabric,
the streams, the management plane, and the agenda of moves to come. `State.reset` is the device right after reset.
-/

namespace Sys2Proof.Machine

/-! ### Names used by events -/

/-- A group mailbox, the host mailbox or the recovery mailbox (R474, R477). -/
inductive Mailbox where
  | group (g : Nat) | host | recovery
  deriving DecidableEq, Repr

/-- A translation cache: a core group's, or that of a memory port: 0 to 47 the GDDR7 channels, 48 the host link, 49 the fabric
router. `memory` stands for the port of the channel that serves an access, which no rule names (R32, R282; log entry 97). -/
inductive TCache where
  | group (g : Nat) | port (n : Nat) | memory
  deriving DecidableEq, Repr

/-- A ring: a local ring of a core, or the global ring at a device address (R210). -/
inductive RingName where
  | local (core id : Nat) | global (addr : Nat)
  deriving DecidableEq, Repr

/-- Where a byte lives: this chip's GDDR7, host memory, a peer chip's memory, or a core's scratchpad (R32, R274). -/
inductive Loc where
  | dev (a : Nat)
  | host (a : Nat)
  | peer (chip a : Nat)
  | sp (core a : Nat)
  deriving DecidableEq, Repr

/-- An element that a load reads: its bytes once they are read, the place that they are still to come from, or an element that is
not there, of which the lane reads zeros (R205, R273). -/
inductive Src where
  | got (bs : List Byte)
  | at (l : Loc) (n : Nat)
  | gone (n : Nat)
  deriving DecidableEq, Repr

/-! ### A strand -/

/-- The run state of a strand (R125, R147, R158). -/
inductive Run where
  | idle | running | exited
  deriving DecidableEq, Repr

/-- The SEQ form that holds the next bundle (R131, R229, R247, R264, R287); `qop` is qlaunch, or qpatch where `patch`
(R441). -/
inductive Wait where
  | none
  | join
  | yield
  | ewait (n cond : Nat) (b : Nat)
  | exit
  | tsync
  | ctxs (a : W64)
  | ctxr (a : W64)
  | barw (s j : Nat)
  | bara (s j : Nat)
  | wfe (d : BitVec 6) (issue : Nat) (limit : W64) (woken : Option Nat) (mask : BitVec 16)
  | eret
  | halt
  | qop (patch : Bool) (d : Nat) (a b : W64)
  deriving DecidableEq, Repr

/-- A wait kept across a trap, other than a barrier wait (R229). -/
inductive Keep where
  | none
  | join
  | ewait (n cond : Nat) (b : Nat)
  | exit
  | tsync
  | ctxs (a : Nat)
  | ctxr (a : Nat)
  | bar
  deriving DecidableEq, Repr

/-- A fence scope, from strand to system (R95, R105). -/
inductive Scope where
  | strand | core | group | dev | win | sys
  deriving DecidableEq, Repr

/-- One landing of a copy command under way, in a ring slot or, with no ring, at its scratchpad base: its receiver, the
list entry of a cpyg, and whether it has begun. `half` holds the steps in which parts of its elements were written, where the
others are still to come (R110, R291, R302, R303). -/
structure Landing where
  core : Nat := 0
  slot : Option Nat := none
  base : Nat := 0
  block : Nat := 0
  begun : Bool := false
  half : List Nat := []
  deriving DecidableEq, Repr

/-- One copy command (`again`: restarted after a pre-emption, its wmask consumed before it; `late`: its node is late; `half`: the
steps in which parts of its stores to memory were made; `todo`: elements of its box that are still to be read, by offset, place and
size; `since`: the clk after which bundles that issue are stalled by its range): its template with the overrides applied, its bound references, and how far it has come (R110, R293, R301 to R303, R311 to
R313, R434). -/
structure CopyCmd where
  id : Nat := 0
  strand : Nat := 0
  bundle : W64 := 0
  seq : Nat := 0
  chain : Option Nat := none
  tmpl : BitVec 1024 := 0
  src : W64 := 0
  dst : W64 := 0
  kind : Nat := 0
  mask : BitVec 16 := 0
  nb : W64 := 0
  handle : W64 := 0
  list : W64 := 0
  sb : Option Nat := none
  begun : Bool := false
  waited : Bool := false
  slot : Option Nat := none
  again : Bool := false
  gnext : Nat := 0
  lands : List Landing := []
  box : List (Nat × List Byte) := []
  todo : List (Nat × Loc × Nat) := []
  fault : Option (Nat × W64) := none
  refused : Option (Nat × Nat × W64) := none
  flags : W64 := 0
  tenant : Nat := 0
  node : Nat := 0
  late : Bool := false
  half : List Nat := []
  since : Nat := 0
  detached : Bool := false
  deriving DecidableEq, Repr

/-- One copy channel: its queue, and its chain (R290, R309, R310, R313). -/
structure Channel where
  queue : List CopyCmd := []
  nextId : Nat := 0
  base : Nat := 0
  n : Nat := 0
  next : Nat := 0
  linked : Bool := false
  strand : Nat := 0
  credit : Nat := 0
  k : Map Nat := []
  bundle : W64 := 0
  seq : Nat := 0
  deriving DecidableEq, Repr

/-- One entry of the range scoreboard in use: first and last byte, whether it is a write range, and the clk after
which bundles that issue are stalled by it (R307, R308). -/
structure ScoreEntry where
  lo : Nat := 0
  hi : Nat := 0
  write : Bool := false
  since : Nat := 0
  deriving DecidableEq, Repr

/-- One entry of LQ, CQ, SQ or EA: the instruction as issued, with its scalar operands and tensor reference captured,
and how far it has come (R48, R129, R134, R173, R225, R226). Of an access that has begun and is performed for some of its elements
only, `later` holds the elements that it still stores, and `left` the lanes that it still loads, from `srcs` (R97, R108); of an MX
form that has dispatched and is still to read its operand, `left` is not none (R320). `aheadN` and `aheadP` count the pushes that
younger entries of its queue have made to the counters of +n and +p before this one completed (R104); `fails` is the first failure of a
part of it at a peer chip (R399). -/
structure Entry where
  word : W32 := 0
  lit : Lit := none
  bundle : W64 := 0
  widx : Nat := 0
  seq : Nat := 0
  caps : List W64 := []
  dst : List Nat := []
  tref : W64 := 0
  gap : Nat := 0
  ready : Nat := 0
  begun : Bool := false
  done : Bool := false
  pushN : Bool := false
  pushP : Bool := false
  faulted : Bool := false
  skip : Bool := false
  parked : Bool := false
  until_ : Option Nat := none
  wait : Option Nat := none
  marker : Option (Nat × Scope) := none
  cmd : Option CopyCmd := none
  resv : Bool := false
  spaced : Bool := false
  cover : Option (List Nat) := none
  later : List (List (Loc × Byte)) := []
  left : Option W64 := none
  srcs : List Src := []
  atIssue : Option (Nat × W64) := none
  aheadN : Nat := 0
  aheadP : Nat := 0
  fails : Option (Nat × W64) := none
  deriving DecidableEq, Repr

/-- The trap record, CSRs 0x10 to 0x1C (R223, R224). -/
structure TrapRec where
  cause : W64 := 0
  bundle : W64 := 0
  val : W64 := 0
  resume : W64 := 0
  stLq : W64 := 0
  stCq : W64 := 0
  stSq : W64 := 0
  stEa : W64 := 0
  ctl : W64 := 0
  cyc : W64 := 0
  scratch : W64 := 0
  nrec : W64 := 0
  keep : W64 := 0
  deriving DecidableEq, Repr

/-- Lanes of a vector register, or bits of a mask, inside the latency window of a CQ write: the value before the write
may still be read before clk `until_` (R103, R174). -/
structure Window where
  mask : Bool
  reg : Nat
  lanes : W64
  old : BitVec 2048
  until_ : Nat
  deriving DecidableEq, Repr

/-- A probe or pgreq whose x[d] is still to be written: its register, the reference and the coordinates that it read at
issue, and the clk by which it completes (R283 to R285). -/
structure LateReq where
  request : Bool
  d : Nat
  ref : W64
  tref : W64
  coords : List Int
  bundle : W64
  widx : Nat
  seq : Nat
  due : Nat
  deriving DecidableEq, Repr

/-- A task that the strand runs (R141, R143), with what it returns to; `kept`: tkeep records the wait that it was taken under
(R229). -/
structure Task where
  depth : Nat := 1
  place : Nat := 0
  ppos : Nat := 0
  pstrand : Nat := 0
  pdepth : Nat := 0
  signal : W32 := 0
  start : W64 := 0
  outer : Wait := .none
  seq0 : Nat := 0
  kept : Bool := false
  deriving DecidableEq, Repr

/-- A strand's request for the hasp (R323). -/
inductive HaspReq where
  | none | waiting | rejoining
  deriving DecidableEq, Repr

/-- One barrier set slot of a strand (R251, R261, R266, R267). -/
structure BarSlot where
  valid : Bool := false
  setw : Nat := 0
  relw : Nat := 0
  arr : BitVec 16 := 0
  del : BitVec 16 := 0
  rot : Nat := 0
  kept : Bool := false
  keptJ : Nat := 0
  keptBara : Bool := false
  deriving DecidableEq, Repr

/-- One hardware strand. `e0` holds the event counters as they stood at the start of the clk (R136); `waitBundle`,
`waitWidx` and `waitSeq` name the bundle of the SEQ form issued last, `keepBundle` and its kin that of a kept form; `checkPc` asks for the checks of R49 at the
next fetch (R39, R233). `lqAt` and `sqAt` are the clks from which LQ and SQ may begin another instruction (R129). `gate` holds
the first bundle of a task until the accesses of its spawner, by core position and strand, before a mark are performed (R145). `drainsNext` holds the flags of
commands that complete while a drain that does not cover them waits (R304). `saw` is the stream that the last sstat read, and the
sclk in which it did (R454). -/
structure Strand where
  x : Map W64 := []
  v : Map (BitVec 2048) := []
  m : Map W64 := []
  e : Map (BitVec 16) := []
  e0 : Map (BitVec 16) := []
  t : Map W64 := []
  l : Map W64 := []
  pc : W64 := 0
  run : Run := .idle
  wait : Wait := .none
  waitBundle : W64 := 0
  waitWidx : Nat := 0
  waitSeq : Nat := 0
  checkPc : Bool := false
  holdUntil : Nat := 0
  lc : Nat := 0
  cl : Nat := 0
  cs : Nat := 0
  sc : Nat := 0
  lq : List Entry := []
  cq : List Entry := []
  sq : List Entry := []
  ea : List Entry := []
  joins : Map Nat := []
  tasks : List Task := []
  seq : Nat := 0
  handler : Bool := false
  trapped : Bool := false
  stopped : Bool := false
  pendTrap : Bool := false
  trapSeq : Nat := 0
  rec_ : TrapRec := {}
  keep : Keep := .none
  keepBundle : W64 := 0
  keepWidx : Nat := 0
  keepSeq : Nat := 0
  catchUp : Bool := false
  rlq : List Entry := []
  rcq : List Entry := []
  rsq : List Entry := []
  rea : List Entry := []
  win : List Window := []
  lastDisp : Nat := 0
  lastL : Nat := 0
  afterCatch : Bool := false
  lastIssue : Nat := 0
  fences : Nat := 0
  hasp : HaspReq := .none
  haspBudget : Nat := 1
  haspPrio : Nat := 0
  bars : Map BarSlot := []
  syncs : Nat := 0
  lqAt : Nat := 0
  sqAt : Nat := 0
  late : List LateReq := []
  gate : Option (Nat × Nat × Nat) := none
  colls : Nat := 0
  drains : Map W64 := []
  drainsNext : Map W64 := []
  refills : BitVec 16 := 0
  saw : Option (Nat × Nat) := none
  deriving DecidableEq, Repr

/-! ### A core -/

/-- A placement on a core; `since` is the step in which its node launched, `life` that in which the placement started (R40, R116,
R118 to R126, R147, R160, R164). -/
structure Placement where
  node : Nat := 0
  queue : Nat := 0
  tenant : Nat := 0
  part : Nat := 0
  lin : Nat := 0
  total : Nat := 1
  kref : W64 := 0
  kdoff : Nat := 0
  kd : BitVec 512 := 0
  loops : List W64 := []
  args : List W64 := []
  trefs : List W64 := []
  dline : W64 := 0
  start : W64 := 0
  late : Bool := false
  since : Nat := 0
  life : Nat := 0
  started : Bool := false
  ending : Bool := false
  deriving DecidableEq, Repr

/-- A waiter at a ring: its core, the agent of that core, and whether it claims (R214, R216, R297, R387). Agents 0 to 3
are the strands, 4 to 7 the copy channels, and 8 the attention engine for that core's request. -/
structure Waiter where
  core : Nat
  agent : Nat
  claims : Bool
  deriving DecidableEq, Repr

/-- A local ring (R211, R213, R214): slot states 0 free, 1 claimed, 2 filling, 3 filled, 4 in-use, and the strand that
holds each slot in use (R311). -/
structure Ring where
  valid : Bool := false
  base : Nat := 0
  stride : Nat := 0
  cnt : Nat := 0
  head : Nat := 0
  tail : Nat := 0
  claimed : Nat := 0
  slots : Map Nat := []
  holders : Map Nat := []
  waiters : List Waiter := []
  deriving DecidableEq, Repr

/-- Scratchpad bytes inside the latency window of acst: its elements of `size` bytes may still read as the bytes before it
until clk `until_` (R103, R320). -/
structure SpWindow where
  lo : Nat
  size : Nat
  old : List Byte
  until_ : Nat
  deriving DecidableEq, Repr

/-- One core. `taskMarks` holds, for each record of its task queue, the spawning strand's program-order mark (R145). -/
structure Core where
  place : Option Placement := none
  sp : Mem := []
  acc : Mem := []
  cst : Mem := []
  consts : Map W32 := []
  templates : Map (BitVec 1024) := []
  taskMarks : List Nat := []
  rings : Map Ring := []
  strands : Map Strand := []
  haspHolder : Option Nat := none
  haspLeft : Nat := 0
  haspLast : Nat := 3
  haspFree : Nat := 0
  arrayFree : Nat := 0
  vuFree : Nat := 0
  vuLast : Nat := 3
  ro : Map (BitVec 2048) := []
  spWin : List SpWindow := []
  chans : Map Channel := []
  sb : Map ScoreEntry := []
  kvCache : List Nat := []
  kvTenant : Nat := 0
  kvAsked : Bool := false
  deriving DecidableEq, Repr

/-! ### A core group -/

/-- A resident translation: tenant, tensor index, generation, tile and the tile-table entry (R282). -/
structure TEntry where
  tenant : Nat
  index : Nat
  gen : Nat
  tile : Nat
  entry : W64
  deriving DecidableEq, Repr

/-- A command in an engine's FIFO: who pushed it, with which tag, from which bundle, and its 128 bytes; `turn` is its place in
the FIFO of its group as a save leaves it (R168, R374, R389, R434). -/
structure EngCmd where
  core : Nat := 0
  strand : Nat := 0
  tag : Nat := 0
  data : BitVec 1024 := 0
  bundle : W64 := 0
  seq : Nat := 0
  node : Nat := 0
  tenant : Nat := 0
  slot : Option Nat := none
  late : Bool := false
  turn : Nat := 0
  detached : Bool := false
  deriving DecidableEq, Repr

/-- A result element, with the strand it belongs to (R169, R386, R368). -/
structure ResElem where
  core : Nat := 0
  strand : Nat := 0
  tag : Nat := 0
  data : BitVec 1024 := 0
  node : Nat := 0
  deriving DecidableEq, Repr

/-- A row of the fold: running maximum, denominator pair, value vector (R380). -/
structure FoldRow where
  m : W32 := 0xFF800000
  shi : W32 := 0
  slo : W32 := 0
  v : List W32 := []
  deriving DecidableEq, Repr

/-- The request in the attention engine: its rows, the counts of its result, its output slot, and the cause that
stopped it (R376 to R381, R387, R388). -/
structure AttnRun where
  cmd : EngCmd := {}
  rows : List FoldRow := []
  folded : Nat := 0
  skipped : Nat := 0
  fault : Option (Nat × W64) := none
  half : List Nat := []
  deriving DecidableEq, Repr

/-- One core group: its translation cache, attention engine and mailbox (R282, R374, R23). -/
structure Group where
  tcache : List TEntry := []
  attnIn : List EngCmd := []
  attnRun : Option AttnRun := none
  attnOut : List ResElem := []
  mboxIn : List EngCmd := []
  mboxOut : List ResElem := []
  deriving DecidableEq, Repr

/-! ### Memory -/

/-- A line of L2: bytes, sector valid bits, byte write masks, and pins by owner (R343, R344). -/
structure Line where
  data : BitVec 2048 := 0
  valid : BitVec 4 := 0
  mask : BitVec 256 := 0
  pins : List Nat := []
  deriving DecidableEq, Repr

/-- A 4-byte element of translated memory that a write has replaced: its place, the value before, the step of the write, the
strand that stored it, by node, linear index and hardware strand, if one did, and whether the write was one of 64 aligned bytes
(R40, R116). -/
structure Past where
  loc : Loc
  old : W32
  stamp : Nat
  who : Option (Nat × Nat × Nat) := none
  whole : Bool := false
  deriving DecidableEq, Repr

/-- What stores can be known to, in the sense of happens-before: a strand, by node, linear index and hardware strand; its last fence, at
core or at a wider scope; an increment or an arrival on its way; an event counter; a task that is spawned; a join counter; a ring slot;
a line of tumbler state; a barrier id, before and after its completion (R106, R107, R139, R145). -/
inductive Knower where
  | strand (node lin h : Nat)
  | fence (wide : Bool) (node lin h : Nat)
  | mail (n : Nat)
  | ctr (node lin h k : Nat)
  | task (node lin h mark : Nat)
  | joined (node lin h depth : Nat)
  | slot (node lin id k : Nat)
  | slotAt (addr k : Nat)
  | line (n : Nat)
  | arrived (id : Nat)
  | released (id : Nat)
  deriving DecidableEq, Repr

/-- The stores of a strand up to a step, each followed by a fence of the strand at device scope, happen before what `who` does next
(R108, R116). -/
structure Known where
  who : Knower
  by_ : Nat × Nat × Nat
  upTo : Nat
  deriving DecidableEq, Repr

/-- A release behind a fence that has not completed: once it has, what the strand stored before it is known to `dst` too. -/
structure Vow where
  by_ : Nat × Nat × Nat
  fence : Nat
  dst : Knower
  deriving DecidableEq, Repr

/-- An event increment not yet applied (R136, R138): its target, the node of its source, the fence of the source
strand that it must follow (R139), the clk by which it is applied, and the number under which it carries what happens before it. -/
structure Incr where
  core : Nat
  strand : Nat
  ctr : Nat
  amt : BitVec 16
  node : Nat
  srcCore : Nat
  srcStrand : Nat
  fence : Option Nat := none
  ownSig : Bool := false
  due : Nat := 0
  tag : Nat := 0
  deriving DecidableEq, Repr

/-- A tmb request on its way to, or at, a home slice (R353 to R356): its strand, registers and operands, the table of
its kernel, its line and the page kind, and, once its routine has run, its result and status. -/
structure TmbReq where
  core : Nat := 0
  strand : Nat := 0
  form : Nat := 0
  d : Nat := 0
  ptr : W64 := 0
  o0 : W64 := 0
  o1 : W64 := 0
  slot : W64 := 0
  tref : W64 := 0
  bundle : W64 := 0
  widx : Nat := 0
  seq : Nat := 0
  tenant : Nat := 0
  node : Nat := 0
  codeten : W64 := 0
  rtnoff : Nat := 0
  line : Nat := 0
  kind : Nat := 0
  ran : Option (W64 × W64) := none
  dead : Bool := false
  late : Bool := false
  tag : Nat := 0
  fault : Option (Nat × W64) := none
  deriving DecidableEq, Repr

/-- Invalidations of a tinv in flight until its strand's tsync completes (R286, R287): the tile, the groups whose
accessed bit was set, the tile's entry as memory held it, and the bytes of its frame. -/
structure TInv where
  core : Nat
  strand : Nat
  tenant : Nat
  index : Nat
  gen : Nat
  tile : Nat
  groups : Nat
  entry : W64 := 0
  bytes : Nat := 0
  deriving DecidableEq, Repr

/-! ### The barrier unit -/

/-- A physical barrier id: the claiming node, its set's parameters, the core or group of a narrow scope, the arrival
count and the pending-delivery bit (R249, R250, R267). -/
structure BarId where
  node : Option Nat := none
  setw : Nat := 0
  relw : Nat := 0
  home : Nat := 0
  count : Nat := 0
  pending : Bool := false
  deriving DecidableEq, Repr

/-- An arrival of a strand not yet counted, the clk by which it is counted once it is eligible, and the number under which it carries
what happens before it (R106, R252, R256). -/
structure BarArr where
  core : Nat
  strand : Nat
  id : Nat
  rel : Bool
  seq : Nat
  node : Nat
  due : Nat := 0
  tag : Nat := 0
  deriving DecidableEq, Repr

/-- A completion due at a core from a clk on (R253). -/
structure BarDue where
  core : Nat
  id : Nat
  clk : Nat
  deriving DecidableEq, Repr

/-! ### Saved groups -/

/-- A saved core of a saved group: position, placement, tenant and node, as the front end keeps them (R240), and what no
rule places in the save area: the marks of program order, the kernel's tables, increments and arrivals of its strands
that are not yet applied, and the strands that requests and result elements belong to; the core that it was, the barrier ids
whose completion is pending for it (R267). -/
structure SavedCore where
  pos : Nat
  core : Nat := 0
  pend : List Nat := []
  tenant : Nat
  node : Nat
  place : Placement
  book : Core
  incrs : List Incr
  arrs : List BarArr
  reqs : List EngCmd
  attnRes : List ResElem
  mboxRes : List ResElem
  deriving DecidableEq, Repr

/-- A saved core group: the partition that pre-empted it and the slot of its save pool (R237, R240, R438). -/
structure SavedGroup where
  part : Nat
  slot : Nat
  cores : List SavedCore
  deriving DecidableEq, Repr

/-- An event of the black-box record (R472). -/
structure BBEvent where
  time : W64 := 0
  kind : BitVec 8 := 0
  cause : BitVec 8 := 0
  tenant : BitVec 10 := 0
  core : BitVec 10 := 0
  data : BitVec 128 := 0
  deriving DecidableEq, Repr

/-! ### The slices -/

/-- An installed tumbler routine, with its key: tenant, code tensor, table and slot, and the node that it was installed for
(R347). -/
structure Routine where
  tenant : Nat := 0
  index : Nat := 0
  gen : Nat := 0
  off : Nat := 0
  slot : Nat := 0
  node : Nat := 0
  code : BitVec 1024 := 0
  deriving DecidableEq, Repr

/-! ### The front end -/

/-- The state of a launch node (R427). -/
inductive NodeSt where
  | free | waiting | ready | placing | running | error
  deriving DecidableEq, Repr

/-- An entry of the launch-node table: the NODE packet it was made from, with what was read for it (R423, R426 to R434),
the stream and the frame it belongs to (R445, R452), the step of its first placement, and whether its queue was reset under it
(R417). -/
structure Node where
  st : NodeSt := .free
  pkt : BitVec 512 := 0
  queue : Nat := 0
  tenant : Nat := 0
  pred : Nat := 0
  arrival : W64 := 0
  dline : W64 := 0
  kd : BitVec 512 := 0
  loops : List W64 := []
  args : List W64 := []
  packet : Option Nat := none
  placed : Nat := 0
  retired : Nat := 0
  total : Nat := 1
  late : Bool := false
  failed : Bool := false
  checked : Bool := false
  remote : Bool := false
  forwards : List Nat := []
  bound : Option Nat := none
  frame : Option Nat := none
  head : Bool := false
  since : Nat := 0
  orphan : Bool := false
  deriving DecidableEq, Repr

/-- A packet read ahead of its execution: its index, the copy, and for each qpatch that has written it since, in order, what memory
held before and after (R421). -/
structure Prefetched where
  idx : Nat := 0
  img : BitVec 512 := 0
  patches : List (BitVec 512 × BitVec 512) := []
  deriving DecidableEq, Repr

/-- A queue: its control block, its submission latch, the firmware thread's view of it, the packets read ahead, the packet
in execution once its first step is made, and how far a FRAME at its head has come: 0 not begun, 1 waiting for its
release, 2 waiting for a slot (R417 to R422, R440, R452). -/
structure Queue where
  cb : BitVec 1024 := 0
  pending : Bool := false
  pendAt : Nat := 0
  mapped : Bool := false
  blocked : Bool := false
  since : Nat := 0
  taken : W32 := 0
  pre : List Prefetched := []
  run : Option (BitVec 512) := none
  framing : Nat := 0
  deriving DecidableEq, Repr

/-- A record on the completion path, with its source, and whether it is the first of its placement (R25, R232, R429). -/
structure CompRec where
  src : Nat := 0
  data : BitVec 128 := 0
  first : Bool := true
  deriving DecidableEq, Repr

/-- A pre-emption in flight: the partition that asked, the group, its save slot, whether the cores
have the request, and the clk in which they got it (R236, R437). -/
structure Preempt where
  part : Nat := 0
  group : Nat := 0
  slot : Nat := 0
  at_ : Nat := 0
  asked : Bool := false
  deriving DecidableEq, Repr

/-- The front end (R417 to R443). `linkHeld` is set only inside a step: an access of its memory port meets a link that is stopped
(R397). -/
structure FrontEnd where
  up : Bool := false
  queues : Map Queue := []
  nodes : Map Node := []
  parts : Map (BitVec 256) := []
  fns : Map (BitVec 512) := []
  recs : List CompRec := []
  clk : Nat := 0
  placed : Nat := 0
  preempts : List Preempt := []
  held : Map Nat := []
  vectors : List (Nat × Nat) := []
  linkHeld : Bool := false
  deriving DecidableEq, Repr

/-! ### Streams and encoders -/

/-- An encoder submission (R456, R457): the frame, its deadline and slot, the coding it asks for, whether the encoder has picked it
and taken its slot, and, once it has, whether the frame is coded as a key frame and what its payload is. -/
structure EncSub where
  frame : Nat := 0
  deadline : W64 := 0
  slot : Nat := 0
  key : Bool := false
  rung : Nat := 0
  picked : Bool := false
  taken : Bool := false
  asKey : Bool := false
  pay : List Byte := []
  deriving DecidableEq, Repr

/-- A frame that FRAME has claimed a slot for and that no encsub has submitted (R452, R456). -/
structure Claimed where
  slot : Nat := 0
  frame : Nat := 0
  deadline : W64 := 0
  deriving DecidableEq, Repr

/-- A stream (R445 to R456). `frame` counts the FRAMEs begun; `cur` is the current frame, that of the FRAME executed last;
`started` and `headed` tell of it whether it has started and got its head; `judged` tells whether the frame begun last has been
evaluated. -/
structure Stream where
  active : Bool := false
  desc : BitVec 2048 := 0
  tenant : Nat := 0
  frame : Nat := 0
  cur : Option Nat := none
  rung : Nat := 0
  run : Nat := 0
  frung : Nat := 0
  started : Bool := false
  judged : Bool := true
  headed : Bool := true
  late : Bool := false
  drop : Bool := false
  climb : Bool := false
  slack : W64 := 0
  release : W64 := 0
  deadline : W64 := 0
  slot : Nat := 0
  anchors : BitVec 8 := 0
  encoded : W64 := 0
  claimed : List Claimed := []
  fifo : List EncSub := []
  fault : Bool := false
  lastKey : Option Nat := none
  lastW : Nat := 0
  lastH : Nat := 0
  deriving DecidableEq, Repr

/-! ### The fabric -/

/-- A famo or fsig request on its way (R403 to R406): its strand and bundle, its operation, its width in bytes, its
bytes by chip (0 for this chip, else the rank plus one) and address, the pointer and the reference that led there, and their page
kind, or its target word and amount, and its node. -/
structure FabReq where
  isSig : Bool := false
  core : Nat := 0
  strand : Nat := 0
  node : Nat := 0
  tenant : Nat := 0
  op : Nat := 0
  width : Nat := 0
  kind : Nat := 0
  places : List (Nat × Nat) := []
  ptr : W64 := 0
  tref : W64 := 0
  target : W64 := 0
  amount : W64 := 0
  bundle : W64 := 0
  seq : Nat := 0
  dead : Bool := false
  late : Bool := false
  deriving DecidableEq, Repr

/-- A collective that strands of this chip and of others take part in: its key (node, placement, placement strand,
count), the contributions that have arrived by rank, the cause that ends it, and, once a strand of this chip has contributed
(`here`), its core and strand. `half` holds the steps in which parts of its destination were written (R408, R413). -/
structure Coll where
  node : Nat := 0
  place : Nat := 0
  strand : Nat := 0
  k : Nat := 0
  contribs : Map (BitVec 512 × List Byte) := []
  cause : Nat := 0
  here : Bool := false
  core : Nat := 0
  hw : Nat := 0
  half : List Nat := []
  deriving DecidableEq, Repr

/-- A window command on its way to completion (R479): size, rank, id, and the TIME of its receipt. -/
structure WinForm where
  size : Nat := 1
  rank : Nat := 0
  id : Nat := 0
  at_ : W64 := 0
  routes : List Nat := []
  deriving DecidableEq, Repr

/-- The fabric router (R393 to R398). `resps` counts, by requesting rank, the responses that wait for a virtual channel 1 that is
stopped (R397); `slew` is what TIME still has to gain on, or to lose to, that of another member, and `slewAt` counts the counts since
the last that was moved (R8). -/
structure Fabric where
  winId : BitVec 16 := 0
  epoch : BitVec 32 := 0
  formed : Bool := false
  routes : List Nat := []
  down : List Nat := []
  resends : Map Nat := []
  stopped : List (Nat × Nat) := []
  form : Option WinForm := none
  reqs : List FabReq := []
  colls : List Coll := []
  resps : Map Nat := []
  slew : Int := 0
  slewAt : Nat := 0
  deriving DecidableEq, Repr

/-- A node whose termination waits for accesses that have begun: its causes, and the strand that raised them (R232). -/
structure Ending where
  node : Nat
  cause : Nat
  cause2 : Nat
  who : Option (Nat × Nat)
  deriving DecidableEq, Repr

/-! ### The management plane -/

/-- A mailbox of system software: its command area, result area, last sequence number taken, status and busy flag
(R477). -/
structure SysBox where
  cmd : Mem := []
  result : Mem := []
  last : W32 := 0
  status : W64 := 0
  busy : Bool := false
  deriving DecidableEq, Repr

/-- The management plane (R17, R18, R28, R465 to R481). -/
structure Mgmt where
  up : Bool := false
  recovery : Bool := false
  booted : Option Nat := none
  verified : Option Nat := none
  flash : Map (List Byte) := []
  floor : BitVec 32 := 0
  feReady : Bool := false
  dataUp : Bool := false
  loaded : Bool := false
  measures : List (BitVec 384) := []
  keyLog : BitVec 384 := 0
  staging : Mem := []
  report : Mem := []
  host : SysBox := {}
  rbox : SysBox := {}
  mhz : Nat := 600
  softErrors : W64 := 0
  poisonCount : W64 := 0
  snapshot : List W64 := []
  turn : Nat := 63
  deriving DecidableEq, Repr

/-! ### Moves -/

/-- What picks an event of the device: which core, strand, channel, queue, node or line it happens to, and what
arrives from outside the chip. -/
structure Arg where
  core : Nat := 0
  strand : Nat := 0
  ch : Nat := 0
  pos : Nat := 0
  n : Nat := 0
  m : Nat := 0
  k : Nat := 0
  word : W64 := 0
  flag : Bool := false
  bytes : List Byte := []
  nats : List Nat := []
  ints : List Int := []
  mbox : Mailbox := .host
  block : BitVec 2048 := 0
  cache : TCache := .port 48
  ring : RingName := .global 0
  deriving DecidableEq, Repr

/-- One move of the machine: an event of the device, or the turn of the head of a strand's queue. -/
inductive Move where
  | event (i : Instr) (a : Arg)
  | head (core strand : Nat) (q : Unit5)
  deriving DecidableEq, Repr

/-- The instruction in execution: whose it is, its entry, the other instructions of its bundle, the address that
sequential fetch reaches after the bundle, whether the bundle counts in the sync pairing, and whether it has no SEQ
instruction. -/
structure Ctx where
  core : Nat := 0
  strand : Nat := 0
  unit : Unit5 := .seq
  entry : Entry := {}
  rest : List (Unit5 × Entry) := []
  nextPc : W64 := 0
  sync : Bool := false
  bare : Bool := false
  deriving DecidableEq, Repr

/-! ### The machine -/

/-- The whole machine. `paired` holds the sync bundles that issue together in one step (R47). `served` holds, for each unit
that serves its requests of one sclk in a stated order, the sclk and the place of the one served last (R252, R345, R428). `keys` holds the
key slots that are valid: those of the tenants, and at 1024 that of the device key (R26, R469). `checks` holds the check values that
sectors carry where they are not known to be those of their data (R470). -/
structure State where
  agenda : List Move := []
  arg : Arg := {}
  cur : Ctx := {}
  slot : Bool := false
  paired : List Ctx := []
  free : Nat := 0
  cyc : Nat := 0
  time : W64 := 0
  cores : Map Core := []
  groups : Map Group := []
  gddr : Mem := []
  l2 : Map Line := []
  poison : List Nat := []
  peerPoison : List (Nat × Nat) := []
  checks : Map W32 := []
  past : List Past := []
  known : List Known := []
  vows : List Vow := []
  host : Mem := []
  peers : Map Mem := []
  ports : Map (List TEntry) := []
  dirs : Map (BitVec 1024) := []
  keys : Map (BitVec 512) := []
  rank : Nat := 0
  winSize : Nat := 1
  gwait : Map (List Waiter) := []
  increments : List Incr := []
  saved : List SavedGroup := []
  ending : List Ending := []
  bars : Map BarId := []
  barArr : List BarArr := []
  barDue : List BarDue := []
  barClk : Nat := 0
  barCount : Nat := 0
  tmbs : List TmbReq := []
  tinvs : List TInv := []
  peerNoKey : List (Nat × Nat) := []
  unreach : List Nat := []
  blackBox : List BBEvent := []
  bbFrozen : Bool := false
  slices : Map (List Routine) := []
  fe : FrontEnd := {}
  streams : Map Stream := []
  fab : Fabric := {}
  mg : Mgmt := {}
  half : Bool := false
  tick : Nat := 0
  served : Map (Nat × Nat) := []
  deriving DecidableEq, Repr

/-- Why a step stops with a fault. -/
inductive Fault where
  /-- Raised by `step` when the word that a move hands over decodes to no instruction. No state that a run reaches
  has such a word; safe: the machine stops. -/
  | handover
  deriving DecidableEq, Repr

/-- Why a step is refused. -/
inductive Refusal where
  /-- Raised by `exec` for an instruction whose meaning is not modelled; safe: the machine stops. -/
  | notModelled (mnemonic : String)
  deriving DecidableEq, Repr

/-- The outcome of a meaning. -/
abbrev Res := Host.Outcome State Fault Refusal

/-- The machine right after reset. -/
def State.reset : State := {}

end Sys2Proof.Machine
end

