-- ==== Sys2Proof/Machine/Memory.lean ====
section
/-!
DEFINITION. Memory behind the ports: L2 lines over GDDR7, host and peer memory, the tensor directory, the layout map,
tile tables and translation caches (R32, R33, R270 to R282, R343).
-/

namespace Sys2Proof.Machine

/-! ### Lines, sectors and bytes of this chip -/

/-- Bytes of GDDR7 on the module: 384 GB, in powers of 1000 (R3, R15). -/
def gddrSize : Nat := 384 * 10 ^ 9

/-- The management region: the top 128 MiB (R33). -/
def mgmtBase : Nat := gddrSize - 2 ^ 27

/-- Where the handle table stands in the management region (R33, R363; log entry 10). -/
def handleBase : Nat := mgmtBase

/-- Where the tenant records stand in the management region (R33, R478; log entry 10). -/
def tenantBase : Nat := mgmtBase + 2 ^ 26

/-- Byte `i` of a line. -/
def Line.byte (l : Line) (i : Nat) : Byte := l.data.extractLsb' (8 * i) 8

/-- Replace byte `i` of a line's data. -/
def setByte (d : BitVec 2048) (i : Nat) (b : Byte) : BitVec 2048 :=
  (d &&& ~~~((0xFF : BitVec 2048) <<< (8 * i))) ||| ((b.zeroExtend 2048) <<< (8 * i))

/-- Whether a line holds byte `i`: its sector is valid or the byte was written (R343). -/
def Line.holds (l : Line) (i : Nat) : Bool := l.valid.getLsbD (i / 64) || l.mask.getLsbD i

/-- The line at line number `n`, an empty one where L2 holds none. -/
def State.line (s : State) (n : Nat) : Line := Map.get {} s.l2 n

/-- A byte at a device address: from L2 where the line holds it, else from GDDR7 (R343). -/
def State.devGet (s : State) (a : Nat) : Byte :=
  let l := s.line (a / 256)
  if l.holds (a % 256) then l.byte (a % 256) else Mem.get s.gddr a

/-- The home slice of a device address (R342). -/
def sliceOf (a : Nat) : Nat :=
  bitsAt a 8 8 ^^^ bitsAt a 16 8 ^^^ bitsAt a 24 8 ^^^ bitsAt a 32 8 ^^^ bitsAt a 40 8 ^^^ bitsAt a 48 4

/-- The set of a line: number and slice (R342). -/
def setOf (n : Nat) : Nat × Nat := (n % 1024, sliceOf (256 * n))

/-- A line leaves L2; the bytes that it holds are written back (R343). -/
def State.evictLine (s : State) (n : Nat) : State :=
  let l := s.line n
  { s with
    gddr := (List.range 256).foldl (fun g i => if l.holds i then Mem.set g (256 * n + i) (l.byte i) else g) s.gddr
    l2 := Map.erase s.l2 n }

/-- Whether a line may leave L2: it is not pinned, no waiter is parked at a ring in it, and it holds no ring while a pre-emption
is under way (R213, R219, R344). -/
def State.mayEvict (s : State) (n : Nat) : Bool :=
  (s.line n).pins.isEmpty && (Map.get [] s.gwait (256 * n)).isEmpty &&
    (!Map.has s.gwait (256 * n) || (s.saved.isEmpty && s.fe.preempts.isEmpty))

/-- Make room for a line in its set, which has 12 ways (R342; log entry 99). -/
def State.makeRoom (s : State) (n : Nat) : State :=
  if Map.has s.l2 n then s
  else
    let set_ := s.l2.filter fun p => setOf p.1 == setOf n
    if set_.length < 12 then s
    else match set_.find? fun p => s.mayEvict p.1 with
      | none => s
      | some p => s.evictLine p.1

/-- Put a line into L2. -/
def State.putLine (s : State) (n : Nat) (l : Line) : State :=
  let t := s.makeRoom n
  { t with l2 := Map.put t.l2 n l }

/-- Write a byte at a device address: into its line, with its mask bit (R343). -/
def State.devSet (s : State) (a : Nat) (b : Byte) : State :=
  let l := s.line (a / 256)
  s.putLine (a / 256) { l with data := setByte l.data (a % 256) b, mask := l.mask ||| ((1 : BitVec 256) <<< (a % 256)) }

/-! ### Units that serve one sclk's requests in a stated order -/

/-- Whether a unit may still serve a request of this place in the present sclk: none of a later place has been (R252, R345,
R428). -/
def State.mayServe (s : State) (unit place : Nat) : Bool :=
  let p := Map.get (0, 0) s.served unit
  !(decide (p.1 = s.tick) && decide (place < p.2))

/-- A unit serves a request of this place in the present sclk; what it served in earlier ones orders nothing any more. -/
def State.servedAs (s : State) (unit place : Nat) : State :=
  { s with served := Map.put (s.served.filter fun p => decide (p.2.1 = s.tick)) unit (s.tick, place) }

/-- The barrier unit among the units that serve in order (R252). -/
def unitBarrier : Nat := 0
/-- The front end's node table (R428). -/
def unitNodes : Nat := 1
/-- The black-box record (R473). -/
def unitRecord : Nat := 2
/-- The stream controller, for one stream (R454). -/
def unitStream (n : Nat) : Nat := 3 + n
/-- The port of an L2 slice (R345). -/
def unitSlice (k : Nat) : Nat := 67 + k

/-! ### The black-box record -/

/-- An event as it stands in the record: 32 bytes (R472). -/
def BBEvent.word (e : BBEvent) : BitVec 256 :=
  BitVec.ofNat 256 (e.time.toNat + 2 ^ 64 * e.kind.toNat + 2 ^ 72 * e.cause.toNat + 2 ^ 80 * e.tenant.toNat + 2 ^ 90 * e.core.toNat +
    2 ^ 128 * e.data.toNat)

/-- Write an event to the black-box record, which holds the last 4096 and takes none while frozen; one that comes in the sclk of the
fatal event goes before it (R472, R473). -/
def State.bbEvent (s : State) (kind cause tenant core : Nat) (data : BitVec 128) : State :=
  let e : BBEvent :=
    { time := s.time, kind := BitVec.ofNat 8 kind, cause := BitVec.ofNat 8 cause, tenant := BitVec.ofNat 10 tenant, core := BitVec.ofNat 10 core, data := data }
  let put := fun (l : List BBEvent) => l.drop (l.length - 4096)
  if !s.bbFrozen then { s with blackBox := put (s.blackBox ++ [e]) }
  else if s.mayServe unitRecord 0 then s
  else { s with blackBox := put (s.blackBox.dropLast ++ e :: s.blackBox.getLast?.toList) }

/-! ### Check values and poison marks -/

/-- The check value that belongs to the data of sector `n` of this chip (R34, R470). -/
def State.sectorCheck (s : State) (n : Nat) : W32 := crc32c ((List.range 64).map fun i => s.devGet (64 * n + i))

/-- A sector is marked poisoned: counted once, and recorded (R471, R476). -/
def State.markPoison (s : State) (n : Nat) : State :=
  let known := s.poison.contains n
  State.bbEvent
    { s with
      poison := if known then s.poison else s.poison ++ [n]
      checks := Map.erase s.checks n
      mg := { s.mg with poisonCount := if known then s.mg.poisonCount else s.mg.poisonCount + 1 } } 4 0xA6 0 0 (BitVec.ofNat 128 (64 * n))

/-- The check value that a sector carries is checked: one that is not that of its data marks it poisoned (R470, R471). -/
def State.verifySector (s : State) (n : Nat) : State :=
  if Map.has s.checks n && Map.get 0 s.checks n != s.sectorCheck n then s.markPoison n else s

/-- A list without the repeats that follow at once on what they repeat; `last` is the number before it. -/
def noRuns (last : Option Nat) : List Nat → List Nat
  | [] => []
  | n :: l => if last = some n then noRuns last l else n :: noRuns (some n) l

/-- The check values of the sectors of places are checked: at an exit through the host link or the fabric, and at a read of an engine
(R470). -/
def State.verify (s : State) (ls : List Loc) : State :=
  if s.checks.isEmpty then s
  else (noRuns none ((ls.filter fun l => match l with
    | .dev _ => true
    | _ => false).map fun l => match l with
      | .dev a => a / 64
      | _ => 0)).foldl State.verifySector s

/-! ### Sectors -/

/-- The bytes of a sector that are not masked, merged from GDDR7: `i` is the byte in the line, counting down. -/
def mergeSector (g : Mem) (base : Nat) (mask : BitVec 256) (lo : Nat) : Nat → BitVec 2048 → BitVec 2048
  | 0, d => d
  | n + 1, d =>
    let i := lo + n
    mergeSector g base mask lo n (if mask.getLsbD i then d else setByte d i (Mem.get g (base + i)))

/-- Fill one sector that is not valid: fetch it, check it, merge under the write mask, set it valid (R343, R470). -/
def State.fillSector (s : State) (sector : Nat) : State :=
  let n := sector / 4
  let q := sector % 4
  let l := s.line n
  if l.valid.getLsbD q then s
  else
    (s.verifySector sector).putLine n { l with
      data := mergeSector s.gddr (256 * n) l.mask (64 * q) 64 l.data
      valid := l.valid ||| ((1 : BitVec 4) <<< q) }

/-- Fill `k` sectors from a sector up. -/
def State.fillSectors (s : State) (sector : Nat) : Nat → State
  | 0 => s
  | k + 1 => State.fillSectors (s.fillSector sector) (sector + 1) k

/-- Whether a sector of this chip is marked poisoned (R471). -/
def State.poisoned (s : State) (a : Nat) : Bool := s.poison.contains (a / 64)

/-- The sectors that ascending runs of addresses cover whole; `run` counts the addresses of the present run in its sector,
`next` is the address that would continue it. -/
def wholeSectors (next run : Nat) : List Nat → List Nat
  | [] => []
  | a :: as =>
    let n := if a % 64 = 0 then 1 else if a = next && run ≠ 0 then run + 1 else 0
    if n = 64 then a / 64 :: wholeSectors (a + 1) n as else wholeSectors (a + 1) n as

/-- A sector has been written whole: it is valid, its check value is made anew, and its poison mark is dropped (R343, R470, R471). -/
def State.wroteSector (s : State) (q : Nat) : State :=
  let l := s.line (q / 4)
  { s with
    poison := s.poison.filter fun p => p != q
    checks := Map.erase s.checks q
    l2 := if l.mask.extractLsb' (64 * (q % 4)) 64 = BitVec.allOnes 64 then
        Map.put s.l2 (q / 4) { l with valid := l.valid ||| ((1 : BitVec 4) <<< (q % 4)) }
      else s.l2 }

/-- Read a little-endian number of `n` bytes at a device address: a structure access (R33). -/
def State.devRead (s : State) (a n : Nat) : Nat :=
  leNat ((List.range n).map fun i => s.devGet (a + i))

/-- A structure of `n` bytes at a device address is read: sectors that are not valid are fetched (R33, R343). -/
def State.devTouch (s : State) (a n : Nat) : State := s.fillSectors (a / 64) ((a + n - 1) / 64 + 1 - a / 64)

/-- Write bytes at a device address. -/
def State.devWrite (s : State) (a : Nat) : List Byte → State
  | [] => s
  | b :: bs => State.devWrite (s.devSet a b) (a + 1) bs

/-! ### Places -/

/-- The place `n` bytes further. -/
def Loc.plus : Loc → Nat → Loc
  | .dev a, n => .dev (a + n)
  | .host a, n => .host (a + n)
  | .peer c a, n => .peer c (a + n)
  | .sp c a, n => .sp c (a + n)

/-- Whether a place is homed in this chip's GDDR7. -/
def Loc.isDev : Loc → Bool
  | .dev _ => true
  | _ => false

/-- The device address of a place of this chip. -/
def Loc.addr : Loc → Nat
  | .dev a => a
  | .host a => a
  | .peer _ a => a
  | .sp _ a => a

/-- Read a byte. -/
def State.locGet (s : State) : Loc → Byte
  | .dev a => s.devGet a
  | .host a => Mem.get s.host a
  | .peer c a => Mem.get (Map.get [] s.peers c) a
  | .sp c a => Mem.get (Map.get {} s.cores c).sp a

/-- Bytes of a window, with stored bytes laid over them: what is stored later hides what stood before (R98). -/
def SpWindow.over (w : SpWindow) (a : Nat) (bs : List Byte) : SpWindow :=
  { w with old := w.old.zipIdx.map fun p => if a ≤ w.lo + p.2 then bs.getD (w.lo + p.2 - a) p.1 else p.1 }

/-- Store bytes in a core's scratchpad. -/
def Core.spStore (k : Core) (a : Nat) (bs : List Byte) : Core :=
  { k with sp := Mem.write k.sp a bs, spWin := k.spWin.map fun w => w.over a bs }

/-- The elements of a window that a read in the step of counter `free` still sees as before it. -/
def SpWindow.seen (w : SpWindow) (free : Nat) (m : Mem) : Mem :=
  w.old.zipIdx.foldl (fun m p => if Config.freeElem free (w.lo + p.2 / w.size) then Mem.set m (w.lo + p.2) p.1 else m) m

/-- A core as a read of its scratchpad sees it: inside the window of an acst, each element is the old or the new one
(R103, R320). -/
def Core.view (k : Core) (free cyc : Nat) : Core :=
  { k with sp := (k.spWin.filter fun w => decide (cyc < w.until_)).foldl (fun m w => w.seen free m) k.sp }

/-- Write a byte. -/
def State.locSet (s : State) (l : Loc) (b : Byte) : State :=
  match l with
  | .dev a => s.devSet a b
  | .host a => { s with host := Mem.set s.host a b }
  | .peer c a => { s with peers := Map.put s.peers c (Mem.set (Map.get [] s.peers c) a b) }
  | .sp c a => { s with cores := Map.put s.cores c ((Map.get {} s.cores c).spStore a [b]) }

/-- The 4-byte element that a place lies in; none in a scratchpad. -/
def Loc.elem4 : Loc → Option Loc
  | .dev a => some (.dev (a / 4 * 4))
  | .host a => some (.host (a / 4 * 4))
  | .peer c a => some (.peer c (a / 4 * 4))
  | .sp _ _ => none

/-- Each place of a list that differs from the one before it. -/
def dropRuns (last : Option Loc) : List (Option Loc) → List Loc
  | [] => []
  | none :: ls => dropRuns last ls
  | some l :: ls => if last = some l then dropRuns last ls else l :: dropRuns (some l) ls

/-- Whether some core holds a placement, or one is saved. -/
def State.anyPlaced (s : State) : Bool := !s.saved.isEmpty || s.cores.any fun p => p.2.place.isSome

/-- The elements that writes replace, as they stand before them; nothing while there is no placement (R40, R116). -/
def State.pastOf (s : State) (ws : List (Loc × Byte)) (who : Option (Nat × Nat × Nat)) : List Past :=
  if !s.anyPlaced then []
  else
    let whole := decide (ws.length = 64) && match ws with
      | p :: _ => decide (p.1.addr % 64 = 0) && (List.range 64).all fun i => (ws[i]?).map Prod.fst == some (p.1.plus i)
      | [] => false
    (dropRuns none (ws.map fun p => p.1.elem4)).map fun l =>
      { loc := l, old := w32 (leNat ((List.range 4).map fun i => s.locGet (l.plus i))), stamp := s.free, who := who, whole := whole }

/-- The elements that a write of a whole line replaces, of each of its sectors that it changes (R40, R116). -/
def State.pastOfLine (s : State) (n : Nat) (bs : List Byte) : List Past :=
  if !s.anyPlaced then []
  else
    let l := s.line n
    let g := s.gddr.filter fun c => c.1 / 256 = n
    let old := (List.range 256).map fun i => if l.holds i then l.byte i else Mem.get g (256 * n + i)
    (List.range 4).flatMap fun q =>
      let o := (old.drop (64 * q)).take 64
      if o = (bs.drop (64 * q)).take 64 then []
      else (List.range 16).map fun k =>
        { loc := .dev (256 * n + 64 * q + 4 * k), old := w32 (leNat ((o.drop (4 * k)).take 4)), stamp := s.free, whole := true }

/-- What writes cover whole of a sector of a peer chip that was poisoned drops its mark (R471). -/
def State.wrotePeers (s : State) (ws : List (Loc × Byte)) : State :=
  if s.peerPoison.isEmpty then s
  else
    let to_ := fun (c : Nat) => wholeSectors 0 0 (ws.filterMap fun p => match p.1 with
      | .peer k a => if k = c then some a else none
      | _ => none)
    { s with peerPoison := s.peerPoison.filter fun q => !(to_ q.1).contains q.2 }

/-- What is written by an engine covers whole sectors: those of this chip are valid, and poison marks drop (R343, R471). -/
def State.wroteWhole (s : State) (ws : List (Loc × Byte)) : State :=
  (wholeSectors 0 0 ((ws.filter fun p => p.1.isDev).map fun p => p.1.addr)).foldl State.wroteSector (s.wrotePeers ws)

/-- Write bytes at places, in order. `who` is the strand that stores them, where one does; what an engine or a port
writes that covers a whole sector of this chip makes it valid (R343). -/
def State.locWrites (s : State) (ws : List (Loc × Byte)) (who : Option (Nat × Nat × Nat) := none) : State :=
  let t := ws.foldl (fun s p => s.locSet p.1 p.2) s
  let u := if who.isSome then t else t.wroteWhole ws
  { u with past := s.pastOf ws who ++ s.past }

/-- Read `n` bytes from a place up. -/
def State.locRead (s : State) (l : Loc) (n : Nat) : List Byte := (List.range n).map fun i => s.locGet (l.plus i)

/-- Whether a read of this place meets a poison mark (R471). -/
def State.locPoisoned (s : State) : Loc → Bool
  | .dev a => s.poisoned a
  | .peer c a => s.peerPoison.contains (c, a / 64)
  | _ => false

/-- Why an access performed on a peer chip fails there: its path is down, or the tenant has no valid key at home; cause
and value of the report (R399, R416). -/
def State.peerFault (s : State) (tenant : Nat) : Loc → Option (Nat × W64)
  | .peer c _ => if s.unreach.contains c then some (0x86, 0) else if s.peerNoKey.contains (c, tenant) then some (0x87, 0x2A) else none
  | _ => none

/-- The fills that reads of these places make in L2 (R343). -/
def State.touch (s : State) (ls : List Loc) : State :=
  (noRuns none ((ls.filter Loc.isDev).map fun l => l.addr / 64)).foldl State.fillSector s

/-! ### The order of one sclk at a slice (R345) -/

/-- The lines of L2 that places lie in. -/
def linesOf (ls : List Loc) : List Nat := noRuns none ((ls.filter Loc.isDev).map fun l => l.addr / 256)

/-- Whether an access has to wait for the next sclk: a later place in the order of this sclk has been served at one of its lines (R345). -/
def State.sliceHeld (s : State) (rank : Nat) (ls : List Loc) : Bool := (linesOf ls).any fun n => !s.mayServe (unitSlice n) rank

/-- Slices serve an access to lines (R345). -/
def State.sliceServed (s : State) (rank : Nat) (ls : List Loc) : State := (linesOf ls).foldl (fun s n => s.servedAs (unitSlice n) rank) s

/-- The place of engines in the order of one sclk at a slice: after every strand. Their ports have no numbers that the spec gives; among
themselves they are served as they come (R345; log entry 112). -/
def engineRank : Nat := 4096

/-- Slices serve accesses of an engine (R345). -/
def State.engineServed (s : State) (ls : List Loc) : State := s.sliceServed engineRank ls

/-! ### Tenants, the directory and layouts -/

/-- Whether the device key is loaded, in the key slot beyond those of the tenants (R469). -/
def State.deviceKey (s : State) : Bool := Map.has s.keys 1024

/-- Bits of a tenant's record, by byte offset and byte count (R478). -/
def State.tenantField (s : State) (tenant off n : Nat) : Nat := s.devRead (tenantBase + 64 * tenant + off) n

/-- Whether a tenant's record is valid (R478). -/
def State.tenantValid (s : State) (tenant : Nat) : Bool := decide (s.tenantField tenant 0 1 % 2 = 1)

/-- One dimension record (R271). -/
structure Dim where
  extent : Nat
  tshift : Nat
  modulus : Nat
  stride : Nat
  deriving DecidableEq, Repr

/-- A layout descriptor, resolved from its directory entry (R271). -/
structure Desc where
  tenant : Nat
  index : Nat
  gen : Nat
  esize : Nat
  fsize : Nat
  ttbase : Nat
  cwbase : Nat
  ntiles : Nat
  dims : List Dim
  deriving DecidableEq, Repr

/-- Dimension record `k` of a directory entry (R271). -/
def dimOf (e : Nat) (k : Nat) : Dim :=
  let b := 256 + 128 * k
  { extent := bitsAt e b 32, tshift := bitsAt e (b + 32) 5, modulus := bitsAt e (b + 40) 24
    stride := bitsAt e (b + 64) 32 }

/-- The rank of a directory entry (R271). -/
def rankOf (e : Nat) : Nat := bitsAt e 3 3 + 1

/-- Whether dimension record `k` is well formed (R271). -/
def dimOk (e k : Nat) : Bool :=
  let b := 256 + 128 * k
  let d := dimOf e k
  decide (1 ≤ d.extent) && decide (d.tshift ≤ 16) && decide (bitsAt e (b + 37) 3 = 0) &&
    decide (bitsAt e (b + 96) 32 = 0) && (d.modulus == 0 || (decide (d.modulus % 2 ^ d.tshift = 0) && decide (d.modulus ≤ d.extent)))

/-- Whether a valid directory entry is a well-formed layout of a tenant's tensor (R271). -/
def layoutOk (e tenant : Nat) : Bool :=
  let n := rankOf e
  decide (bitsAt e 0 3 ≤ 3) && decide (n ≤ 5) && decide (bitsAt e 6 3 ≤ 4) &&
    decide (bitsAt e 64 12 = 0) && decide (bitsAt e 128 12 = 0) && (List.range n).all (dimOk e) &&
    decide (bitsAt e 0 3 + ((List.range n).map fun k => (dimOf e k).tshift).sum = 12 + bitsAt e 6 3) &&
    decide (bitsAt e 34 30 = 0) && decide (bitsAt e 224 32 = 0) && decide (bitsAt e 24 10 = tenant) &&
    decide (bitsAt e 896 128 = 0)

/-- The key of a directory entry among those that layout units hold. -/
def dirKey (tenant index : Nat) : Nat := tenant * 2 ^ 20 + index

/-- A directory entry as layout units see it: a valid one that a walk has used stands until it is invalidated (R270). -/
def State.dirEntry (s : State) (tenant index : Nat) : Nat :=
  if Map.has s.dirs (dirKey tenant index) then (Map.get 0 s.dirs (dirKey tenant index)).toNat
  else s.devRead (s.tenantField tenant 8 8 + 128 * index) 128

/-- A walk that finds a resident, valid tile keeps the directory entry of its tensor: of the reads of valid entries, which layout units
may cache, the model's choice (R270; log entry 92). -/
def State.keepDir (s : State) (tenant index : Nat) : State :=
  if Map.has s.dirs (dirKey tenant index) then s
  else { s with dirs := Map.put s.dirs (dirKey tenant index) (BitVec.ofNat 1024 (s.dirEntry tenant index)) }

/-- Check a tensor reference for a tenant and read its layout (R270, R271); the error is the cause, 0x2A where a structure cannot be
read for want of a key (R33; log entry 104). A tenant whose record is not valid owns no tensor (R478; log entry 115). -/
def State.desc (s : State) (tenant : Nat) (ref : W64) : Except Nat Desc :=
  let r := ref.toNat
  let index := bitsAt r 0 20
  let gen := bitsAt r 30 14
  if bitsAt r 44 20 ≠ 0 || bitsAt r 20 10 ≠ tenant || index = 0 then .error 0x25
  else if !s.deviceKey then .error 0x2A
  else if !s.tenantValid tenant || s.tenantField tenant 16 8 % 2 ^ 21 ≤ index then .error 0x25
  else if !Map.has s.dirs (dirKey tenant index) && !Map.has s.keys tenant then .error 0x2A
  else
    let e := s.dirEntry tenant index
    if bitsAt e 9 1 = 0 || bitsAt e 10 14 ≠ gen then .error 0x25
    else if !layoutOk e tenant then .error 0x26
    else .ok { tenant := tenant, index := index, gen := gen, esize := bitsAt e 0 3, fsize := bitsAt e 6 3
               ttbase := bitsAt e 64 64, cwbase := bitsAt e 128 64, ntiles := bitsAt e 192 32
               dims := (List.range (rankOf e)).map (dimOf e) }

/-- Bytes of an element. -/
def Desc.ebytes (d : Desc) : Nat := 2 ^ d.esize

/-- Whether a tensor is one-dimensional with 1-byte elements (R204). -/
def Desc.flat (d : Desc) : Bool := decide (d.esize = 0) && decide (d.dims.length = 1)

/-- The layout map over dimensions and coordinates, highest dimension last: tile number, offset in elements, and the
product of the tile extents so far (R272). -/
def mapDims : List Dim → List Int → Nat → Option (Nat × Nat)
  | [], _, _ => some (0, 0)
  | d :: ds, cs, w =>
    let c := cs.headD 0
    match (if d.modulus ≠ 0 then c % (d.modulus : Int) else c) with
    | .negSucc _ => none
    | .ofNat n =>
      if d.extent ≤ n then none
      else
        match mapDims ds cs.tail (w * 2 ^ d.tshift) with
        | none => none
        | some (t, o) => some (t + n / 2 ^ d.tshift * d.stride, o + n % 2 ^ d.tshift * w)

/-- Tile number and byte offset in the frame of an element; none where it is out of bounds (R272). -/
def Desc.map (d : Desc) (cs : List Int) : Option (Nat × Nat) :=
  match mapDims d.dims cs 1 with
  | none => none
  | some (t, o) => if t < d.ntiles then some (t, o * 2 ^ d.esize) else none

/-! ### Tile tables and translation caches -/

/-- A tile-table entry is resident (R274). -/
def entResident (e : W64) : Bool := e.getLsbD 0
/-- A tile-table entry permits stores (R274). -/
def entWritable (e : W64) : Bool := e.getLsbD 1
/-- A tile-table entry's dirty bit (R274). -/
def entDirty (e : W64) : Bool := e.getLsbD 14
/-- A tile-table entry's frame address (R274). -/
def entFrame (e : W64) : Nat := bitsAt e.toNat 24 40 * 4096
/-- A tile-table entry's space (R274). -/
def entSpace (e : W64) : Nat := bitsAt e.toNat 16 2
/-- A tile-table entry's page kind (R274). -/
def entKind (e : W64) : Nat := bitsAt e.toNat 2 2

/-- Whether a tile-table entry names this chip's GDDR7: space 00, or space 10 with the own rank (R274). -/
def State.entHere (s : State) (e : W64) : Bool :=
  decide (entSpace e = 0) || (decide (entSpace e = 2) && decide (bitsAt e.toNat 18 6 = s.rank))

/-- A resident entry is valid (R275, and the management region of R33). -/
def State.entOk (s : State) (d : Desc) (e : W64) : Bool :=
  !e.getLsbD 15 && decide (entKind e ≠ 3) && decide (entSpace e ≠ 3) && decide (entFrame e % 2 ^ (12 + d.fsize) = 0) &&
    !(decide (entSpace e = 2) && decide (s.winSize ≤ bitsAt e.toNat 18 6)) &&
    !(s.entHere e && decide (mgmtBase < entFrame e + 2 ^ (12 + d.fsize)))

/-- The key check of R276. -/
def State.keyOk (s : State) (d : Desc) (e : W64) : Bool :=
  decide (entSpace e ≠ 0) || (Map.has s.keys (bitsAt e.toNat 4 10) && decide (bitsAt e.toNat 4 10 = d.tenant))

/-- The place of an offset in a frame (R274). -/
def State.place (s : State) (e : W64) (off : Nat) : Loc :=
  let a := entFrame e + off
  match entSpace e with
  | 0 => .dev a
  | 1 => .host a
  | _ => let c := bitsAt e.toNat 18 6; if c = s.rank then .dev a else .peer c a

/-- The tile-table entry in memory (R275). -/
def State.entry (s : State) (d : Desc) (tile : Nat) : W64 := w64 (s.devRead (d.ttbase + 8 * tile) 8)

/-- The translations that a cache holds. -/
def State.tcache (s : State) : TCache → List TEntry
  | .group g => (Map.get {} s.groups g).tcache
  | .port n => Map.get [] s.ports n
  | .memory => []

/-- Replace the translations that a cache holds. -/
def State.setTcache (s : State) (c : TCache) (l : List TEntry) : State :=
  match c with
  | .group g => { s with groups := Map.put s.groups g { Map.get {} s.groups g with tcache := l } }
  | .port n => { s with ports := Map.put s.ports n l }
  | .memory => s

/-- Entries of a cache (R282). -/
def TCache.size : TCache → Nat
  | .group _ => 4096
  | _ => 1024

/-- Whether a cached translation is that of a tile. -/
def TEntry.is (t : TEntry) (d : Desc) (tile : Nat) : Bool :=
  t.tenant == d.tenant && t.index == d.index && t.gen == d.gen && t.tile == tile

/-- Whether a walk would give the translation of a tile that every memory port which holds one holds. -/
def State.portsAgree (s : State) (d : Desc) (tile : Nat) : Bool :=
  s.ports.all fun p => p.2.all fun t =>
    !t.is d tile || (t.entry == s.entry d tile && Map.has s.keys d.tenant && entResident t.entry && s.entOk d t.entry)

/-- The cache that serves an access to a tile: of the GDDR7 channels' ports a free choice names one where it matters, that is where a
port holds a translation that a walk would not give (R32, R282; log entry 97). -/
def State.cacheOf (s : State) (d : Desc) (tile : Nat) : TCache → TCache
  | .memory => .port (if s.portsAgree d tile then 0 else Config.freePort s.free tile % 48)
  | c => c

/-- Drop a tile's translation from a cache. -/
def State.dropT (s : State) (c : TCache) (d : Desc) (tile : Nat) : State :=
  s.setTcache c ((s.tcache c).filter fun t => !t.is d tile)

/-- Install a translation, in place of the oldest one of a full cache (R282). -/
def State.installT (s : State) (c : TCache) (d : Desc) (tile : Nat) (e : W64) : State :=
  s.setTcache c (({ tenant := d.tenant, index := d.index, gen := d.gen, tile := tile, entry := e }
    :: (s.tcache c).filter fun t => !t.is d tile).take c.size)

/-- Set the accessed bit of a walk for a group's cache (R281). -/
def State.accessed (s : State) (c : TCache) (d : Desc) (tile : Nat) : State :=
  match c with
  | .group g =>
    let a := d.cwbase + 8 * tile + g / 8
    s.devSet a (s.devGet a ||| ((1 : Byte) <<< (g % 8)))
  | _ => s

/-- A walk: the tenant's record, the directory entry and the tile's entry read, the checks of a resident one, the accessed bit and the installation (R275, R278, R281, R343).
`none` is a tile that is not resident. -/
def State.walk (s : State) (c : TCache) (d : Desc) (tile : Nat) : Except Nat (Option W64) × State :=
  if !Map.has s.keys d.tenant then (.error 0x2A, s)
  else
    let e := s.entry d tile
    let s1 := s.devTouch (tenantBase + 64 * d.tenant) 64
    let s2 := if Map.has s.dirs (dirKey d.tenant d.index) then s1 else s1.devTouch (s.tenantField d.tenant 8 8 + 128 * d.index) 128
    let t := s2.devTouch (d.ttbase + 8 * tile) 8
    if !entResident e then (.ok none, t)
    else if !s.entOk d e then (.error 0x2B, t)
    else (.ok (some e), ((t.keepDir d.tenant d.index).accessed c d tile).installT c d tile e)

/-- The translation that an access uses before its permission is judged: the cached one, or that of a walk. A cache
may have evicted an entry at any time (R282): where the cached entry and memory differ, a free choice decides. -/
def State.cached (s : State) (c : TCache) (d : Desc) (tile : Nat) : Except Nat (Option W64) × State :=
  match (s.tcache c).find? fun t => t.is d tile with
  | none => s.walk c d tile
  | some t =>
    if s.entry d tile = t.entry || !Config.freeEvict s.free tile then (.ok (some t.entry), s)
    else (s.dropT c d tile).walk c d tile

/-- Set the dirty bit of a tile's entry at its home (R277). -/
def State.dirtyHome (s : State) (d : Desc) (tile : Nat) : State :=
  let a := d.ttbase + 8 * tile + 1
  s.devSet a (s.devGet a ||| 0x40)

/-- The first store through an entry whose dirty bit is 0, as cached, sets it at its home (R277). -/
def State.dirty (s : State) (c : TCache) (d : Desc) (tile : Nat) (e : W64) : State :=
  if entDirty e then s else (s.dirtyHome d tile).installT c d tile (e ||| 0x4000)

/-- A store to a tile is performed: the first one through its entry sets the dirty bit; where the cache no longer holds the entry, that
installs none (R277, R278). -/
def State.storedTile (s : State) (c : TCache) (d : Desc) (tile : Nat) : State :=
  let c' := s.cacheOf d tile c
  match (s.tcache c').find? fun t => t.is d tile with
  | some t => s.dirty c' d tile t.entry
  | none => if entDirty (s.entry d tile) then s else s.dirtyHome d tile

/-- Stores to elements are performed (R277). -/
def State.stored (s : State) (c : TCache) (d : Desc) (css : List (List Int)) : State :=
  ((css.filterMap d.map).map Prod.fst).eraseDups.foldl (fun s k => s.storedTile c d k) s

/-- The entry that an access to a tile uses, or the cause it raises: residency, the entry's checks, the key and, for
a store, permission after one re-walk (R276 to R279, R289). `none`: not resident. -/
def State.tile (s : State) (ca : TCache) (d : Desc) (tile : Nat) (store : Bool) : Except Nat (Option W64) × State :=
  let c := s.cacheOf d tile ca
  match s.cached c d tile with
  | (.error k, t) => (.error k, t)
  | (.ok none, t) => (.ok none, t)
  | (.ok (some e), t) =>
    if !t.keyOk d e then (.error 0x2A, t)
    else if !store || entWritable e then (.ok (some e), t)
    else
      match (t.dropT c d tile).walk c d tile with
      | (.error k, u) => (.error k, u)
      | (.ok none, u) => (.error 0x28, u)
      | (.ok (some e'), u) =>
        if !u.keyOk d e' then (.error 0x2A, u)
        else if entWritable e' then (.ok (some e'), u)
        else (.error 0x29, u)

/-- What one element of an access meets. -/
inductive Hit where
  | oob
  | absent
  | at (l : Loc)
  | fault (cause : Nat)
  deriving DecidableEq, Repr

/-- One element of a tensor: bounds, then its tile (R272, R278, R289). -/
def State.elem (s : State) (c : TCache) (d : Desc) (cs : List Int) (store : Bool) : Hit × State :=
  match d.map cs with
  | none => (.oob, s)
  | some (tile, off) =>
    match s.tile c d tile store with
    | (.error k, t) => (.fault k, t)
    | (.ok none, t) => (.absent, t)
    | (.ok (some e), t) => (.at (t.place e off), t)

/-- Consecutive elements along dimension 0, each mapped separately; an element that is not wanted is not accessed, and
a tile met again keeps the answer it gave (R205, R272). -/
def State.elems (s : State) (c : TCache) (d : Desc) (store : Bool) :
    List Bool → List Int → Option (Nat × Except Nat (Option W64)) → List Hit × State
  | [], _, _ => ([], s)
  | want :: ws, cs, last =>
    let next := (cs.headD 0 + 1) :: cs.tail
    match (if want then d.map cs else none) with
    | none => let (l, t) := State.elems s c d store ws next last; (.oob :: l, t)
    | some (tile, off) =>
      let (r, s1) := match last with
        | some (k, r) => if k = tile then (r, s) else s.tile c d tile store
        | none => s.tile c d tile store
      let h := match r with
        | .error k => Hit.fault k
        | .ok none => .absent
        | .ok (some e) => .at (s1.place e off)
      let (l, t) := State.elems s1 c d store ws next (some (tile, r))
      (h :: l, t)

/-- The first cause among hits, in the order of R289. -/
def firstFault (hs : List Hit) : Option Nat :=
  let ks := hs.filterMap fun h => match h with
    | .fault k => some k
    | _ => none
  ([0x25, 0x26, 0x27, 0x28, 0x2B, 0x2A, 0x29] : List Nat).find? fun k => ks.contains k

/-- `n` bytes of a one-dimensional byte tensor from a coordinate up, for a flat-pointer form: the bound and residency
are causes (R204, R273, R278, R289). -/
def State.flatBytes (s : State) (c : TCache) (tenant : Nat) (ref : W64) (coord : Int) (n : Nat) (store : Bool) :
    Except Nat (List Loc) × State :=
  match s.desc tenant ref with
  | .error k => (.error k, s)
  | .ok d =>
    if !d.flat then (.error 0x23, s)
    else
      let (hs, t) := s.elems c d store (List.replicate n true) [coord] none
      match firstFault (hs.map fun h => match h with
        | .oob => .fault 0x27
        | .absent => .fault 0x28
        | y => y) with
      | some k => (.error k, t)
      | none => (.ok (hs.filterMap fun h => match h with
        | .at l => some l
        | _ => none), t)

/-- Stores of `n` bytes of a one-dimensional byte tensor from a coordinate up are performed (R277). -/
def State.flatStored (s : State) (c : TCache) (tenant : Nat) (ref : W64) (coord : Int) (n : Nat) : State :=
  match s.desc tenant ref with
  | .error _ => s
  | .ok d => s.stored c d ((List.range n).map fun (i : Nat) => [coord + (i : Int)])

/-! ### Values that an element has held (R40, R116) -/

/-- The replaced values of an element since a step, the newest first. -/
def State.pasts (s : State) (l : Loc) (since : Nat) : List Past := s.past.filter fun p => p.loc == l && decide (since ≤ p.stamp)

/-- The value that a free choice picks among the present one and replaced ones. -/
def pickPast (n : Nat) (now : W32) : List W32 → W32
  | [] => now
  | olds => (now :: olds).getD (n % (olds.length + 1)) now

end Sys2Proof.Machine
end

