-- ==== Sys2Proof/Machine/Ops.lean ====
section
/-!
DEFINITION. The named operations over strands and cores: registers, queues and tokens, issue, and taking an exception
and returning from one (R48, R128 to R134, R223 to R235, R244).
-/

namespace Sys2Proof.Machine

/-! ### Cores and strands -/

/-- A core, by number. -/
def State.core (s : State) (c : Nat) : Core := Map.get {} s.cores c

/-- Replace a core. -/
def State.setCore (s : State) (c : Nat) (k : Core) : State := { s with cores := Map.put s.cores c k }

/-- Change a core. -/
def State.modCore (s : State) (c : Nat) (f : Core → Core) : State := s.setCore c (f (s.core c))

/-- A strand of a core. -/
def Core.strand (k : Core) (h : Nat) : Strand := Map.get {} k.strands h

/-- Replace a strand of a core. -/
def Core.setStrand (k : Core) (h : Nat) (st : Strand) : Core := { k with strands := Map.put k.strands h st }

/-- A strand, by core and hardware strand. -/
def State.strand (s : State) (c h : Nat) : Strand := (s.core c).strand h

/-- Replace a strand. -/
def State.setStrand (s : State) (c h : Nat) (st : Strand) : State := s.modCore c fun k => k.setStrand h st

/-- Change a strand. -/
def State.modStrand (s : State) (c h : Nat) (f : Strand → Strand) : State := s.setStrand c h (f (s.strand c h))

/-- A core group. -/
def State.group (s : State) (g : Nat) : Group := Map.get {} s.groups g

/-- Change a core group. -/
def State.modGroup (s : State) (g : Nat) (f : Group → Group) : State :=
  { s with groups := Map.put s.groups g (f (s.group g)) }

/-- The strand whose instruction executes. -/
def State.me (s : State) : Strand := s.strand s.cur.core s.cur.strand

/-- Change the strand whose instruction executes. -/
def State.modMe (s : State) (f : Strand → Strand) : State := s.modStrand s.cur.core s.cur.strand f

/-- The core whose instruction executes. -/
def State.myCore (s : State) : Core := s.core s.cur.core

/-- Change the core whose instruction executes. -/
def State.modMyCore (s : State) (f : Core → Core) : State := s.modCore s.cur.core f

/-- The placement of a core, an empty one where it holds none. -/
def State.placement (s : State) (c : Nat) : Placement := (s.core c).place.getD {}

/-- The placement of the executing core. -/
def State.myPlace (s : State) : Placement := s.placement s.cur.core

/-- The core group of a core (R16). -/
def groupOf (c : Nat) : Nat := c / 16

/-- The translation cache of a core's group (R282). -/
def tcOf (c : Nat) : TCache := .group (groupOf c)

/-- The clock count as software reads it (R7). -/
def State.cyc64 (s : State) : W64 := w64 s.cyc

/-! ### Registers -/

/-- Read a scalar register: x0 reads 0 (R52). -/
def Strand.rx (st : Strand) (r : Nat) : W64 := if r = 0 then 0 else Map.get 0 st.x r

/-- Write a scalar register: a write to x0 is discarded (R52). -/
def Strand.wx (st : Strand) (r : Nat) (v : W64) : Strand := if r = 0 then st else { st with x := Map.put st.x r v }

/-- Read a mask: m0 reads all ones (R52, R179). -/
def Strand.rm (st : Strand) (r : Nat) : W64 := if r = 0 then BitVec.allOnes 64 else Map.get 0 st.m r

/-- Write a mask: m0 is fixed (R126). -/
def Strand.wm (st : Strand) (r : Nat) (v : W64) : Strand := if r = 0 then st else { st with m := Map.put st.m r v }

/-- Read a vector register. -/
def Strand.rv (st : Strand) (r : Nat) : BitVec 2048 := Map.get 0 st.v r

/-- Write a vector register. -/
def Strand.wv (st : Strand) (r : Nat) (v : BitVec 2048) : Strand := { st with v := Map.put st.v r v }

/-- Read an event counter (R136). -/
def Strand.re (st : Strand) (n : Nat) : BitVec 16 := Map.get 0 st.e n

/-- Read an event counter as it stood at the start of the clk (R136). -/
def Strand.re0 (st : Strand) (n : Nat) : BitVec 16 := Map.get 0 st.e0 n

/-- Write an event counter. -/
def Strand.we (st : Strand) (n : Nat) (v : BitVec 16) : Strand := { st with e := Map.put st.e n v }

/-- Read a tensor reference register. -/
def Strand.rt (st : Strand) (n : Nat) : W64 := Map.get 0 st.t n

/-- Write a tensor reference register. -/
def Strand.wt (st : Strand) (n : Nat) (v : W64) : Strand := { st with t := Map.put st.t n v }

/-- Read a loop register: extent in the high half, index in the low half (R165). -/
def Strand.rl (st : Strand) (n : Nat) : W64 := Map.get 0 st.l n

/-- Write a loop register. -/
def Strand.wl (st : Strand) (n : Nat) (v : W64) : Strand := { st with l := Map.put st.l n v }

/-- A scalar register of the executing strand, as a SEQ form reads it at issue. -/
def State.x (s : State) (r : BitVec 6) : W64 := s.me.rx r.toNat

/-- Write a scalar register of the executing strand. -/
def State.wx (s : State) (r : BitVec 6) (v : W64) : State := s.modMe fun st => st.wx r.toNat v

/-- `sext64` of a literal (R54). -/
def litVal (w : W32) : W64 := w.signExtend 64

/-- Operand b of a SEQ form (R54). -/
def State.b (s : State) : SrcB → W64
  | .reg r => s.x r
  | .lit w => litVal w

/-- A scalar operand captured at issue, by position in field order (R48, R226). -/
def State.cap (s : State) (i : Nat) : W64 := s.cur.entry.caps.getD i 0

/-- Operand b of a queued form: its captured register, or the literal (R48, R54). -/
def State.qb (s : State) (i : Nat) : SrcB → W64
  | .reg _ => s.cap i
  | .lit w => litVal w

/-- The frame depth of a strand: 0 in placement code, else the depth of its task (R143). -/
def Strand.depth (st : Strand) : Nat :=
  match st.tasks with
  | [] => 0
  | t :: _ => t.depth

/-- The join counter at the strand's current depth (R155, R156). -/
def Strand.join (st : Strand) : Nat := Map.get 0 st.joins st.depth

/-! ### Queues and tokens -/

/-- A strand's queue. -/
def Strand.queue (st : Strand) : Unit5 → List Entry
  | .lq => st.lq
  | .cq => st.cq
  | .sq => st.sq
  | .ea => st.ea
  | .seq => []

/-- Replace a strand's queue. -/
def Strand.setQueue (st : Strand) (q : Unit5) (l : List Entry) : Strand :=
  match q with
  | .lq => { st with lq := l }
  | .cq => { st with cq := l }
  | .sq => { st with sq := l }
  | .ea => { st with ea := l }
  | .seq => st

/-- Entries of a queue (R129). -/
def queueSize : Unit5 → Nat
  | .ea => 8
  | .seq => 0
  | _ => 32

/-- The number of a queue in a trap record or replay record (R224, R226). -/
def unitNo : Unit5 → Nat
  | .seq => 0 | .lq => 1 | .cq => 2 | .sq => 3 | .ea => 4

/-- The four queues, in the order of their numbers. -/
def queues : List Unit5 := [.lq, .cq, .sq, .ea]

/-- Whether all four queues of a strand are empty. -/
def Strand.drained (st : Strand) : Bool := queues.all fun q => (st.queue q).isEmpty

/-- The token counters (R134). -/
inductive Ctr where
  | lc | cl | cs | sc
  deriving DecidableEq, Repr

/-- Read a token counter. -/
def Strand.ctr (st : Strand) : Ctr → Nat
  | .lc => st.lc | .cl => st.cl | .cs => st.cs | .sc => st.sc

/-- Write a token counter. -/
def Strand.setCtr (st : Strand) (c : Ctr) (n : Nat) : Strand :=
  match c with
  | .lc => { st with lc := n }
  | .cl => { st with cl := n }
  | .cs => { st with cs := n }
  | .sc => { st with sc := n }

/-- The token bits of a queued word; EA words have none (R56). -/
def tokOf (q : Unit5) (w : W32) : Nat := if q = .ea then 0 else fld w.toNat 0 4

/-- The counters that an instruction pops: -p from the previous queue, -n from the next (R56, R134). -/
def popsOf (q : Unit5) (tok : Nat) : List Ctr :=
  match q with
  | .lq => if tok % 2 = 1 then [.cl] else []
  | .cq => (if tok / 4 % 2 = 1 then [.lc] else []) ++ (if tok % 2 = 1 then [.sc] else [])
  | .sq => if tok / 4 % 2 = 1 then [.cs] else []
  | _ => []

/-- The counter that +n pushes. -/
def pushNext : Unit5 → Ctr
  | .lq => .lc
  | _ => .cs

/-- The counter that +p pushes. -/
def pushPrev : Unit5 → Ctr
  | .sq => .sc
  | _ => .cl

/-- The queue that pushes to a counter (R134). -/
def producerOf : Ctr → Unit5
  | .lc => .lq | .cl => .cq | .cs => .cq | .sc => .sq

/-- The queue that pops a counter (R134). -/
def consumerOf : Ctr → Unit5
  | .lc => .cq | .cl => .lq | .cs => .sq | .sc => .cq

/-- The counters that an entry still has to push to. -/
def Entry.pushes (e : Entry) (q : Unit5) : List Ctr :=
  let tok := tokOf q e.word
  (if tok / 8 % 2 = 1 && !e.pushN then [pushNext q] else []) ++ if tok / 2 % 2 = 1 && !e.pushP then [pushPrev q] else []

/-- The pushes that younger entries have made to a counter before an entry (R104). -/
def Entry.ahead (e : Entry) (q : Unit5) (k : Ctr) : Nat :=
  (if pushNext q = k then e.aheadN else 0) + if pushPrev q = k then e.aheadP else 0

/-- Program order between queued instructions of one strand (R482). -/
def Entry.before (a b : Entry) : Bool := decide (a.seq < b.seq) || (decide (a.seq = b.seq) && decide (a.widx < b.widx))

/-- Replay records of a queue. -/
def Strand.replay (st : Strand) : Unit5 → List Entry
  | .lq => st.rlq
  | .cq => st.rcq
  | .sq => st.rsq
  | .ea => st.rea
  | .seq => []

/-- Whether the push that the next pop of a counter is matched with has been made or waits for room only: pushes are matched with pops
in their program order, so of the oldest push whose instruction has not completed, those that younger ones have made do not count
(R104). -/
def Strand.inOrder (st : Strand) (k : Ctr) : Bool :=
  let q := producerOf k
  let owing := (st.queue q ++ st.replay q).filter fun e => (e.pushes q).contains k
  match owing.find? fun e => !e.done with
  | none => true
  | some x => decide (x.ahead q k < st.ctr k + (owing.filter fun e => e.done && e.before x).length)

/-- Whether every counter that an instruction pops holds a token, that of its own match (R104, R134). -/
def Strand.canPop (st : Strand) (cs : List Ctr) : Bool := cs.all fun c => decide (1 ≤ st.ctr c) && st.inOrder c

/-- Make the pops (R134). -/
def Strand.pop (st : Strand) (cs : List Ctr) : Strand := cs.foldl (fun st c => st.setCtr c (st.ctr c - 1)) st

/-- Return popped tokens to their counters, which may then hold 16 (R227). -/
def Strand.unpop (st : Strand) (cs : List Ctr) : Strand := cs.foldl (fun st c => st.setCtr c (st.ctr c + 1)) st

/-- Make the pushes of an entry that has completed, each when its counter holds at most 14 (R134, R227): the entry
with the pushes made, and whether all are. -/
def Strand.push (st : Strand) (q : Unit5) (e : Entry) : Strand × Entry × Bool :=
  let tok := tokOf q e.word
  let wantN := decide (tok / 8 % 2 = 1) && !e.pushN
  let okN := wantN && decide (st.ctr (pushNext q) ≤ 14)
  let st1 := if okN then st.setCtr (pushNext q) (st.ctr (pushNext q) + 1) else st
  let wantP := decide (tok / 2 % 2 = 1) && !e.pushP
  let okP := wantP && decide (st1.ctr (pushPrev q) ≤ 14)
  let st2 := if okP then st1.setCtr (pushPrev q) (st1.ctr (pushPrev q) + 1) else st1
  (st2, { e with done := true, pushN := e.pushN || okN, pushP := e.pushP || okP }, (!wantN || okN) && (!wantP || okP))

/-- Whether two entries of a queue are one instruction. -/
def Entry.same (a b : Entry) : Bool := a.seq == b.seq && a.widx == b.widx

/-- Whether a memory access has been performed for a part of its elements. -/
def Entry.underWay (e : Entry) : Bool := !e.done && (!e.later.isEmpty || e.left.isSome)

/-- Younger entries of the queue have taken the strand from `st` to `t`: what they have pushed is ahead of this entry (R104). -/
def Entry.overtaken (e : Entry) (q : Unit5) (st t : Strand) : Entry :=
  { e with
    aheadN := e.aheadN + (t.ctr (pushNext q) - st.ctr (pushNext q)), aheadP := e.aheadP + (t.ctr (pushPrev q) - st.ctr (pushPrev q)) }

/-- Complete an instruction of a queue: its pushes, and it leaves, or stays done while a push waits (R134). -/
def finishList (q : Unit5) (x : Entry) (st : Strand) : List Entry → Strand × List Entry
  | [] => (st, [])
  | e :: es =>
    if e.same x then
      match st.push q e with
      | (t, e', all) => (t, if all then es else { e' with later := [], left := none, srcs := [] } :: es)
    else
      let (t, l) := finishList q x st es
      (t, e.overtaken q st t :: l)

/-- Complete an instruction of a queue (R134). -/
def Strand.finishEntry (st : Strand) (q : Unit5) (x : Entry) : Strand :=
  let (t, l) := finishList q x st (st.queue q)
  t.setQueue q l

/-- Complete the executing entry of a queue. -/
def State.finish (s : State) : State := s.modMe fun st => st.finishEntry s.cur.unit s.cur.entry

/-- Change an entry of a queue. -/
def modSame (x : Entry) (f : Entry → Entry) (l : List Entry) : List Entry := l.map fun e => if e.same x then f e else e

/-- Change the executing entry of a queue. -/
def State.modHead (s : State) (f : Entry → Entry) : State :=
  s.modMe fun st => st.setQueue s.cur.unit (modSame s.cur.entry f (st.queue s.cur.unit))

/-- Scalar registers whose write is still to come from LQ or EA (R130). -/
def Strand.pending (st : Strand) : List Nat :=
  ((st.lq ++ st.ea).filter fun e => !e.done).flatMap fun e => e.dst

/-- Append an entry to a queue. -/
def Strand.enqueue (st : Strand) (q : Unit5) (e : Entry) : Strand := st.setQueue q (st.queue q ++ [e])

/-! ### Accesses, releases and acquires -/

/-- Whether a queued instruction is an access of its strand that fences and releases wait for (R97, R105): every LQ and
SQ form, the matrix forms of CQ but for the hasp forms, and the EA forms that touch memory themselves. -/
def isAccess (q : Unit5) (w : W32) : Bool :=
  match q with
  | .lq => true
  | .sq => true
  | .cq => decide (0x60 ≤ fld w.toNat 25 7) && decide (fld w.toNat 25 7 ≤ 0x72)
  | .ea => ([0x00, 0x01, 0x10, 0x11, 0x12, 0x14, 0x15, 0x16, 0x18, 0x19, 0x1A, 0x21] : List Nat).contains (fld w.toNat 0 6)
  | .seq => false

/-- Whether a queued instruction is an acquire that holds the strand's later accesses (R107, R218): rclaim, rwait,
drain, tmb.acq, tmb.t.acq, coll. -/
def isAcquire (q : Unit5) (w : W32) : Bool :=
  match q with
  | .lq => decide (fld w.toNat 25 7 = 0x2A) && (decide (fld w.toNat 6 6 = 0x10) || decide (fld w.toNat 6 6 = 0x11))
  | .ea => ([0x07, 0x11, 0x15, 0x20] : List Nat).contains (fld w.toNat 0 6)
  | _ => false

/-- Whether every access of a strand that `earlier` picks out has been performed (R106, R218). -/
def Strand.performed (st : Strand) (earlier : Entry → Bool) : Bool :=
  queues.all fun q => (st.queue q ++ st.replay q).all fun e =>
    e.done || e.marker.isSome || !isAccess q e.word || !earlier e

/-- Whether an acquire earlier in program order, in another queue, holds an access back (R106). -/
def Strand.acquiring (st : Strand) (q : Unit5) (e : Entry) : Bool :=
  queues.any fun p => p != q && (st.queue p ++ st.replay p).any fun a => !a.done && a.marker.isNone && isAcquire p a.word && a.before e

/-! ### Taking an exception -/

/-- The tcause word (R224). -/
def causeWord (cause widx unit : Nat) (nested : Bool) : W64 :=
  w64 (cause % 256 + 256 * (widx % 16) + 4096 * (unit % 8) + (if nested then 32768 else 0))

/-- The keep that a waiting form leaves when a trap ends its wait (R229, R266). -/
def keepOf : Wait → Keep
  | .join => .join
  | .ewait n c b => .ewait n c b
  | .exit => .exit
  | .tsync => .tsync
  | .ctxs a => .ctxs (a.toNat % 2 ^ 20)
  | .ctxr a => .ctxr (a.toNat % 2 ^ 20)
  | .barw _ _ => .bar
  | .bara _ _ => .bar
  | _ => .none

/-- The tkeep register for a kept wait (R229). -/
def keepWord : Keep → W64
  | .none => 0
  | .join => 1
  | .ewait n c b => w64 (2 + 16 * (n % 16) + 256 * (c % 4) + 65536 * (b % 65536))
  | .exit => 3
  | .tsync => 4
  | .ctxs a => w64 (5 + 65536 * (a % 2 ^ 20))
  | .ctxr a => w64 (6 + 65536 * (a % 2 ^ 20))
  | .bar => 7

/-- Mark the set slot of a barrier wait that a stop ends (R266). -/
def Strand.keepBar (st : Strand) : Strand :=
  match st.wait with
  | .barw i j => { st with bars := Map.put st.bars i { Map.get {} st.bars i with kept := true, keptJ := j, keptBara := false } }
  | .bara i j => { st with bars := Map.put st.bars i { Map.get {} st.bars i with kept := true, keptJ := j, keptBara := true } }
  | _ => st

/-- Issue of a strand stops (R225): a form that holds the next bundle ends without effect, kept as R229 states; a wfe
ends as a timeout unless increments have woken it (R247), and qlaunch and qpatch complete first (R441). -/
def Strand.stopIssue (st : Strand) : Strand :=
  let st1 := match st.wait with
    | .wfe d _ _ woken m => st.wx d.toNat (if woken.isSome then m.zeroExtend 64 else 0)
    | _ => st.keepBar
  let fresh := decide (st.keep = .none)
  let k := if fresh then keepOf st.wait else st.keep
  let w := match st.wait with
    | .halt => Wait.halt
    | .eret => .eret
    | .qop p d a b => .qop p d a b
    | _ => .none
  { st1 with
    tasks := st1.tasks.map fun t => { t with kept := false }
    wait := w, keep := k, keepBundle := if fresh then st.waitBundle else st.keepBundle
    keepWidx := if fresh then st.waitWidx else st.keepWidx, keepSeq := if fresh then st.waitSeq else st.keepSeq }

/-- No entry and no replay record has raised the recorded cause (R226). -/
def Strand.unmarked (st : Strand) : Strand :=
  let clear : List Entry → List Entry := List.map fun e => { e with faulted := false }
  { st with
    lq := clear st.lq, cq := clear st.cq, sq := clear st.sq, ea := clear st.ea
    rlq := clear st.rlq, rcq := clear st.rcq, rsq := clear st.rsq, rea := clear st.rea }

/-- Take a trap: the one operation by which every cause of a strand is raised (R223, R225, R228 to R230). The record
is written and issue stops; when the queues have settled, the handler entry or the termination follows. While a trap
settles, a cause from an older bundle, or a lower code from the same bundle, takes its place. -/
def Strand.raise (st : Strand) (cyc : Nat) (cause widx unit : Nat) (bundle val resume : W64) (seq : Nat) : Strand :=
  if st.trapped then
    if seq < st.trapSeq || (seq = st.trapSeq && cause < st.rec_.cause.toNat % 256) then
      { st.unmarked with
        trapSeq := seq
        rec_ := { st.rec_ with cause := causeWord cause widx unit st.handler, bundle := bundle, val := val, cyc := w64 cyc } }
    else st
  else
    let st1 := st.stopIssue.unmarked
    { st1 with
      trapped := true
      trapSeq := seq
      rec_ := { st1.rec_ with
        cause := causeWord cause widx unit st.handler
        bundle := bundle
        val := val
        resume := resume
        ctl := 0
        cyc := w64 cyc
        keep := keepWord st1.keep } }

/-- The bundle of the executing SEQ form issues: its queue instructions enter their queues, fetch moves on, and a cause
that an EA instruction raises from its checks at issue, which then enters no queue, is taken with tresume at the next bundle
(R48, R128, R133, R168, R301, R314). -/
def State.issued (s : State) : State :=
  s.modMe fun st =>
    let st1 := (s.cur.rest.filter fun p => p.2.atIssue.isNone).foldl (fun st p => st.enqueue p.1 p.2) st
    let st2 := { st1 with
      pc := s.cur.nextPc, seq := st.seq + 1, holdUntil := s.cyc + 1, checkPc := false
      waitBundle := s.cur.entry.bundle, waitWidx := s.cur.entry.widx, waitSeq := st.seq
      syncs := st.syncs + (if s.cur.sync then 1 else 0)
      lastIssue := if s.cur.rest.any (fun p => p.1 = .cq) then s.cyc else st.lastIssue
      afterCatch := st.afterCatch && !s.cur.rest.any fun p => p.1 = .cq }
    match s.cur.rest.findSome? fun p => p.2.atIssue.map fun k => (p.2, k) with
    | none => st2
    | some (e, k, v) => st2.raise s.cyc k e.widx 0 e.bundle v s.cur.nextPc st.seq

/-- The scalar register that a form of SEQ writes after its issue: none where a queued instruction of its bundle writes the
same register, whose value remains (R48). -/
def State.lateDst (s : State) (d : BitVec 6) : BitVec 6 :=
  if s.cur.rest.any fun p => p.2.dst.contains d.toNat then 0 else d

/-- The executing bundle does not issue: the scoreboard entries allocated for it are free again (R307). -/
def State.unissued (s : State) : State :=
  let held := s.cur.rest.filterMap fun p => p.2.cmd.bind fun q => q.sb
  s.modMyCore fun k => { k with sb := k.sb.filter fun p => !held.contains p.1 }

/-- A cause that a SEQ form raises from its checks at issue takes the place of the issue of its bundle (R483). -/
def State.raiseAtIssue (s : State) (cause : Nat) (val : W64) : State :=
  s.unissued.modMe fun st => st.raise s.cyc cause s.cur.entry.widx 0 s.cur.entry.bundle val s.cur.entry.bundle st.seq

/-- A cause that a SEQ form raises after its bundle has issued: tresume names the next bundle (R483). -/
def State.raiseAfter (s : State) (cause : Nat) (val : W64) : State :=
  s.modMe fun st => st.raise s.cyc cause s.cur.entry.widx 0 s.cur.entry.bundle val st.pc (st.seq - 1)

/-- Whether qlaunch or qpatch holds the next bundle of a strand; it completes before a stop takes effect (R441). -/
def Strand.inQop (st : Strand) : Bool :=
  match st.wait with
  | .qop _ _ _ _ => true
  | _ => false

/-- The address at which a stopped strand would issue next: tresume while catch-up runs (R225, R235). -/
def Strand.nextAddr (st : Strand) : W64 := if st.catchUp then st.rec_.resume else st.pc

/-- Change the first CQ entry that has not been dispatched. -/
def modUndispatched (f : Entry → Entry) : List Entry → List Entry
  | [] => []
  | e :: es => if e.until_.isSome || e.done then e :: modUndispatched f es else f e :: es

/-- Mark the entry of a queue that raises a cause (R225). -/
def markFaulted (q : Unit5) (x : Entry) (l : List Entry) : List Entry :=
  if q = .cq then modUndispatched (fun e => { e with faulted := true }) l else modSame x (fun e => { e with faulted := true }) l

/-- The executing entry is under way no longer. -/
def Entry.halted (e : Entry) : Entry := { e with later := [], left := none, srcs := [], fails := none }

/-- A cause that the executing entry of a queue raises: the entry is marked, is under way no longer, and stays for its replay record
(R220, R225). -/
def State.raiseHead (s : State) (cause : Nat) (val : W64) : State :=
  s.modMe fun st0 =>
    let st := st0.setQueue s.cur.unit (modSame s.cur.entry Entry.halted (st0.queue s.cur.unit))
    let st' := st.raise s.cyc cause s.cur.entry.widx (unitNo s.cur.unit) s.cur.entry.bundle val st.nextAddr s.cur.entry.seq
    if st.trapped && st'.rec_ = st.rec_ then st' else st'.setQueue s.cur.unit (markFaulted s.cur.unit s.cur.entry (st'.queue s.cur.unit))

/-- A cause that an engine or the system reports against a strand (units 5 and 6 of R224). -/
def State.report (s : State) (c h cause unit : Nat) (bundle val : W64) (seq : Nat) : State :=
  s.modStrand c h fun st => st.raise s.cyc cause 0 unit bundle val st.nextAddr seq

/-- Whether an entry is still to be settled: a dispatched CQ operation inside its bound, or an access under way that
completes by itself (R225). -/
def Entry.busy (e : Entry) (cyc : Nat) : Bool :=
  e.underWay || (!e.done && ((match e.until_ with
    | some u => decide (cyc < u)
    | none => false) || e.wait.isSome))

/-- Settle one queue of a stopped strand (R225, R227): completed entries push what they can, and the rest, fence markers
among them, become replay records, their popped tokens returned. Only `done` entries, and CQ entries past their bound, complete. -/
def Strand.settleQueue (st : Strand) (q : Unit5) : List Entry → Strand × List Entry
  | [] => (st, [])
  | e :: es =>
    if e.done || e.until_.isSome then
      match st.push q e with
      | (st', _, true) => Strand.settleQueue st' q es
      | (st', e', false) =>
        let (st2, r) := Strand.settleQueue st' q es
        (st2, { e' with until_ := none } :: r)
    else
      let st' := if e.begun then st.unpop (popsOf q (tokOf q e.word)) else st
      let (st2, r) := Strand.settleQueue st' q es
      (st2, { e.overtaken q st' st2 with begun := false, parked := false, until_ := none, resv := false, cover := none, atIssue := none } :: r)

/-- Restart address of a queue: the bundle of its first replay record, or tresume (R133, R225). -/
def restart (r : List Entry) (resume : W64) : W64 :=
  match r with
  | [] => resume
  | e :: _ => e.bundle

/-- Settle every queue of a stopped strand into replay records; records of an interrupted catch-up stay behind the
new ones (R225, R235). -/
def Strand.settle (st : Strand) : Strand :=
  let (s1, l) := st.settleQueue .lq st.lq
  let (s2, c) := s1.settleQueue .cq s1.cq
  let (s3, q) := s2.settleQueue .sq s2.sq
  let (s4, e) := s3.settleQueue .ea s3.ea
  let l' := l ++ st.rlq
  let c' := c ++ st.rcq
  let q' := q ++ st.rsq
  let e' := e ++ st.rea
  let nrec := w64 (l'.length + 256 * c'.length + 65536 * q'.length + 16777216 * e'.length)
  { s4 with
    lq := [], cq := [], sq := [], ea := [], rlq := l', rcq := c', rsq := q', rea := e', catchUp := false
    rec_ := { s4.rec_ with
      nrec := nrec
      stLq := restart l' s4.rec_.resume
      stCq := restart c' s4.rec_.resume
      stSq := restart q' s4.rec_.resume
      stEa := restart e' s4.rec_.resume } }

/-- The fwin at the head of EA that a strand stopped by a pre-emption still completes (R414). -/
def Strand.headFwin (st : Strand) : Option Entry :=
  match st.ea with
  | e :: _ =>
    if st.stopped && !st.trapped && fld e.word.toNat 0 6 = 0x23 && e.marker.isNone && !e.done && !e.faulted then some e else none
  | [] => none

/-- Whether every outcome of R225 has settled, and every probe and pgreq has completed (R283, R414). -/
def Strand.settled (st : Strand) (cyc : Nat) : Bool :=
  st.late.isEmpty && st.headFwin.isNone && queues.all fun q => (st.queue q).all fun e => !e.busy cyc

/-- The trap entry of the placement's kernel (R118, R230). -/
def Placement.trapentry (p : Placement) : Nat := bitsAt p.kd.toNat 416 21

/-- Enter handler mode: the queues are settled, and the strand fetches from trapentry (R230, R231). Entry changes no
x, v, m, e, t or l register and no token counter but for R227. -/
def Strand.enterHandler (st : Strand) (entry : Nat) : Strand :=
  { st.settle with handler := true, trapped := false, pendTrap := false, pc := w64 entry, checkPc := false }

/-- A replay record as it re-enters its queue: a done record as a push entry, a faulted one under skip as a skip
entry; a CQ entry then dispatches at the bound of the one before it (R233, R234). -/
def reenter (skip : Bool) (e : Entry) : Entry :=
  if e.done then { e with faulted := false }
  else { e with skip := e.faulted && skip, faulted := false, begun := false, parked := false, until_ := none, wait := none, resv := false, cover := none
                spaced := true }

/-- Re-enter one replay record of a queue, if it has room (R233). -/
def Strand.refill (st : Strand) (q : Unit5) (r : List Entry) : Strand × List Entry :=
  let room := min 1 (queueSize q - (st.queue q).length)
  let skip := st.rec_.ctl.getLsbD 0
  (st.setQueue q (st.queue q ++ (r.take room).map (reenter skip)), r.drop room)

/-- One clk of catch-up: every queue takes one record, if it has room; when all records have been entered, skip is cleared
and issue continues at tresume (R233, R234). -/
def Strand.catchUpTurn (st : Strand) (cyc : Nat) : Strand :=
  let (s1, l) := st.refill .lq st.rlq
  let (s2, c) := s1.refill .cq st.rcq
  let (s3, q) := s2.refill .sq st.rsq
  let (s4, e) := s3.refill .ea st.rea
  let left := !(l.isEmpty && c.isEmpty && q.isEmpty && e.isEmpty)
  { s4 with
    rlq := l, rcq := c, rsq := q, rea := e, catchUp := left, holdUntil := cyc + 1
    pc := if left then s4.pc else s4.rec_.resume
    afterCatch := s4.afterCatch || !st.rcq.isEmpty
    rec_ := if left then s4.rec_ else { s4.rec_ with ctl := s4.rec_.ctl &&& ~~~(1 : W64) } }

/-- Return from an exception: leave handler mode and run catch-up to tresume (R244). -/
def Strand.eretReturn (st : Strand) (cyc : Nat) : Strand :=
  Strand.catchUpTurn { st with handler := false, wait := .none, catchUp := true } cyc

end Sys2Proof.Machine
end

