-- ==== Sys2Proof/Machine/Operands.lean ====
section
/-!
DEFINITION. Operand forms: which scalar registers a form reads and writes, what is captured at issue, short fields and
scratchpad addresses (R48, R53 to R55, R130, R198, R226).
-/

namespace Sys2Proof.Machine

/-- The register that operand b names, if it names one. -/
def SrcB.regs : SrcB → List Nat
  | .reg r => [r.toNat]
  | .lit _ => []

/-- The scalar register that a VR operand b reads at issue (R55). -/
def VecB.regs : VecB → List Nat
  | .scalar r => [r.toNat]
  | _ => []

/-- `n` registers from one up; registers past x63 do not exist. -/
def regsFrom (r : BitVec 6) (n : Nat) : List Nat := ((List.range n).map fun i => r.toNat + i).filter fun k => decide (k < 64)

/-- Rank of the tensor that a reference names, 0 when the reference or layout is bad: the form then faults in its queue
(R205, R283). -/
def State.rank? (s : State) (tenant : Nat) (ref : W64) : Nat :=
  match s.desc tenant ref with
  | .ok d => d.dims.length
  | .error _ => 0

/-- Scalar operands in field order: what a queued form captures at issue, and what a SEQ form reads (R48, R226). `rank`
is the rank of the tensor that the form's t field names. -/
def scalarReads (rank : Nat) : Instr → List Nat
  | .add _ a b | .sub _ a b | .mul _ a b | .mulh _ a b | .mulhn _ a b | .div _ a b | .divn _ a b | .rem _ a b
  | .remn _ a b | .and _ a b | .or _ a b | .xor _ a b | .andn _ a b | .shl _ a b | .shr _ a b | .sar _ a b
  | .rol _ a b | .min _ a b | .max _ a b | .minn _ a b | .maxn _ a b | .cmpEq _ a b | .cmpNe _ a b | .cmpLt _ a b
  | .cmpLtn _ a b | .cmpLe _ a b | .cmpLen _ a b | .lit _ a b | .adda _ a b | .jr a b | .esig a b | .bdecl _ a b
  | .qlaunch _ a b | .qpatch _ a b | .kvalloc _ a b | .kvfree _ a b | .epush _ a b | .attn a b | .attnP8 a b
  | .attnP8n a b | .chlink _ a b | .famo _ _ a b | .fsig a b => a.toNat :: SrcB.regs b
  | .sel d a b => d.toNat :: a.toNat :: SrcB.regs b
  | .clz _ a | .ctz _ a | .popc _ a | .sext8 _ a | .sext16 _ a | .sext32 _ a | .bcZ a _ | .bcNz a _ | .bcLt a _
  | .bcGe a _ | .ret a | .addi _ a _ | .andi _ a _ | .ori _ a _ | .xori _ a _ | .shlImm _ a _ | .shrImm _ a _
  | .sarImm _ a _ | .rolImm _ a _ | .ctxs a | .ctxr a | .kvchk _ a | .coll _ a | .encsub a => [a.toNat]
  | .lih d _ => [d.toNat]
  | .mov _ b | .csrw _ b | .eset _ b | .ewait _ _ b | .trap b | .wfe _ b | .halt b | .tinv _ b | .tdesc _ b
  | .epop _ _ b | .cpy _ b | .chkick _ b | .sbq _ b | .attw _ b | .fwin _ b => SrcB.regs b
  | .spawn _ a b => regsFrom a 7 ++ SrcB.regs b
  | .probe _ _ b | .pgreq _ _ b => regsFrom b rank
  | .cpym _ a b | .cpyg _ a b => regsFrom a 2 ++ SrcB.regs b
  | .tmbRlx _ a b | .tmbAcq _ a b | .tmbRel _ a b | .tmbTRlx _ a b | .tmbTAcq _ a b | .tmbTRel _ a b =>
    regsFrom a 3 ++ SrcB.regs b
  | .lds _ a _ _ _ | .vlds _ a _ _ _ | .vsts _ a _ _ _ | .ldro _ a _ _ _ | .vldsg _ a _ _ _ | .vstss _ a _ _ _ => [a.toNat]
  | .sts d a _ _ _ => [d.toNat, a.toNat]
  | .ldg _ _ c _ _ | .stg _ _ c _ _ | .pref _ _ c _ => regsFrom c rank
  | .amoAdd _ a _ _ _ | .amoMin _ a _ _ _ | .amoMax _ a _ _ _ | .amoMinn _ a _ _ _ | .amoMaxn _ a _ _ _
  | .amoAnd _ a _ _ _ | .amoOr _ a _ _ _ | .amoXor _ a _ _ _ | .amoSwap _ a _ _ _ => regsFrom a 2
  | .amoCas _ a _ _ _ => regsFrom a 3
  | .rclaim _ a _ | .rwait _ a _ | .rstat _ a _ => [a.toNat]
  | .rinit d a _ => regsFrom d 2 ++ [a.toNat]
  | .rfill d a _ | .rrel d a _ => [d.toNat, a.toNat]
  | .vaddF32 _ _ b _ | .vsubF32 _ _ b _ | .vmulF32 _ _ b _ | .vfmaF32 _ _ b _ | .vfmacF32 _ _ b _ | .vminF32 _ _ b _
  | .vmaxF32 _ _ b _ | .vaddI32 _ _ b _ | .vsubI32 _ _ b _ | .vmulI32 _ _ b _ | .vaddsI32 _ _ b _ | .vsubsI32 _ _ b _
  | .vaddsN32 _ _ b _ | .vsubsN32 _ _ b _ | .vminI32 _ _ b _ | .vmaxI32 _ _ b _ | .vminN32 _ _ b _ | .vmaxN32 _ _ b _
  | .vand _ _ b _ | .vor _ _ b _ | .vxor _ _ b _ | .vshl _ _ b _ | .vshr _ _ b _ | .vsar _ _ b _ | .vsel _ _ b _
  | .vperm _ _ b _ | .vrot _ _ b _ | .vext _ _ b _ | .vins _ _ b _ | .vbcast _ _ b _ | .vtopk _ _ b _ => VecB.regs b
  | .vsplat _ b _ => VecB.regs b
  | .vcmpF32 _ _ _ b _ | .vcmpI32 _ _ _ b _ | .vcmpN32 _ _ _ b _ => VecB.regs b
  | .mmaF8e4 _ _ a _ _ _ | .mmaF8e5 _ _ a _ _ _ | .mmaF8x _ _ a _ _ _ | .mmaBf16 _ _ a _ _ _ | .mmaF16 _ _ a _ _ _
  | .mmaI8 _ _ a _ _ _ | .mmaI8n _ _ a _ _ _ | .mmaT2 _ _ a _ _ _ | .mmaF32x3 _ _ a _ _ _ => [a.toNat]
  | .csld _ a _ _ | .acmv _ a _ | .acvr _ _ a _ | .acrd _ _ a _ => [a.toNat]
  | .csldt _ _ a _ _ => [a.toNat]
  | .acscE8 _ _ _ a _ _ | .acscF32 _ _ _ a _ _ => [a.toNat]
  | .acld _ _ a _ _ | .acst _ _ a _ _ => [a.toNat]
  | _ => []

/-- Scalar registers that a form writes (R130): at issue for SEQ, later for LQ and EA. -/
def scalarWrites : Instr → List Nat
  | .add d _ _ | .sub d _ _ | .mul d _ _ | .mulh d _ _ | .mulhn d _ _ | .div d _ _ | .divn d _ _ | .rem d _ _
  | .remn d _ _ | .and d _ _ | .or d _ _ | .xor d _ _ | .andn d _ _ | .shl d _ _ | .shr d _ _ | .sar d _ _
  | .rol d _ _ | .min d _ _ | .max d _ _ | .minn d _ _ | .maxn d _ _ | .cmpEq d _ _ | .cmpNe d _ _ | .cmpLt d _ _
  | .cmpLtn d _ _ | .cmpLe d _ _ | .cmpLen d _ _ | .lit d _ _ | .adda d _ _ | .sel d _ _ | .qlaunch d _ _
  | .qpatch d _ _ | .kvalloc d _ _ | .kvfree d _ _ | .spawn d _ _ => [d.toNat]
  | .clz d _ | .ctz d _ | .popc d _ | .sext8 d _ | .sext16 d _ | .sext32 d _ | .kvchk d _ | .coll d _ => [d.toNat]
  | .addi d _ _ | .andi d _ _ | .ori d _ _ | .xori d _ _ => [d.toNat]
  | .shlImm d _ _ | .shrImm d _ _ | .sarImm d _ _ | .rolImm d _ _ => [d.toNat]
  | .mov d _ | .wfe d _ | .sbq d _ | .attw d _ | .fwin d _ => [d.toNat]
  | .li d _ | .lih d _ | .lif d _ => [d.toNat]
  | .call a _ => [a.toNat]
  | .idx d _ | .csrr d _ | .sstat d _ => [d.toNat]
  | .cyc d | .time d => [d.toNat]
  | .eget d _ => [d.toNat]
  | .bstat d _ | .drain d _ => [d.toNat]
  | .probe d _ _ | .pgreq d _ _ => [d.toNat]
  | .epop d _ _ => [d.toNat]
  | .estat d _ => [d.toNat]
  | .tmbRlx d _ _ | .tmbAcq d _ _ | .tmbRel d _ _ | .tmbTRlx d _ _ | .tmbTAcq d _ _ | .tmbTRel d _ _ => regsFrom d 2
  | .lds d _ _ _ _ => [d.toNat]
  | .amoAdd d _ _ _ _ | .amoMin d _ _ _ _ | .amoMax d _ _ _ _ | .amoMinn d _ _ _ _ | .amoMaxn d _ _ _ _
  | .amoAnd d _ _ _ _ | .amoOr d _ _ _ _ | .amoXor d _ _ _ _ | .amoSwap d _ _ _ _ | .amoCas d _ _ _ _ => [d.toNat]
  | .rclaim d _ _ | .rwait d _ _ | .rstat d _ _ => [d.toNat]
  | _ => []

/-- The tensor register that a form names (R205, R283). -/
def tensorReg : Instr → Option Nat
  | .ldg _ t _ _ _ | .stg _ t _ _ _ | .pref _ t _ _ => some t.toNat
  | .probe _ t _ | .pgreq _ t _ | .tinv t _ | .tdesc t _ => some t.toNat
  | _ => none

/-- The position of the flat pointer among a queued form's captured scalars (R204). -/
def pointerCap : Instr → Option Nat
  | .ldro _ _ _ _ _ | .amoAdd _ _ _ _ _ | .amoMin _ _ _ _ _ | .amoMax _ _ _ _ _ | .amoMinn _ _ _ _ _
  | .amoMaxn _ _ _ _ _ | .amoAnd _ _ _ _ _ | .amoOr _ _ _ _ _ | .amoXor _ _ _ _ _ | .amoSwap _ _ _ _ _
  | .amoCas _ _ _ _ _ | .rclaim _ _ _ | .rwait _ _ _ | .rstat _ _ _ | .tmbRlx _ _ _ | .tmbAcq _ _ _ | .tmbRel _ _ _
  | .tmbTRlx _ _ _ | .tmbTAcq _ _ _ | .tmbTRel _ _ _ | .famo _ _ _ _ => some 0
  | .rinit _ _ _ => some 2
  | .rfill _ _ _ | .rrel _ _ _ => some 1
  | _ => none

/-- Bits [51:48] of a flat pointer name the tensor register (R204). -/
def ptrReg (p : W64) : Nat := bitsAt p.toNat 48 4

/-- The byte coordinate of a flat pointer (R204). -/
def ptrCoord (p : W64) : Nat := bitsAt p.toNat 0 48

/-- The tensor reference that an entry captures: that of its t field, or of its flat pointer (R48, R288). -/
def Strand.captureRef (st : Strand) (i : Instr) (caps : List W64) : W64 :=
  match tensorReg i with
  | some n => st.rt n
  | none =>
    match pointerCap i with
    | some k => st.rt (ptrReg (caps.getD k 0))
    | none => 0

/-- A short signed offset or a literal byte count (R53, R54). -/
def offBytes (scale : Nat) : Off → W64
  | .short o => o.signExtend 64 * w64 scale
  | .lit w => litVal w

/-- The signed coordinates that a form captured (R205). -/
def State.coords (s : State) : List Int := s.cur.entry.caps.map fun c => c.toInt

/-! ### Scratchpad -/

/-- Bytes of a scratchpad (R198). -/
def spSize : Nat := 0x100000

/-- Whether a scratchpad effective address has its must-be-zero fields clear (R198). -/
def spFieldsOk (e : W64) : Bool := decide (e.toNat < 2 ^ 25) && (e.getLsbD 24 || decide (bitsAt e.toNat 20 4 = 0))

/-- Read bytes of a core's scratchpad. -/
def State.spRead (s : State) (c a n : Nat) : List Byte := Mem.read ((s.core c).view s.free s.cyc).sp a n

/-- Write bytes of a core's scratchpad. -/
def State.spWrite (s : State) (c a : Nat) (bs : List Byte) : State :=
  s.modCore c fun k => k.spStore a bs

/-- Whether a core holds a placement of a node, from its start on (R138, R199; log entry 102). -/
def State.holdsNode (s : State) (c node : Nat) : Bool :=
  match (s.core c).place with
  | some p => p.started && decide (p.node = node)
  | none => false

/-- Whether a placement of a node is saved (R240, R267). -/
def State.nodeSaved (s : State) (node : Nat) : Bool := s.saved.any fun g => g.cores.any fun c => c.node == node

/-- The core that a scratchpad access names, after the checks of R198 and R199 that do not depend on its bytes: the
core, or the cause. -/
def State.spCore (s : State) (e : W64) : Except Nat Nat :=
  if !spFieldsOk e then .error 0x20
  else if e.getLsbD 24 then
    let c := 16 * groupOf s.cur.core + bitsAt e.toNat 20 4
    if s.holdsNode c s.myPlace.node then .ok c else .error 0x22
  else .ok s.cur.core

end Sys2Proof.Machine
end

