-- ==== Sys2Proof/Machine/Code.lean ====
section
/-!
DEFINITION. The code image: kernel descriptors, lines and their owners, transfer targets, and the decoding of a bundle
(R36 to R50, R57, R58, R118, R121).
-/

namespace Sys2Proof.Machine

/-! ### The kernel descriptor (R118) -/

/-- A field of the descriptor. -/
def Placement.kf (p : Placement) (lo len : Nat) : Nat := bitsAt p.kd.toNat lo len
/-- Byte offset of the code image. -/
def Placement.codeoff (p : Placement) : Nat := p.kf 0 32
/-- Lines in the image. -/
def Placement.nlines (p : Placement) : Nat := p.kf 32 15 + 1
/-- Strands per placement. -/
def Placement.nstrands (p : Placement) : Nat := 2 ^ p.kf 48 2
/-- Task frame depth D. -/
def Placement.depth (p : Placement) : Nat := p.kf 50 2 + 1
/-- The tensor holding the image and the tables. -/
def Placement.codeten (p : Placement) : W64 := w64 (p.kf 64 64)
/-- Scratchpad address of the task area. -/
def Placement.taskbase (p : Placement) : Nat := p.kf 288 20
/-- Entry address of a strand. -/
def Placement.entry (p : Placement) (h : Nat) : Nat := p.kf (320 + 21 * h) 21

/-! ### Lines -/

/-- Why a fetch, a target or a code read fails: cause and tval. -/
abbrev CodeErr := Nat × W64

/-- The address of a code-tensor span of `n` bytes that does not cross a tile: through a translation cache, all bytes
in bounds (R121, R204). -/
def State.span (s : State) (c : TCache) (tenant : Nat) (ref : W64) (off n : Nat) (store : Bool) : Except Nat Loc × State :=
  match s.desc tenant ref with
  | .error k => (.error k, s)
  | .ok d =>
    if !d.flat then (.error 0x26, s)
    else
      match s.elem c d [(off : Int)] store with
      | (.fault k, t) => (.error k, t)
      | (.oob, t) => (.error 0x27, t)
      | (.absent, t) => (.error 0x28, t)
      | (.at l, t) => if (d.map [((off + n - 1 : Nat) : Int)]).isNone then (.error 0x27, t) else (.ok l, t)

/-- The 0x2C value: code address and translation cause (R121). -/
def codeFault (addr k : Nat) : CodeErr := (0x2C, w64 (addr % 2 ^ 21 + 2 ^ 32 * k))

/-- The place of the line that holds a code address: image bounds, then the read through codeten (R38, R121). -/
def State.line0 (s : State) (c : Nat) (addr : W64) : Except CodeErr Loc × State :=
  let p := s.placement c
  if 64 * p.nlines ≤ addr.toNat then (.error (0x04, addr), s)
  else
    match s.span (tcOf c) p.tenant p.codeten (p.codeoff + 64 * (addr.toNat / 64)) 64 false with
    | (.error k, t) => (.error (codeFault addr.toNat k), t)
    | (.ok l, t) => (.ok l, t)

/-- Word `k` of a line at a place (R36). -/
def State.lineWord (s : State) (l : Loc) (k : Nat) : Nat := leNat (s.locRead (l.plus (4 * k)) 4)

/-- Word `k` of a line as a read of the code image returns it. Where the placement has seen the word written, it may be the old
one: one choice for the line where every write was of 64 aligned bytes, else one for each word (R40). -/
def State.codeWord (s : State) (c : Nat) (l : Loc) (k : Nat) : Nat :=
  let olds := s.pasts (l.plus (4 * k)) (s.placement c).life
  let key := if olds.all Past.whole then 2 * (l.addr / 64) else 2 * (l.addr / 4 + k) + 1
  (pickPast (Config.freePast s.free key) (w32 (s.lineWord l k)) (olds.map Past.old)).toNat

/-- Owner field of a link word (R37). -/
def linkOwner (w : Nat) : Nat := bitsAt w 29 3

/-- The address that word 1 of line L + next has, for a code address in line L (R37, R39). -/
def linkNext (w : Nat) (addr : W64) : W64 :=
  w64 (64 * (addr.toNat / 64)) + (BitVec.ofNat 14 (bitsAt w 15 14)).signExtend 64 * 64 + 4

/-- Whether word `k` of a line is a literal by its litmap (R37). -/
def litBit (link k : Nat) : Bool := (1 ≤ k : Bool) && Nat.testBit link (k - 1)

/-- The owner rule of R38 for strand `h`; `anyOnly` for spawn entries, which must be owned by any (R155). -/
def ownerErr (link h : Nat) (anyOnly : Bool) (addr : W64) : Option CodeErr :=
  let o := linkOwner link
  if o = 7 then some (0x05, addr)
  else if o = 4 || (!anyOnly && o = h) then none
  else some (0x04, addr)

/-- Word index of a code address in its line. -/
def wordIx (addr : W64) : Nat := addr.toNat % 64 / 4

/-- The target checks of R49, in their order; the answer is the cause and tval of the first that fails. -/
def State.target (s : State) (c h : Nat) (anyOnly : Bool) (T : W64) : Option CodeErr × State :=
  match s.line0 c T with
  | (.error e, t) => (some e, t)
  | (.ok l, t) =>
    let link := t.codeWord c l 0
    match ownerErr link h anyOnly T with
    | some e => (some e, t)
    | none =>
      let k := wordIx T
      if T.toNat % 4 ≠ 0 || k = 0 || litBit link k || fld (t.codeWord c l k) 25 7 ≠ 0x3F then (some (0x03, T), t)
      else (none, t)

/-! ### Bundles -/

/-- One instruction of a bundle, as fetched. -/
structure BInstr where
  widx : Nat
  word : W32
  lit : Lit
  instr : Instr
  deriving DecidableEq, Repr

/-- What fetch and decode find at a strand's issue address. -/
inductive Fetched where
  | err (cause widx : Nat) (val : W64)
  | padding (next : W64)
  | bundle (header : Nat) (is : List BInstr) (next : W64)
  deriving DecidableEq, Repr

/-- The words after a header, in order: litmap structure, decoding, destination (R44, R45, R58). The words come with
their index in the bundle and their litmap bit; `seen` holds the destinations taken. -/
def decodeBundle : List (Nat × Nat × Bool) → List Unit5 → Except (Nat × Nat) (List BInstr)
  | [], _ => .ok []
  | [(i, w, lb)], seen =>
    if lb || wantsLiteral w then .error (0x02, i)
    else
      match decodeWord w none with
      | .error _ => .error (0x01, i)
      | .ok n =>
        if !n.wf then .error (0x01, i)
        else if seen.contains (unitOf w) then .error (0x02, i)
        else .ok [{ widx := i, word := w32 w, lit := none, instr := n }]
  | (i, w, lb) :: (j, v, vb) :: rest, seen =>
    if lb then .error (0x02, i)
    else
      let l : Lit := if wantsLiteral w then some (w32 v) else none
      match decodeWord w l with
      | .error _ => .error (0x01, i)
      | .ok n =>
        if !n.wf then .error (0x01, i)
        else if seen.contains (unitOf w) then .error (0x02, i)
        else if wantsLiteral w then
          if !vb then .error (0x02, j)
          else (decodeBundle rest (unitOf w :: seen)).map fun is => { widx := i, word := w32 w, lit := l, instr := n } :: is
        else
          (decodeBundle ((j, v, vb) :: rest) (unitOf w :: seen)).map fun is =>
            { widx := i, word := w32 w, lit := l, instr := n } :: is

/-- The header checks of R42 and R43, for a header at word `k`. -/
def headerOk (link h k : Nat) : Bool :=
  let c := fld h 20 4
  decide (k + c ≤ 15) && decide (fld h 0 1 = 0) && !litBit link k &&
    (decide (fld h 19 1 = 1) || decide (fld h 1 16 = 0 && fld h 17 2 = 0)) &&
    !(decide (fld h 19 1 = 1) && decide (fld h 17 2 = 3)) &&
    !(decide (c = 0) && !(decide (fld h 0 20 = 0) && decide (fld h 24 1 = 0)))

/-- Fetch and decode at an address for strand `h` of core `c`, in the order of R58. -/
def State.fetch (s : State) (c h : Nat) (pc : W64) : Fetched × State :=
  match s.line0 c pc with
  | (.error (k, v), t) => (.err k 0 v, t)
  | (.ok l, t) =>
    let link := t.codeWord c l 0
    match ownerErr link h false pc with
    | some (k, v) => (.err k 0 v, t)
    | none =>
      let k := wordIx pc
      let hw := t.codeWord c l k
      if pc.toNat % 4 ≠ 0 || k = 0 || litBit link k || fld hw 25 7 ≠ 0x3F then (.err 0x02 0 0, t)
      else if !headerOk link hw k then (.err 0x02 0 0, t)
      else
        let n := fld hw 20 4
        let next := if k + n < 15 then pc + w64 (4 * (n + 1)) else linkNext link pc
        if n = 0 then (.padding (linkNext link pc), t)
        else
          match decodeBundle ((List.range n).map fun i => (i + 1, t.codeWord c l (k + 1 + i), litBit link (k + 1 + i))) [] with
          | .error (e, i) => (.err e i 0, t)
          | .ok is => (.bundle hw is next, t)

end Sys2Proof.Machine
end

