-- ==== Sys2Proof/Machine/Alu.lean ====
section
/-!
DEFINITION. Scalar arithmetic and the immediate forms: each writes x[d] at issue, from the registers as they stood
before the bundle (R48, R148 to R150).
-/

namespace Sys2Proof.Machine

/-- A SEQ form that writes one register: its bundle issues, and the value takes effect at issue (R48, R131). -/
def State.seqSet (s : State) (d : XReg) (v : W64) : Res := .next (s.issued.wx d v)

/-- A SEQ form of two operands (R148). -/
def State.alu (s : State) (d a : XReg) (b : SrcB) (f : W64 → W64 → W64) : Res := s.seqSet d (f (s.x a) (s.b b))

/-- A SEQ form of one operand (R148). -/
def State.alu1 (s : State) (d a : XReg) (f : W64 → W64) : Res := s.seqSet d (f (s.x a))

/-- A truth value as a register value. -/
def boolW (b : Bool) : W64 := if b then 1 else 0

/-- The next bundle is held until 20 clk after the issue of a division (R131). -/
def State.held20 (r : Res) : Res :=
  match r with
  | .next t => .next (t.modMe fun st => { st with holdUntil := t.cyc + 20 })
  | y => y

/-- High 64 bits of the signed product (R148). -/
def mulHigh (a b : W64) : W64 := BitVec.ofInt 64 (a.toInt * b.toInt / 2 ^ 64)

/-- High 64 bits of the unsigned product (R148). -/
def mulHighN (a b : W64) : W64 := w64 (a.toNat * b.toNat / 2 ^ 64)

/-- Signed division, truncating (R149). -/
def divS (a b : W64) : W64 := if b = 0 then BitVec.allOnes 64 else BitVec.ofInt 64 (Int.tdiv a.toInt b.toInt)

/-- Unsigned division (R149). -/
def divU (a b : W64) : W64 := if b = 0 then BitVec.allOnes 64 else w64 (a.toNat / b.toNat)

/-- Signed remainder, with the sign of the dividend (R149). -/
def remS (a b : W64) : W64 := if b = 0 then a else BitVec.ofInt 64 (Int.tmod a.toInt b.toInt)

/-- Unsigned remainder (R149). -/
def remU (a b : W64) : W64 := if b = 0 then a else w64 (a.toNat % b.toNat)

/-- A shift count: the low six bits (R148). -/
def count6 (b : W64) : Nat := b.toNat % 64

/-- add (R148). -/
def execAdd (d a : XReg) (b : SrcB) (s : State) : Res := s.alu d a b fun a b => a + b

/-- sub (R148). -/
def execSub (d a : XReg) (b : SrcB) (s : State) : Res := s.alu d a b fun a b => a - b

/-- mul (R148). -/
def execMul (d a : XReg) (b : SrcB) (s : State) : Res := s.alu d a b fun a b => a * b

/-- mulh (R148). -/
def execMulh (d a : XReg) (b : SrcB) (s : State) : Res := s.alu d a b fun a b => mulHigh a b

/-- mulhn (R148). -/
def execMulhn (d a : XReg) (b : SrcB) (s : State) : Res := s.alu d a b fun a b => mulHighN a b

/-- div (R149); it holds the next bundle 20 clk (R131). -/
def execDiv (d a : XReg) (b : SrcB) (s : State) : Res := State.held20 (s.alu d a b divS)

/-- divn (R149); it holds the next bundle 20 clk (R131). -/
def execDivn (d a : XReg) (b : SrcB) (s : State) : Res := State.held20 (s.alu d a b divU)

/-- rem (R149); it holds the next bundle 20 clk (R131). -/
def execRem (d a : XReg) (b : SrcB) (s : State) : Res := State.held20 (s.alu d a b remS)

/-- remn (R149); it holds the next bundle 20 clk (R131). -/
def execRemn (d a : XReg) (b : SrcB) (s : State) : Res := State.held20 (s.alu d a b remU)

/-- and (R148). -/
def execAnd (d a : XReg) (b : SrcB) (s : State) : Res := s.alu d a b fun a b => a &&& b

/-- or (R148). -/
def execOr (d a : XReg) (b : SrcB) (s : State) : Res := s.alu d a b fun a b => a ||| b

/-- xor (R148). -/
def execXor (d a : XReg) (b : SrcB) (s : State) : Res := s.alu d a b fun a b => a ^^^ b

/-- andn (R148). -/
def execAndn (d a : XReg) (b : SrcB) (s : State) : Res := s.alu d a b fun a b => a &&& ~~~b

/-- shl (R148). -/
def execShl (d a : XReg) (b : SrcB) (s : State) : Res := s.alu d a b fun a b => a <<< count6 b

/-- shr (R148). -/
def execShr (d a : XReg) (b : SrcB) (s : State) : Res := s.alu d a b fun a b => a >>> count6 b

/-- sar (R148). -/
def execSar (d a : XReg) (b : SrcB) (s : State) : Res := s.alu d a b fun a b => a.sshiftRight (count6 b)

/-- rol (R148). -/
def execRol (d a : XReg) (b : SrcB) (s : State) : Res := s.alu d a b fun a b => a.rotateLeft (count6 b)

/-- min (R148). -/
def execMin (d a : XReg) (b : SrcB) (s : State) : Res := s.alu d a b fun a b => if a.slt b then a else b

/-- max (R148). -/
def execMax (d a : XReg) (b : SrcB) (s : State) : Res := s.alu d a b fun a b => if a.slt b then b else a

/-- minn (R148). -/
def execMinn (d a : XReg) (b : SrcB) (s : State) : Res := s.alu d a b fun a b => if a < b then a else b

/-- maxn (R148). -/
def execMaxn (d a : XReg) (b : SrcB) (s : State) : Res := s.alu d a b fun a b => if a < b then b else a

/-- clz (R148). -/
def execClz (d a : XReg) (s : State) : Res := s.alu1 d a fun a => w64 (leadingZeros 64 a.toNat)

/-- ctz (R148). -/
def execCtz (d a : XReg) (s : State) : Res := s.alu1 d a fun a => w64 (trailingZeros 64 a.toNat)

/-- popc (R148). -/
def execPopc (d a : XReg) (s : State) : Res := s.alu1 d a fun a => w64 (popcount 64 a.toNat)

/-- sext8 (R148). -/
def execSext8 (d a : XReg) (s : State) : Res := s.alu1 d a fun a => (a.truncate 8).signExtend 64

/-- sext16 (R148). -/
def execSext16 (d a : XReg) (s : State) : Res := s.alu1 d a fun a => (a.truncate 16).signExtend 64

/-- sext32 (R148). -/
def execSext32 (d a : XReg) (s : State) : Res := s.alu1 d a fun a => (a.truncate 32).signExtend 64

/-- cmpEq (R148). -/
def execCmpEq (d a : XReg) (b : SrcB) (s : State) : Res := s.alu d a b fun a b => boolW (a == b)

/-- cmpNe (R148). -/
def execCmpNe (d a : XReg) (b : SrcB) (s : State) : Res := s.alu d a b fun a b => boolW (a != b)

/-- cmpLt (R148). -/
def execCmpLt (d a : XReg) (b : SrcB) (s : State) : Res := s.alu d a b fun a b => boolW (a.slt b)

/-- cmpLtn (R148). -/
def execCmpLtn (d a : XReg) (b : SrcB) (s : State) : Res := s.alu d a b fun a b => boolW (a.ult b)

/-- cmpLe (R148). -/
def execCmpLe (d a : XReg) (b : SrcB) (s : State) : Res := s.alu d a b fun a b => boolW (a.sle b)

/-- cmpLen (R148). -/
def execCmpLen (d a : XReg) (b : SrcB) (s : State) : Res := s.alu d a b fun a b => boolW (a.ule b)

/-- sel: x[a] if the old x[d] is not 0, else B (R148). -/
def execSel (d a : XReg) (b : SrcB) (s : State) : Res := s.seqSet d (if s.x d ≠ 0 then s.x a else s.b b)

/-- mov (R148). -/
def execMov (d : XReg) (b : SrcB) (s : State) : Res := s.seqSet d (s.b b)

/-- addi: imm14 sign-extended (R53, R150). -/
def execAddi (d a : XReg) (imm : BitVec 14) (s : State) : Res := s.alu1 d a fun x => x + imm.signExtend 64

/-- andi: imm14 zero-extended (R53, R150). -/
def execAndi (d a : XReg) (imm : BitVec 14) (s : State) : Res := s.alu1 d a fun x => x &&& imm.zeroExtend 64

/-- ori (R53, R150). -/
def execOri (d a : XReg) (imm : BitVec 14) (s : State) : Res := s.alu1 d a fun x => x ||| imm.zeroExtend 64

/-- xori (R53, R150). -/
def execXori (d a : XReg) (imm : BitVec 14) (s : State) : Res := s.alu1 d a fun x => x ^^^ imm.zeroExtend 64

/-- shl by an immediate count (R53, R150). -/
def execShlImm (d a : XReg) (n : BitVec 6) (s : State) : Res := s.alu1 d a fun x => x <<< n.toNat

/-- shr by an immediate count (R53, R150). -/
def execShrImm (d a : XReg) (n : BitVec 6) (s : State) : Res := s.alu1 d a fun x => x >>> n.toNat

/-- sar by an immediate count (R53, R150). -/
def execSarImm (d a : XReg) (n : BitVec 6) (s : State) : Res := s.alu1 d a fun x => x.sshiftRight n.toNat

/-- rol by an immediate count (R53, R150). -/
def execRolImm (d a : XReg) (n : BitVec 6) (s : State) : Res := s.alu1 d a fun x => x.rotateLeft n.toNat

/-- li (R150). -/
def execLi (d : XReg) (imm : BitVec 20) (s : State) : Res := s.seqSet d (imm.signExtend 64)

/-- lih: the low 12 bits of the old x[d] stay (R150). -/
def execLih (d : XReg) (imm : BitVec 20) (s : State) : Res :=
  s.seqSet d (((imm ++ (0 : BitVec 12)).signExtend 64) ||| (s.x d &&& 0xFFF))

/-- lif: the F32 of R53 in bits [31:0] (R150). -/
def execLif (d : XReg) (imm : BitVec 20) (s : State) : Res := s.seqSet d ((imm ++ (0 : BitVec 12)).zeroExtend 64)

end Sys2Proof.Machine
end

