-- ==== Sys2Proof/Machine/Flags.lean ====
section
/-!
DEFINITION. Status words and conditions: the machine has no condition flags (R72 to R79: no operation sets one); what
software tests are the words below, the event-counter conditions and the loop-level items (R46, R159, R160, R166).
-/

namespace Sys2Proof.Machine

/-- A condition on an event counter: 0 at least, 1 equal, 2 below (R41, R46, R159). -/
def condHolds (cond e imm : Nat) : Bool :=
  match cond with
  | 0 => decide (imm ≤ e)
  | 1 => decide (e = imm)
  | _ => decide (e < imm)

/-- The tokcnt register; a counter at 16 reads 15 (R166, R227). -/
def Strand.tokcnt (st : Strand) : W64 :=
  w64 (min st.lc 15 + 16 * min st.cl 15 + 256 * min st.cs 15 + 4096 * min st.sc 15)

/-- The qocc register (R166). -/
def Strand.qocc (st : Strand) : W64 :=
  w64 (st.lq.length + 256 * st.cq.length + 65536 * st.sq.length + 16777216 * st.ea.length)

/-- The extent of loop level `k`: 1 when absent (R122, R160). -/
def Placement.extent (p : Placement) (k : Nat) : Nat :=
  let e := bitsAt (p.loops.getD k 0).toNat 0 32
  if e = 0 then 1 else e

/-- The kind of loop level `k`: 0 temporal, 1 cores, 2 chips; none when absent (R122). -/
def Placement.kind (p : Placement) (k : Nat) : Option Nat :=
  let e := p.loops.getD k 0
  if bitsAt e.toNat 0 32 = 0 then none else some (bitsAt e.toNat 32 2)

/-- Product of the extents of the core levels below `k` (R123). -/
def Placement.below (p : Placement) : Nat → Nat
  | 0 => 1
  | k + 1 => p.below k * (if p.kind k = some 1 then p.extent k else 1)

/-- Temporal levels below `k` (R124). -/
def Placement.temporals (p : Placement) : Nat → Nat
  | 0 => 0
  | k + 1 => p.temporals k + (if p.kind k = some 0 then 1 else 0)

/-- Placements per chip: the product of the core-level extents (R123). -/
def Placement.count (p : Placement) : Nat := p.below 6

/-- The linear index of the placement, or in a task of the spawning placement (R160). -/
def State.linIndex (s : State) : Nat :=
  match s.me.tasks with
  | [] => s.myPlace.lin
  | t :: _ => t.place

/-- The coordinate of loop level `k` (R123, R160). -/
def State.levelCoord (s : State) (k : Nat) : Nat :=
  let p := s.myPlace
  match p.kind k with
  | none => 0
  | some 0 => if s.me.tasks.isEmpty then (s.me.rl (p.temporals k)).toNat % 2 ^ 32 else 0
  | some 1 => s.linIndex / p.below k % p.extent k
  | some _ => s.rank

/-- The item that a selector of idx names (R160). -/
def State.idxItem (s : State) (sel : Nat) : Option Nat :=
  let p := s.myPlace
  if sel ≤ 5 then some (s.levelCoord sel)
  else if 8 ≤ sel ∧ sel ≤ 13 then some (p.extent (sel - 8))
  else
    match sel with
    | 0x10 => some s.cur.strand
    | 0x11 => some p.nstrands
    | 0x12 => some (s.cur.core % 16)
    | 0x13 => some s.cur.core
    | 0x14 => some (s.cur.core / 16)
    | 0x15 => some s.rank
    | 0x16 => some s.winSize
    | 0x17 => some s.linIndex
    | 0x18 => some p.count
    | 0x19 => some p.tenant
    | 0x1A => some p.part
    | 0x1B => some (natOf (!s.me.tasks.isEmpty))
    | _ => none

/-- A special register as csrr reads it; none where unassigned (R164, R223). -/
def State.csr (s : State) (n : Nat) : Option W64 :=
  let st := s.me
  match n with
  | 0 => some (st.rl 0)
  | 1 => some (st.rl 1)
  | 2 => some (st.rl 2)
  | 3 => some (st.rl 3)
  | 4 => some (w64 st.join)
  | 5 => some st.tokcnt
  | 6 => some st.qocc
  | 7 => some s.myPlace.dline
  | 8 => some (match st.tasks with
    | [] => s.myPlace.start
    | t :: _ => t.start)
  | 0x10 => some st.rec_.cause
  | 0x11 => some st.rec_.bundle
  | 0x12 => some st.rec_.val
  | 0x13 => some st.rec_.resume
  | 0x14 => some st.rec_.stLq
  | 0x15 => some st.rec_.stCq
  | 0x16 => some st.rec_.stSq
  | 0x17 => some st.rec_.stEa
  | 0x18 => some st.rec_.ctl
  | 0x19 => some st.rec_.cyc
  | 0x1A => some st.rec_.scratch
  | 0x1B => some st.rec_.nrec
  | 0x1C => some st.rec_.keep
  | _ => none

/-- Write a special register; none where csrw raises 0x01 (R164, R165, R223). -/
def Strand.setCsr (st : Strand) (n : Nat) (v : W64) : Option Strand :=
  match n with
  | 0 => some (st.wl 0 v)
  | 1 => some (st.wl 1 v)
  | 2 => some (st.wl 2 v)
  | 3 => some (st.wl 3 v)
  | 0x13 => some { st with rec_ := { st.rec_ with resume := v } }
  | 0x18 => some { st with rec_ := { st.rec_ with ctl := v &&& 1 } }
  | 0x1A => some { st with rec_ := { st.rec_ with scratch := v } }
  | _ => none

end Sys2Proof.Machine
end

