-- ==== Sys2Proof/Machine/Known.lean ====
section
/-!
DEFINITION. Happens-before, as far as the read-only path depends on it: which stores, followed by a fence at device scope, happen
before what a strand does next (R106 to R108, R116, R139, R145).
-/

namespace Sys2Proof.Machine

/-- A strand of a placement as stores and what happens before them name it: node, linear index and hardware strand. -/
def State.self (s : State) (c h : Nat) : Nat × Nat × Nat := ((s.placement c).node, (s.placement c).lin, h)

/-- A strand as one that stores can be known to. -/
def State.knower (s : State) (c h : Nat) : Knower := .strand (s.placement c).node (s.placement c).lin h

/-- Add what is known; of one knower and one strand, the latest step counts. -/
def addKnown (l : List Known) (k : Known) : List Known :=
  let same : Known → Bool := fun o => decide (o.who = k.who) && decide (o.by_ = k.by_)
  if l.any fun o => same o && decide (k.upTo ≤ o.upTo) then l else k :: l.filter fun o => !same o

/-- What a strand has stored so far is known to `dst`, where some replaced value is on record that it tells of. -/
def State.learn (s : State) (by_ : Nat × Nat × Nat) (dst : Knower) : State :=
  if s.past.any fun p => decide (p.who = some by_) then { s with known := addKnown s.known { who := dst, by_ := by_, upTo := s.free } } else s

/-- What is known to `src` is known to `dst`. -/
def State.tell (s : State) (src dst : Knower) : State :=
  { s with known := ((s.known.filter fun k => decide (k.who = src)).map fun k => { k with who := dst }).foldl addKnown s.known }

/-- Nothing is known to `k` any more. -/
def State.forget (s : State) (k : Knower) : State := { s with known := s.known.filter fun o => !decide (o.who = k) }

/-- The last fence of a strand that has not completed, among those that `wide` picks out by their scope (R138, R209). -/
def Strand.openFence' (st : Strand) (wide : Scope → Bool) : Option Nat :=
  ((queues.flatMap fun q => st.queue q ++ st.replay q).filterMap fun e => match e.marker with
    | some (f, sc) => if wide sc then some f else none
    | none => none).max?

/-- The last fence of a strand that has not completed (R138, R209). -/
def Strand.openFence (st : Strand) : Option Nat := st.openFence' fun _ => true

/-- Whether a knower is an event counter of a strand. -/
def Knower.ctrOf (k : Knower) (w : Nat × Nat × Nat) : Bool :=
  match k with
  | .ctr n l h _ => decide ((n, l, h) = w)
  | _ => false

/-- Whether a knower is a strand, or one of its event or join counters. -/
def Knower.isOf (k : Knower) (w : Nat × Nat × Nat) : Bool :=
  match k with
  | .strand n l h => decide ((n, l, h) = w)
  | .joined n l h _ => decide ((n, l, h) = w)
  | _ => k.ctrOf w

/-- The event counters of a strand start anew. -/
def State.forgetCounters (s : State) (c h : Nat) : State := { s with known := s.known.filter fun o => !o.who.ctrOf (s.self c h) }

/-- A strand starts anew. -/
def State.forgetStrand (s : State) (c h : Nat) : State := { s with known := s.known.filter fun o => !o.who.isOf (s.self c h) }

/-- Scopes that contain the device (R95). -/
def Scope.device : Scope → Bool
  | .dev | .win | .sys => true
  | _ => false

/-- Scopes that contain the group (R95). -/
def Scope.hasGroup : Scope → Bool
  | .strand | .core => false
  | _ => true

/-- A release of a strand reaches `dst`; behind a fence at device scope that has not completed, with a vow (R106). -/
def State.release (s : State) (c h : Nat) (dst : Knower) : State :=
  let t := s.tell (s.knower c h) dst
  match (s.strand c h).openFence' Scope.device with
  | some f => { t with vows := t.vows ++ [{ by_ := s.self c h, fence := f, dst := dst }] }
  | none => t

/-- What is known to `src` passes to `dst`, which takes its place; where a fence of the releasing strand still stands open, the accesses
before it have been performed (R106). -/
def State.pass (s : State) (src dst : Knower) : State :=
  let (mine, rest) := s.vows.partition fun v => decide (v.dst = src)
  (((mine.foldl (fun (s : State) v => s.learn v.by_ src) { s with vows := rest }).tell src dst).forget src)

/-- An acquire of a strand: what is known to `src` is known to it (R106). -/
def State.acquire (s : State) (src : Knower) (c h : Nat) : State := s.tell src (s.knower c h)

/-- A fence of a strand has completed: what it stored before is known to it, where the scope contains the device, and to those that
wait for that; what an increment behind the fence carries is renewed (R105, R116, R139). -/
def State.fenceKnown (s : State) (c h f : Nat) (sc : Scope) : State :=
  let me := s.self c h
  let (mine, rest) := s.vows.partition fun v => decide (v.by_ = me) && decide (v.fence ≤ f)
  let t := if sc.device then (mine.foldl (fun (s : State) v => s.learn me v.dst) { s with vows := rest }).learn me (s.knower c h) else s
  let u := if sc = .strand then t else (t.forget (.fence false me.1 me.2.1 h)).tell (s.knower c h) (.fence false me.1 me.2.1 h)
  if sc.hasGroup then (u.forget (.fence true me.1 me.2.1 h)).tell (s.knower c h) (.fence true me.1 me.2.1 h) else u

/-- Whether a store happens before what a strand of a core does next, a fence at device scope between them (R116). -/
def State.knows (s : State) (c h : Nat) (p : Past) : Bool :=
  match p.who with
  | none => false
  | some w => decide (w.1 = (s.placement c).node) &&
      s.known.any fun k => decide (k.who = s.knower c h) && decide (k.by_ = w) && decide (p.stamp ≤ k.upTo)

end Sys2Proof.Machine
end

