-- ==== Sys2Proof/Machine/Events.lean ====
section
/-!
DEFINITION. Event counters: increments, their order after fences, and the waking of wfe (R136 to R139, R247).
-/

namespace Sys2Proof.Machine

/-- A nonzero increment from another source reaches a strand held by wfe, in a clk after its issue and not after its
limit: its counters of the waking clk (R247). -/
def Strand.wake (st : Strand) (cyc ctr : Nat) : Strand :=
  match st.wait with
  | .wfe d issue limit none _ =>
    if issue < cyc && (limit = 0 || decide (cyc ≤ issue + limit.toNat)) then
      { st with wait := .wfe d issue limit (some cyc) ((1 : BitVec 16) <<< ctr) }
    else st
  | .wfe d issue limit (some w) m =>
    if w = cyc then { st with wait := .wfe d issue limit (some w) (m ||| ((1 : BitVec 16) <<< ctr)) } else st
  | _ => st

/-- Add to an event counter, modulo 2^16 (R136). -/
def Strand.bump (st : Strand) (ctr : Nat) (amt : BitVec 16) : Strand := st.we ctr (st.re ctr + amt)

/-- Whether an increment can reach a strand of a core: the core holds a placement of the node, and the strand is one of
that placement's strands, or the strand that sends (R138, R144). -/
def State.reaches (s : State) (core strand node : Nat) (own : Bool) : Bool :=
  s.holdsNode core node && (own || decide (strand < (s.placement core).nstrands))

/-- An event counter of a strand as one that stores can be known to (R139). -/
def State.counter (s : State) (c h k : Nat) : Knower := .ctr (s.placement c).node (s.placement c).lin h k

/-- Apply an increment, with what it carries: discarded where the target strand holds no placement of the node; an own esig wakes no wfe
(R138, R139, R247). -/
def State.applyIncr (s : State) (i : Incr) : State :=
  if s.reaches i.core i.strand i.node i.ownSig then
    (s.pass (.mail i.tag) (s.counter i.core i.strand i.ctr)).modStrand i.core i.strand fun st =>
      let st' := st.bump i.ctr i.amt
      if i.ownSig || i.amt = 0 then st' else st'.wake s.cyc i.ctr
  else s.forget (.mail i.tag)

/-- Whether a strand has a request out that leaves its queue before it is performed (R355, R403). -/
def State.outstanding (s : State) (c h : Nat) : Bool :=
  (s.tmbs.any fun t => t.core == c && t.strand == h && !t.dead) ||
    s.fab.reqs.any fun r => r.core == c && r.strand == h && !r.dead && !r.isSig

/-- Whether every access of a strand that `earlier` picks out has been performed, requests sent from EA included
(R105, R106). -/
def State.performed (s : State) (c h : Nat) (earlier : Entry → Bool) : Bool :=
  (s.strand c h).performed earlier && !s.outstanding c h

/-- Whether every access that a strand issued before a mark of program order has been performed (R106, R145). -/
def State.performedTo (s : State) (c h mark : Nat) : Bool :=
  (s.strand c h).performed (fun e => decide (e.seq < mark)) &&
    !(s.tmbs.any fun t => t.core == c && t.strand == h && !t.dead && decide (t.seq < mark)) &&
    !s.fab.reqs.any fun r => r.core == c && r.strand == h && !r.dead && !r.isSig && decide (r.seq < mark)

/-- The scope of a fence whose markers stand in a strand's queues. -/
def Strand.fenceScope (st : Strand) (f : Nat) : Scope :=
  (st.lq.findSome? fun e => match e.marker with
    | some (g, sc) => if g = f then some sc else none
    | none => none).getD .strand

/-- What happens before an increment goes with it: the last fence of its strand whose scope holds the target (R139). -/
def State.fenceMail (s : State) (i : Incr) : State :=
  let me := s.self i.srcCore i.srcStrand
  s.tell (.fence (decide (i.core ≠ i.srcCore)) me.1 me.2.1 me.2.2) (.mail i.tag)

/-- A fence completes: its four markers leave; the increments that waited on it are released, and those of the strand
to itself apply in this clk (R138, R139, R209). -/
def State.fenceDone (s : State) (c h f : Nat) : State :=
  let s1 := s.fenceKnown c h f ((s.strand c h).fenceScope f)
  let mine : Incr → Bool := fun i => i.srcCore == c && i.srcStrand == h && i.fence == some f
  let s2 := (s1.increments.filter fun i => mine i && !i.ownSig).foldl State.fenceMail s1
  let t := s2.modStrand c h fun st => queues.foldl (fun st q => st.setQueue q (st.queue q).tail) st
  let own := t.increments.filter fun i => mine i && i.ownSig
  let rest := (t.increments.filter fun i => !(mine i && i.ownSig)).map fun i =>
    if mine i then { i with fence := none, due := s.cyc + 64 } else i
  own.foldl State.applyIncr { t with increments := rest }

/-- Whether an earlier increment of the list goes from the same strand to the same strand (R138). -/
def blockedBy (i : Incr) (before : List Incr) : Bool :=
  before.any fun j => j.srcCore == i.srcCore && j.srcStrand == i.srcStrand && j.core == i.core && j.strand == i.strand

/-- Whether an increment that may be applied has to be in this clk (R138). -/
def State.incrDue (s : State) : Bool :=
  s.increments.zipIdx.any fun p => p.1.fence.isNone && decide (p.1.due ≤ s.cyc) && !blockedBy p.1 (s.increments.take p.2)

/-- EVENT_INCREMENT_APPLY: the increment at this place of the list is applied, when no fence and no earlier increment
of the same strands holds it (R138). -/
def execEventIncrementApply (s : State) : Res :=
  match s.increments[s.arg.n]? with
  | none => .next s
  | some i =>
    if i.fence.isSome || blockedBy i (s.increments.take s.arg.n) then .next s
    else .next (State.applyIncr { s with increments := s.increments.eraseIdx s.arg.n } i)

/-- Send an increment from the executing strand: to itself at once, else as one to be applied; behind a fence that has
not completed, not before it completes (R138). -/
def State.sendIncr (s : State) (core strand ctr : Nat) (amt : BitVec 16) : State :=
  let own := core == s.cur.core && strand == s.cur.strand
  let i : Incr := { core := core, strand := strand, ctr := ctr, amt := amt, node := s.myPlace.node, srcCore := s.cur.core
                    srcStrand := s.cur.strand, fence := s.me.openFence, ownSig := own, due := s.cyc + 64, tag := s.free }
  if own && i.fence.isNone then s.applyIncr i
  else
    let t := if i.fence.isNone then s.fenceMail i else s
    { t with increments := t.increments ++ [i] }

/-- The target of an event target word: core and strand (R137, R144 for `task`, which promotes a narrow scope). -/
def State.eventTarget (s : State) (w : Nat) (task : Bool) : Nat × Nat :=
  let g := groupOf s.cur.core
  if task || bitsAt w 10 2 = 2 then (16 * g + bitsAt w 6 4, bitsAt w 4 2)
  else if bitsAt w 10 2 = 1 then (s.cur.core, bitsAt w 4 2)
  else (s.cur.core, s.cur.strand)

/-- esig (R137, R138). -/
def execEsig (a : XReg) (b : SrcB) (s : State) : Res :=
  let w := (s.x a).toNat
  let (c, h) := s.eventTarget w false
  if bitsAt w 13 51 ≠ 0 || bitsAt w 10 2 = 3 || !s.reaches c h s.myPlace.node (c == s.cur.core && h == s.cur.strand) then .next (s.raiseAtIssue 0x42 0)
  else
    let amt := (s.b b).truncate 16
    .next (s.issued.sendIncr c h (bitsAt w 0 4) amt)

/-- eset: the counter takes the value plus every increment applied in this clk (R136, R159). -/
def execEset (n : BitVec 4) (b : SrcB) (s : State) : Res :=
  let v := (s.b b).truncate 16
  .next ((s.issued.forget (s.counter s.cur.core s.cur.strand n.toNat)).modMe fun st =>
    st.we n.toNat (v + (st.re n.toNat - st.re0 n.toNat)))

/-- eget: the value at the start of the clk (R136, R159). -/
def execEget (d : XReg) (n : BitVec 4) (s : State) : Res :=
  let v := (s.me.re0 n.toNat).zeroExtend 64
  .next (s.issued.wx d v)

/-- A wait of a strand on an event counter completes: it observes the increments that the counter has taken (R139). -/
def State.observe (s : State) (c h k : Nat) : State := s.acquire (s.counter c h k) c h

/-- ewait: holds the next bundle until the counter satisfies its condition; cond 11 is illegal (R159, R171). -/
def execEwait (n : BitVec 4) (cond : BitVec 2) (b : SrcB) (s : State) : Res :=
  if cond = 3 then .next (s.raiseAtIssue 0x01 0)
  else
    let v := (s.b b).toNat % 65536
    if condHolds cond.toNat (s.me.re0 n.toNat).toNat v then .next (s.issued.observe s.cur.core s.cur.strand n.toNat)
    else .next (s.issued.modMe fun st => { st with wait := .ewait n.toNat cond.toNat v })

/-- wfe: holds the next bundle until an increment from elsewhere or a timeout (R247). -/
def execWfe (d : XReg) (b : SrcB) (s : State) : Res :=
  let v := s.b b
  .next (s.issued.modMe fun st => { st with wait := .wfe (s.lateDst d) s.cyc v none 0 })

/-- Whether a wfe that nothing woke has waited out its limit (R247). -/
def Strand.wfeDue (st : Strand) (cyc : Nat) : Bool :=
  match st.wait with
  | .wfe _ issue limit none _ => limit ≠ 0 && decide (issue + limit.toNat ≤ cyc)
  | _ => false

/-- WFE_TIMEOUT: at clk issue + B a wfe that nothing woke ends with x[d] := 0 (R247). -/
def execWfeTimeout (s : State) : Res :=
  let st := s.strand s.arg.core s.arg.strand
  match st.wait with
  | .wfe d issue limit none _ =>
    if limit ≠ 0 && issue + limit.toNat ≤ s.cyc then
      .next (s.modStrand s.arg.core s.arg.strand fun st => { st.wx d.toNat 0 with wait := .none })
    else .next s
  | _ => .next s

end Sys2Proof.Machine
end

