-- ==== Sys2Proof/Machine/Ctl.lean ====
section
/-!
DEFINITION. Control transfer, and the SEQ forms that read and write special state: idx, cyc, time, csrr, csrw, lit,
adda, the fences and trap (R105, R151 to R153, R160 to R165, R209, R243).
-/

namespace Sys2Proof.Machine

/-- Transfer control, from a bundle that has issued: the target is checked, and a failing one traps with the bundle's
effects in place (R49, R151). -/
def State.transfer (s : State) (T : W64) : State :=
  match s.target s.cur.core s.cur.strand false T with
  | (none, t) => t.modMe fun st => { st with pc := T }
  | (some (k, v), t) => t.raiseAfter k v

/-- The target of an SB form: H + 4 * sext(off20) (R49). -/
def State.sbTarget (s : State) (off : BitVec 20) : W64 := s.cur.entry.bundle + off.signExtend 64 * 4

/-- A conditional transfer (R151). -/
def State.branch (s : State) (taken : Bool) (off : BitVec 20) : Res :=
  if taken then .next (s.issued.transfer (s.sbTarget off)) else .next s.issued

/-- bc.z (R151). -/
def execBcZ (a : XReg) (off : BitVec 20) (s : State) : Res := s.branch (s.x a == 0) off

/-- bc.nz (R151). -/
def execBcNz (a : XReg) (off : BitVec 20) (s : State) : Res := s.branch (s.x a != 0) off

/-- bc.lt (R151). -/
def execBcLt (a : XReg) (off : BitVec 20) (s : State) : Res := s.branch (s.x a).msb off

/-- bc.ge (R151). -/
def execBcGe (a : XReg) (off : BitVec 20) (s : State) : Res := s.branch (!(s.x a).msb) off

/-- call: x[a] takes the address that sequential fetch would reach (R50, R151). -/
def execCall (a : XReg) (off : BitVec 20) (s : State) : Res :=
  .next ((s.issued.wx a s.cur.nextPc).transfer (s.sbTarget off))

/-- loop (R152). -/
def execLoop (n : BitVec 2) (off : BitVec 20) (s : State) : Res :=
  let v := (s.me.rl n.toNat).toNat
  let ext := v / 2 ^ 32
  let next := v % 2 ^ 32 + 1
  if next < ext then
    .next ((s.issued.modMe fun st => st.wl n.toNat (w64 (ext * 2 ^ 32 + next))).transfer (s.sbTarget off))
  else .next (s.issued.modMe fun st => st.wl n.toNat (w64 (ext * 2 ^ 32)))

/-- jr (R153). -/
def execJr (a : XReg) (b : SrcB) (s : State) : Res := .next (s.issued.transfer (s.x a + s.b b))

/-- ret (R153). -/
def execRet (a : XReg) (s : State) : Res := .next (s.issued.transfer (s.x a))

/-- idx (R160). -/
def execIdx (d : XReg) (sel : BitVec 6) (s : State) : Res :=
  match s.idxItem sel.toNat with
  | some n => s.seqSet d (w64 n)
  | none => .next (s.raiseAtIssue 0x01 0)

/-- cyc (R161). -/
def execCyc (d : XReg) (s : State) : Res := s.seqSet d s.cyc64

/-- time (R161). -/
def execTime (d : XReg) (s : State) : Res := s.seqSet d s.time

/-- csrr (R164). -/
def execCsrr (d : XReg) (n : BitVec 6) (s : State) : Res :=
  match s.csr n.toNat with
  | some v => s.seqSet d v
  | none => .next (s.raiseAtIssue 0x01 0)

/-- csrw (R164). -/
def execCsrw (n : BitVec 6) (b : SrcB) (s : State) : Res :=
  match s.me.setCsr n.toNat (s.b b) with
  | some _ =>
    let v := s.b b
    .next (s.issued.modMe fun st => (st.setCsr n.toNat v).getD st)
  | none => .next (s.raiseAtIssue 0x01 0)

/-- lit: the 32-bit word at a code address of a constant line (R121, R162). -/
def execLit (d a : XReg) (b : SrcB) (s : State) : Res :=
  let A := s.x a + s.b b
  if A.toNat % 4 ≠ 0 || 64 * s.myPlace.nlines ≤ A.toNat || wordIx A = 0 then .next (s.raiseAtIssue 0x06 0)
  else
    match s.line0 s.cur.core A with
    | (.error (k, v), t) => .next (t.raiseAtIssue k v)
    | (.ok l, t) =>
      if linkOwner (t.codeWord s.cur.core l 0) ≠ 5 then .next (t.raiseAtIssue 0x06 0)
      else t.seqSet d (sext64 32 (t.codeWord s.cur.core l (wordIx A)))

/-- adda: an address that wraps within the scratchpad (R163). -/
def execAdda (d a : XReg) (b : SrcB) (s : State) : Res := s.alu d a b fun a b => (a + b) &&& 0xFFFFF

/-- A fence issues: one marker in each queue, behind the bundle's own queue instructions (R105, R209). -/
def State.fence (s : State) (sc : Scope) : Res :=
  .next (s.issued.modMe fun st =>
    let m : Entry := { word := s.cur.entry.word, bundle := s.cur.entry.bundle, widx := s.cur.entry.widx, seq := st.seq - 1
                       ready := s.cyc + 1, marker := some (st.fences, sc) }
    { queues.foldl (fun st q => st.enqueue q m) st with fences := st.fences + 1 })

/-- fence.strand (R105). -/
def execFenceStrand (s : State) : Res := s.fence .strand
/-- fence.core (R105). -/
def execFenceCore (s : State) : Res := s.fence .core
/-- fence.group (R105). -/
def execFenceGroup (s : State) : Res := s.fence .group
/-- fence.dev (R105). -/
def execFenceDev (s : State) : Res := s.fence .dev
/-- fence.win (R105). -/
def execFenceWin (s : State) : Res := s.fence .win
/-- fence.sys (R105). -/
def execFenceSys (s : State) : Res := s.fence .sys

/-- trap: its bundle issues, then cause 0x07 with tval := B (R243, R483). -/
def execTrap (b : SrcB) (s : State) : Res := .next (s.issued.raiseAfter 0x07 (s.b b))

/-- Whether a pre-emption of a core's group is in flight (R236). -/
def State.preempting (s : State) (c : Nat) : Bool := s.fe.preempts.any fun p => p.group == groupOf c

/-- The strand waits until its queues are empty, checks tresume, leaves handler mode and runs catch-up; while its group
is being pre-empted, issue stops before catch-up (R236, R244). -/
def State.eretTry (s : State) : State :=
  let st := s.me
  let c := s.cur.core
  if !st.drained || s.outstanding c s.cur.strand then s
  else
    match s.target c s.cur.strand false st.rec_.resume with
    | (some (k, v), t) => t.modMe fun st => { st.raise s.cyc k s.cur.entry.widx 0 s.cur.entry.bundle v st.pc (st.seq - 1) with wait := .none }
    | (none, t) =>
      t.modMe fun st => if t.preempting c then { st with handler := false, wait := .none, stopped := true } else st.eretReturn t.cyc

/-- eret: outside handler mode it raises 0x08 (R244). -/
def execEret (s : State) : Res :=
  if !s.me.handler then .next (s.raiseAtIssue 0x08 0)
  else .next (State.eretTry (s.issued.modMe fun st => { st with wait := .eret }))

end Sys2Proof.Machine
end

