-- ==== Sys2Proof/Machine/Barrier.lean ====
section
/-!
DEFINITION. The barrier unit: declared sets, arrivals, completions, staggered deliveries and waits (R249 to R269).
-/

namespace Sys2Proof.Machine

/-! ### Sets -/

/-- Physical id of relative slot 0 (R250). -/
def setBase (w : Nat) : Nat := bitsAt w 0 8
/-- Depth d (R250). -/
def setDepth (w : Nat) : Nat := bitsAt w 8 4 + 1
/-- Scope: 0 core, 1 group, 2 device (R250). -/
def setScope (w : Nat) : Nat := bitsAt w 12 2
/-- Arrivals per completion (R250). -/
def setCount (w : Nat) : Nat := bitsAt w 16 12 + 1
/-- Release phases P (R250). -/
def relPhases (w : Nat) : Nat := bitsAt w 0 3 + 1
/-- Clk between phases (R250). -/
def relDelta (w : Nat) : Nat := bitsAt w 8 8

/-- The set and release words are legal (R250, R261, R269). -/
def setOk (sw rw : Nat) : Bool :=
  decide (bitsAt sw 14 2 = 0) && decide (bitsAt sw 28 36 = 0) && decide (setScope sw ≠ 3) &&
    decide (bitsAt rw 3 5 = 0) && decide (bitsAt rw 16 48 = 0) && !(decide (relPhases rw > 1) && decide (relDelta rw = 0)) &&
    decide (setBase sw + setDepth sw ≤ 256)

/-- A slot of a strand. -/
def Strand.bar (st : Strand) (i : Nat) : BarSlot := Map.get {} st.bars i

/-- Replace a slot of a strand. -/
def Strand.setBar (st : Strand) (i : Nat) (b : BarSlot) : Strand := { st with bars := Map.put st.bars i b }

/-- The offset of relative id `j` (R251). -/
def BarSlot.off (b : BarSlot) (j : Nat) : Nat := (b.rot + j) % setDepth b.setw

/-- Whether a slot's set contains a physical id (R253, R255). -/
def BarSlot.has (b : BarSlot) (p : Nat) : Bool :=
  b.valid && decide (setBase b.setw ≤ p) && decide (p < setBase b.setw + setDepth b.setw)

/-- Barrier forms are not permitted in a task or in handler mode (R260). -/
def State.barForbidden (s : State) : Bool := s.me.handler || !s.me.tasks.isEmpty

/-- The core or group that a narrow scope is tied to (R261). -/
def State.scopeHome (s : State) (sw : Nat) : Nat :=
  match setScope sw with
  | 0 => s.cur.core
  | 1 => groupOf s.cur.core
  | _ => 0

/-- The unit's answer to a declaration: a cause, or none (R261). -/
def State.bdeclCause (s : State) (i sw rw : Nat) : Option Nat :=
  let node := s.myPlace.node
  let ids := (List.range (setDepth sw)).map fun k => Map.get {} s.bars (setBase sw + k)
  let slot := s.me.bar i
  if !setOk sw rw then some 0x51
  else if ids.any fun b => b.node.isSome && b.node != some node then some 0x52
  else if ids.any (fun b => b.node.isSome) &&
      !(ids.all fun b => b.node.isSome && b.setw == sw && b.relw == rw && b.home == s.scopeHome sw) then some 0x53
  else if slot.valid && !(slot.setw == sw && slot.relw == rw) then some 0x53
  else none

/-- bdecl (R261). -/
def execBdecl (i : BitVec 2) (a : XReg) (b : SrcB) (s : State) : Res :=
  if s.barForbidden then .next (s.raiseAtIssue 0x56 0)
  else
    let sw := (s.x a).toNat
    let rw_ := (s.b b).toNat
    match s.bdeclCause i.toNat sw rw_ with
    | some k => .next (s.raiseAtIssue k 0)
    | none =>
      let claim : Map BarId → Nat → Map BarId := fun m k =>
        let p := setBase sw + k
        let old := Map.get {} m p
        if old.node.isSome then m
        else Map.put m p { node := some s.myPlace.node, setw := sw, relw := rw_, home := s.scopeHome sw }
      let t := { s.issued with bars := (List.range (setDepth sw)).foldl claim s.bars }
      .next (t.modMe fun st =>
        if (st.bar i.toNat).valid then st
        else st.setBar i.toNat { valid := true, setw := sw, relw := rw_ })

/-- badv: rotate the set of a slot (R262). -/
def State.badv (s : State) (i : Nat) : Res :=
  let b := s.me.bar i
  if s.barForbidden then .next (s.raiseAtIssue 0x56 0)
  else if !b.valid then .next (s.raiseAtIssue 0x54 0)
  else .next (s.issued.modMe fun st => st.setBar i { b with rot := (b.rot + 1) % setDepth b.setw })

/-- badv #0 (R262). -/
def execBadv0 (s : State) : Res := s.badv 0
/-- badv #1 (R262). -/
def execBadv1 (s : State) : Res := s.badv 1
/-- badv #2 (R262). -/
def execBadv2 (s : State) : Res := s.badv 2
/-- badv #3 (R262). -/
def execBadv3 (s : State) : Res := s.badv 3

/-- The checks of a form on relative id `j` of slot `i` (R260, R263, R264); of two that fail, the lower code is raised (R13). -/
def State.barCause (s : State) (i j : Nat) (arrives : Bool) : Option Nat :=
  let b := s.me.bar i
  if s.barForbidden then some 0x56
  else if !b.valid then some 0x54
  else if arrives && b.arr.getLsbD (b.off j) then some 0x50
  else if setDepth b.setw ≤ j then some 0x55
  else none

/-- An arrival: A[k] := 1, D[k] := 0, and the arrival goes to the unit (R256). -/
def State.arrive (s : State) (i j : Nat) (rel : Bool) : State :=
  let b := s.me.bar i
  let k := b.off j
  let one := (1 : BitVec 16) <<< k
  let t := s.modMe fun st => st.setBar i { b with arr := b.arr ||| one, del := b.del &&& ~~~one }
  let arr : BarArr := { core := s.cur.core, strand := s.cur.strand, id := setBase b.setw + k, rel := rel
                        seq := s.me.seq, node := s.myPlace.node, due := if rel then 0 else s.cyc + 64, tag := s.free }
  let u := if rel then t.release s.cur.core s.cur.strand (.mail s.free) else t
  { u with barArr := u.barArr ++ [arr] }

/-- A wait on offset `k` of slot `i` completes when D[k] = 1, and clears it (R264). -/
def Strand.barTake (st : Strand) (i k : Nat) : Option Strand :=
  let b := st.bar i
  if b.del.getLsbD k then some (st.setBar i { b with del := b.del &&& ~~~((1 : BitVec 16) <<< k), kept := false })
  else none

/-- A wait on offset `k` of slot `i` of a strand completes if it can: an acquire of what the arrivals released (R107, R112, R264). -/
def State.barEnds (s : State) (c h i k : Nat) : Option State :=
  ((s.strand c h).barTake i k).map fun st =>
    (s.acquire (.released (setBase (st.bar i).setw + k)) c h).setStrand c h st

/-- barv (R263). -/
def State.barv (s : State) (i j : Nat) (rel : Bool) : Res :=
  match s.barCause i j true with
  | some k => .next (s.raiseAtIssue k 0)
  | none => .next (s.issued.arrive i j rel)

/-- barv.rel (R263). -/
def execBarvRel (i : BitVec 2) (j : BitVec 4) (s : State) : Res := s.barv i.toNat j.toNat true

/-- barv.rlx (R263). -/
def execBarvRlx (i : BitVec 2) (j : BitVec 4) (s : State) : Res := s.barv i.toNat j.toNat false

/-- barw: holds the next bundle until D[k] = 1 (R264). -/
def execBarw (i : BitVec 2) (j : BitVec 4) (s : State) : Res :=
  match s.barCause i.toNat j.toNat false with
  | some k => .next (s.raiseAtIssue k 0)
  | none =>
    let k := (s.me.bar i.toNat).off j.toNat
    .next (match s.issued.barEnds s.cur.core s.cur.strand i.toNat k with
      | some t => t
      | none => s.issued.modMe fun st => { st with wait := .barw i.toNat k })

/-- bara: the arrival of barv.rlx, then the wait of barw on the same k (R264). -/
def execBara (i : BitVec 2) (j : BitVec 4) (s : State) : Res :=
  match s.barCause i.toNat j.toNat true with
  | some k => .next (s.raiseAtIssue k 0)
  | none =>
    let k := (s.me.bar i.toNat).off j.toNat
    .next ((s.issued.arrive i.toNat j.toNat false).modMe fun st => { st with wait := .bara i.toNat k })

/-- The status word of bstat (R265). -/
def BarSlot.status (b : BarSlot) : W64 :=
  if !b.valid then 0
  else w64 (b.setw % 2 ^ 14 + 2 ^ 16 * b.rot + 2 ^ 20 * b.arr.toNat + 2 ^ 36 * b.del.toNat + 2 ^ 63)

/-- bstat (R265). -/
def execBstat (d : XReg) (i : BitVec 2) (s : State) : Res :=
  if s.barForbidden then .next (s.raiseAtIssue 0x56 0) else s.seqSet d (s.me.bar i.toNat).status

/-! ### The unit -/

/-- The strands of a core that hold state. -/
def Core.strandNos (_ : Core) : List Nat := [0, 1, 2, 3]

/-- Whether a core holds a strand with a declared slot whose set contains an id (R253). -/
def Core.wantsId (k : Core) (p : Nat) : Bool :=
  k.strandNos.any fun h => (List.range 4).any fun i => ((k.strand h).bar i).has p

/-- Whether a saved core is a participant of an id (R267). -/
def SavedCore.wants (c : SavedCore) (node : Option Nat) (p : Nat) : Bool := node == some c.node && c.book.wantsId p

/-- A completion of id `p`: deliveries become due at the cores that hold a slot with it, each in its phase; where
participants are saved, it is pending for them (R252, R253, R267; log entry 103). -/
def State.complete (s : State) (p : Nat) : State :=
  let b := Map.get {} s.bars p
  let due := (s.cores.filter fun c => c.2.wantsId p).map fun c =>
    ({ core := c.1, id := p, clk := s.cyc + 1 + c.1 % 8 % relPhases b.relw * relDelta b.relw } : BarDue)
  let away := s.saved.any fun g => g.cores.any fun c => c.wants b.node p
  let note : SavedCore → SavedCore := fun c => if c.wants b.node p && !(c.pend.contains p) then { c with pend := c.pend ++ [p] } else c
  { (s.forget (.released p)).pass (.arrived p) (.released p) with
    bars := Map.put s.bars p { b with count := 0, pending := b.pending || away }, barDue := s.barDue ++ due
    saved := if away then s.saved.map fun g => { g with cores := g.cores.map note } else s.saved }

/-- One arrival counts on an id (R252). -/
def State.countArrival (s : State) (p : Nat) : State :=
  let b := Map.get {} s.bars p
  if b.count + 1 = setCount b.setw then s.complete p
  else { s with bars := Map.put s.bars p { b with count := b.count + 1 } }

/-- The place of remote arrivals in the order of one sclk: after those of strands (R252). -/
def remotePlace : Nat := 4096

/-- A remote arrival on id `p` for a node: counted, after those of strands that the unit takes in the same sclk, or discarded where
the node no longer holds the id (R252, R259). The answer says whether it was counted. -/
def State.remoteArrival (s : State) (p node : Nat) : Bool × State :=
  if (Map.get {} s.bars p).node = some node then (true, (s.countArrival p).servedAs unitBarrier remotePlace) else (false, s)

/-- Whether an arrival is eligible (R256). -/
def State.eligible (s : State) (a : BarArr) : Bool := !a.rel || s.performedTo a.core a.strand a.seq

/-- Whether the arrival at a place of the list can reach the unit: it is eligible, and those of its strand come in issue order (R256). -/
def State.arrives (s : State) (i : Nat) (a : BarArr) : Bool :=
  !((s.barArr.take i).any fun b => b.core == a.core && b.strand == a.strand && b.node == a.node) && s.eligible a

/-- The place of a strand's arrival among those that the unit takes in one sclk (R252). -/
def BarArr.place (a : BarArr) : Nat := 4 * a.core + a.strand

/-- Whether an arrival whose 64 clk are over is still to be counted, and comes before a place of the order of one sclk (R252). -/
def State.arrivalDue (s : State) (place : Nat) : Bool :=
  s.barArr.zipIdx.any fun p => p.1.due ≠ 0 && decide (p.1.due ≤ s.cyc) && s.arrives p.2 p.1 && decide (p.1.place < place)

/-- Whether the unit may take the arrival at a place of the list: in one sclk, those of cores and strands come in ascending order, and
none goes before one whose time is over (R252, R256). -/
def State.arrivalNext (s : State) (i : Nat) (a : BarArr) : Bool :=
  s.arrives i a && s.mayServe unitBarrier a.place && !s.arrivalDue a.place

/-- Whether a remote arrival has to wait: strand arrivals whose 64 clk are over come before it (R252). -/
def State.remoteHeld (s : State) : Bool := s.arrivalDue remotePlace

/-- BARRIER_ARRIVAL_COUNT: an eligible arrival is counted; one whose node no longer holds the id is discarded (R249, R252,
R256). -/
def execBarrierArrivalCount (s : State) : Res :=
  match s.barArr[s.arg.n]? with
  | none => .next s
  | some a =>
    if !s.arrivalNext s.arg.n a then .next s
    else
      let t := { s with barArr := s.barArr.eraseIdx s.arg.n }
      if (Map.get {} s.bars a.id).node = some a.node then
        .next (((t.pass (.mail a.tag) (.arrived a.id)).countArrival a.id).servedAs unitBarrier a.place)
      else .next (t.forget (.mail a.tag))

/-- Arrivals that have become eligible by the end of this clk are counted within 64 clk (R252). -/
def State.markArrivals (s : State) : State :=
  { s with barArr := s.barArr.map fun a => if a.due = 0 && s.eligible a then { a with due := s.cyc + 64 } else a }

/-- The cores with a delivery due by this clk, in ascending order (R253, R254). -/
def State.dueCores (s : State) : List Nat :=
  sortBy (fun a b => decide (a < b)) ((s.barDue.filter fun d => decide (d.clk ≤ s.cyc)).map fun d => d.core).eraseDups

/-- Deliver an id's completion to the slots of a strand that contain it: A[k] := 0, D[k] := 1 (R255). -/
def Strand.deliver (st : Strand) (p : Nat) : Strand :=
  (List.range 4).foldl (fun st i =>
    let b := st.bar i
    if b.has p then
      let one := (1 : BitVec 16) <<< (p - setBase b.setw)
      st.setBar i { b with arr := b.arr &&& ~~~one, del := b.del ||| one }
    else st) st

/-- Deliver an id's completion to a core (R255). -/
def State.deliverTo (s : State) (c p : Nat) : State :=
  s.modCore c fun k => k.strandNos.foldl (fun k h => k.setStrand h ((k.strand h).deliver p)) k

/-- Deliveries made in this clk so far (R254). -/
def State.delivered (s : State) : Nat := if s.barClk = s.cyc then s.barCount else 0

/-- Whether deliveries are still to be made in this clk: some core is due and fewer than 128 have received (R254). -/
def State.mustDeliver (s : State) : Bool := !s.dueCores.isEmpty && decide (s.delivered < 128)

/-- BARRIER_DELIVERY: a core receives what is due, in ascending core number, at most 128 cores in a clk (R253 to
R255). -/
def execBarrierDelivery (s : State) : Res :=
  let c := s.arg.core
  if s.dueCores.head? = some c && s.delivered < 128 then
    let (now, later) := s.barDue.partition fun d => d.core == c && decide (d.clk ≤ s.cyc)
    let t := { s with barDue := later, barClk := s.cyc, barCount := s.delivered + 1 }
    .next (now.foldl (fun s d => s.deliverTo c d.id) t)
  else .next s

/-- Clear the slots of a strand (R251, R268). -/
def Strand.clearBars (st : Strand) : Strand := { st with bars := [] }

/-- Release the ids of a node when its last placement on the chip has retired, with the arrivals on them that are not counted yet
(R249, R268; log entry 103). -/
def State.releaseIds (s : State) (node : Nat) : State :=
  { s with
    bars := s.bars.map fun p => if p.2.node = some node then (p.1, {}) else p
    barArr := s.barArr.filter fun a => a.node != node }

/-- Where the participants of a set of narrow scope are while they are saved: the placement, by its linear index, or the saved group, by its
partition and slot, beyond the numbers of cores and groups (R261). -/
def savedHome (scope lin part slot : Nat) : Nat := if scope = 0 then 2 ^ 32 + lin else 2 ^ 32 + 65536 * part + slot

/-- The ids of narrow scope that a core's strands have declared go with that core where it is saved, or resumes: `home` gives, by scope,
where they are tied to from then on, `old` where they are tied to now (R261). -/
def State.moveHomes (s : State) (node : Nat) (wants : Nat → Bool) (old home : Nat → Nat) : State :=
  { s with bars := s.bars.map fun p =>
      let k := setScope p.2.setw
      if p.2.node = some node && wants p.1 && decide (k ≤ 1) && decide (p.2.home = old k) then (p.1, { p.2 with home := home k }) else p }

end Sys2Proof.Machine
end

