-- ==== Sys2Proof/Machine/Kv.lean ====
section
/-!
DEFINITION. KV handles, the handle table, block grants and the handle instructions (R361 to R373).
-/

namespace Sys2Proof.Machine

/-! ### Handles and entries -/

/-- XOR of the first `n` two-bit groups of a handle (R362). -/
def handleXor (h : Nat) : Nat → Nat
  | 0 => 0
  | n + 1 => handleXor h n ^^^ bitsAt h (2 * n) 2

/-- A handle with its check field recomputed (R362). -/
def withCheck (h : Nat) : W64 := w64 (h % 2 ^ 62 + 2 ^ 62 * handleXor h 31)

/-- A handle with another bound (R370, R371). -/
def withBound (h : W64) (n : Nat) : W64 :=
  withCheck (h.toNat % 2 ^ 42 + 2 ^ 42 * (n % 65536) + 2 ^ 58 * bitsAt h.toNat 58 1)

/-- A handle's index (R362). -/
def hIndex (h : W64) : Nat := bitsAt h.toNat 0 20
/-- A handle's bound (R362). -/
def hBound (h : W64) : Nat := bitsAt h.toNat 42 16
/-- A handle's read-only flag (R362). -/
def hRo (h : W64) : Bool := h.getLsbD 58

/-- Address of an entry of the handle table (R363). -/
def kvEntryAddr (i : Nat) : Nat := handleBase + 64 * i

/-- A field of an entry of the handle table (R363). -/
def State.kvField (s : State) (i lo len : Nat) : Nat := bitsAt (s.devRead (kvEntryAddr i) 64) lo len

/-- Blocks appended to an entry (R363). -/
def State.kvLength (s : State) (i : Nat) : Nat := s.kvField i 32 16

/-- An entry's pool (R363). -/
def State.kvPool (s : State) (i : Nat) : W64 := w64 (s.kvField i 64 64)

/-- Address of the block-table entry of logical block `l` (R363). -/
def State.kvBlockAddr (s : State) (i l : Nat) : Nat := s.kvField i 128 64 + 4 * l

/-- Physical block of logical block `l` (R363, R365). -/
def State.kvBlock (s : State) (i l : Nat) : Nat := s.devRead (s.kvBlockAddr i l) 4

/-- Set the length of an entry. -/
def State.setKvLength (s : State) (i n : Nat) : State := s.devWrite (kvEntryAddr i + 4) (leBytes 2 n)

/-- The first failing reason of a handle for a tenant, 0 when it is valid; a table that cannot be read has reason 2 (R33, R364). -/
def State.kvReason (s : State) (tenant : Nat) (h : W64) : Nat :=
  let i := hIndex h
  if withCheck h.toNat ≠ h || bitsAt h.toNat 59 3 ≠ 0 then 1
  else if i = 0 || !s.deviceKey || s.kvField i 0 1 = 0 then 2
  else if bitsAt h.toNat 20 12 ≠ s.kvField i 4 12 then 3
  else if bitsAt h.toNat 32 10 ≠ s.kvField i 16 10 || bitsAt h.toNat 32 10 ≠ tenant then 4
  else 0

/-- Whether logical block `l` of a valid handle is reachable (R365). -/
def State.kvReach (s : State) (h : W64) (l : Nat) : Bool := decide (l < hBound h) && decide (l < s.kvLength (hIndex h))

/-- Bytes of an element of a KV format: BF16, F16, F8E4, F8E5 (R363). -/
def kvBytes (f : Nat) : Nat := if f < 2 then 2 else 1

/-- The number format of a KV format (R363). -/
def kvFmt (f : Nat) : FFmt :=
  match f with
  | 0 => .bf16
  | 1 => .f16
  | 2 => .f8e4
  | _ => .f8e5

/-! ### Pools -/

/-- A tenant's pool (R478). -/
def State.poolOf (s : State) (tenant : Nat) : W64 := w64 (s.tenantField tenant 32 8)
/-- Pool blocks a tenant may hold (R478). -/
def State.quotaOf (s : State) (tenant : Nat) : Nat := s.tenantField tenant 40 4
/-- Pool blocks granted to a tenant now (R478). -/
def State.heldOf (s : State) (tenant : Nat) : Nat := s.tenantField tenant 44 4

/-- Set the number of pool blocks granted to a tenant. -/
def State.setHeld (s : State) (tenant n : Nat) : State := s.devWrite (tenantBase + 64 * tenant + 44) (leBytes 4 n)

/-- The pool's layout has the shape that R361 states: its head dimension and block count, or none. -/
def State.poolShape (s : State) (tenant : Nat) (pool : W64) : Option (Nat × Nat) :=
  match s.desc tenant pool with
  | .error _ => none
  | .ok d =>
    match d.dims with
    | [a, b, c, e] =>
      if b.extent = 64 && c.extent = 2 && decide (a.extent % 16 = 0) && decide (a.extent ≤ 256) && decide (d.esize ≤ 1)
      then some (a.extent, e.extent) else none
    | _ => none

/-- Blocks of a tenant's pool that some core's cache or some handle of the tenant holds. -/
def State.kvTaken (s : State) (tenant b : Nat) : Bool :=
  (s.cores.any fun c => c.2.kvTenant == tenant && c.2.kvCache.contains b) ||
    (List.range (2 ^ 20)).any fun i => i ≠ 0 && s.kvField i 0 1 = 1 && s.kvField i 16 10 = tenant &&
      (List.range (s.kvLength i)).any fun l => s.kvBlock i l == b

/-- Return blocks to a tenant's pool. -/
def State.kvReturn (s : State) (tenant n : Nat) : State := s.setHeld tenant (s.heldOf tenant - n)

/-! ### The handle instructions -/

/-- The reason that a block table cannot be read: its tenant has no key (R33). -/
def State.tableReason (s : State) (tenant : Nat) : Nat := if Map.has s.keys tenant then 0 else 2

/-- kvalloc (R370). -/
def execKvalloc (d a : XReg) (b : SrcB) (s : State) : Res :=
  let h := s.x a
  let B := s.b b
  let tenant := s.myPlace.tenant
  let i := hIndex h
  let r := s.kvReason tenant h
  if r ≠ 0 then .next (s.issued.raiseAfter 0x79 (w64 r))
  else if hRo h || bitsAt B.toNat 4 60 ≠ 0 then .next (s.issued.raiseAfter 0x7D 0)
  else
    match s.myCore.kvCache with
    | [] =>
      let t := s.issued.modMe fun st => { st with refills := st.refills ||| (1 : BitVec 16) <<< (B.toNat % 16) }
      .next ((t.modMyCore fun k => { k with kvAsked := true }).wx d 0)
    | p :: ps =>
      let n := s.kvLength i
      if n = 65535 then .next (s.issued.raiseAfter 0x7D 0)
      else if s.tableReason tenant ≠ 0 then .next (s.issued.raiseAfter 0x79 (w64 (s.tableReason tenant)))
      else
        let t := (s.issued.devWrite (s.kvBlockAddr i n) (leBytes 4 p)).setKvLength i (n + 1)
        .next ((t.modMyCore fun k => { k with kvCache := ps }).wx d (withBound h (n + 1)))

/-- kvfree (R371). -/
def execKvfree (d a : XReg) (b : SrcB) (s : State) : Res :=
  let h := s.x a
  let B := s.b b
  let tenant := s.myPlace.tenant
  let i := hIndex h
  let r := s.kvReason tenant h
  let k := B.toNat
  let n := s.kvLength i
  if r ≠ 0 then .next (s.issued.raiseAfter 0x79 (w64 r))
  else if hRo h || 65536 ≤ k || n < k then .next (s.issued.raiseAfter 0x7D 0)
  else if k < n && s.tableReason tenant ≠ 0 then .next (s.issued.raiseAfter 0x79 (w64 (s.tableReason tenant)))
  else
    let back := ((List.range (n - k)).map fun j => s.kvBlock i (n - 1 - j))
    let room := 16 - s.myCore.kvCache.length
    let t := (s.issued.setKvLength i k).modMyCore fun c => { c with kvCache := (back.take room).reverse ++ c.kvCache }
    .next ((t.kvReturn tenant (back.drop room).length).wx d (withBound h k))

/-- kvchk (R372). -/
def execKvchk (d a : XReg) (s : State) : Res :=
  let h := s.x a
  let i := hIndex h
  let r := s.kvReason s.myPlace.tenant h
  let n := s.kvLength i
  let v := if r ≠ 0 then w64 r else w64 (2 ^ 16 * n + 2 ^ 32 * min (hBound h) n)
  .next (s.issued.wx d v)

end Sys2Proof.Machine
end

