-- ==== Sys2Proof/Machine/Order.lean ====
section
/-!
DEFINITION. The order that page kinds give a strand's accesses to translated memory across its queues (R97, R100 to R102, R169):
which bytes a queued access touches and of which kind, whether an earlier one holds it back, and what accesses under way still
have to do.
-/

namespace Sys2Proof.Machine

/-- Bytes that an access touches: their place, their number, and their page kind: 0 SO, 1 RC, 2 UN (R100, R274). -/
structure Touch where
  loc : Loc
  n : Nat
  kind : Nat
  deriving DecidableEq, Repr

/-- The bytes of one element, where it is resident. -/
def State.touchOf (s : State) (c : Nat) (d : Desc) (cs : List Int) (n : Nat) : List Touch :=
  match d.map cs with
  | none => []
  | some (tile, off) =>
    match (s.cached (tcOf c) d tile).1 with
    | .ok (some e) => [{ loc := s.place e off, n := n, kind := entKind e }]
    | _ => []

/-- The bytes at a flat pointer, from an aligned start. -/
def State.touchFlat (s : State) (c tenant : Nat) (ptr ref : W64) (off : Int) (n : Nat) : List Touch :=
  match s.desc tenant ref with
  | .error _ => []
  | .ok d => s.touchOf c d [((ptrCoord ptr : Int) + off) / (n : Int) * (n : Int)] n

/-- Which elements of the 256 bytes a vector access wants, from its lane enables (R205). -/
def wantElems (d : Desc) (m : W64) : List Bool :=
  (List.range (256 / d.ebytes)).map fun j =>
    m.getLsbD (j * d.ebytes / 4) || m.getLsbD ((j * d.ebytes + d.ebytes - 1) / 4)

/-- The elements of a vector access to a tensor that its lane mask enables (R205). -/
def State.touchVec (s : State) (c tenant : Nat) (ref : W64) (caps : List W64) (m : W64) : List Touch :=
  match s.desc tenant ref with
  | .error _ => []
  | .ok d =>
    let cs := caps.map fun x => x.toInt
    (wantElems d m).zipIdx.flatMap fun p =>
      if p.1 then s.touchOf c d ((cs.headD 0 + (p.2 : Int)) :: cs.tail) d.ebytes else []

/-- The mask register that a form of CQ or LQ writes (R175, R205). -/
def maskDst : Instr → Option Nat
  | .vcmpF32 md _ _ _ _ | .vcmpI32 md _ _ _ _ | .vcmpN32 md _ _ _ _ => some md.toNat
  | .mand md _ _ _ | .mor md _ _ _ | .mxor md _ _ _ | .mandn md _ _ _ => some md.toNat
  | .mnot md _ _ | .mmov md _ _ => some md.toNat
  | .ldg _ _ _ m _ => some m.toNat
  | _ => none

/-- Whether an entry writes a mask register. -/
def Entry.masks (e : Entry) (m : Nat) : Bool :=
  match decodeWord e.word.toNat e.lit with
  | .ok i => maskDst i == some m
  | .error _ => false

/-- The lanes that a queued access may find enabled: every lane while an earlier instruction may still write its mask (R101,
R175). -/
def State.queuedMask (s : State) (c h : Nat) (e : Entry) (m : Nat) : W64 :=
  let st := s.strand c h
  if m = 0 || (st.cq ++ st.rcq ++ st.lq ++ st.rlq).any fun x => !x.done && x.before e && x.masks m then BitVec.allOnes 64
  else ((st.win.filter fun w => w.mask && w.reg == m && decide (s.cyc < w.until_)).foldl (fun v w => v ||| w.old.truncate 64) (st.rm m))

/-- The width in bytes of an atomic (R208). -/
def amoWidth : Instr → Nat
  | .amoAdd _ _ w _ _ | .amoMin _ _ w _ _ | .amoMax _ _ w _ _ | .amoMinn _ _ w _ _ | .amoMaxn _ _ w _ _ => if w then 8 else 4
  | .amoAnd _ _ w _ _ | .amoOr _ _ w _ _ | .amoXor _ _ w _ _ | .amoSwap _ _ w _ _ | .amoCas _ _ w _ _ => if w then 8 else 4
  | _ => 8

/-- What a queued access to translated memory touches; pref takes no part (R207). -/
def State.touches (s : State) (c h : Nat) (e : Entry) : List Touch :=
  let tenant := (s.placement c).tenant
  match decodeWord e.word.toNat e.lit with
  | .error _ => []
  | .ok i =>
    match i with
    | .ldg _ _ _ m _ => s.touchVec c tenant e.tref e.caps (s.queuedMask c h e m.toNat)
    | .stg _ _ _ m _ => s.touchVec c tenant e.tref e.caps (s.queuedMask c h e m.toNat)
    | .ldro _ _ m off _ =>
      let p := e.caps.getD 0 0
      let lanes := (List.range 64).filter fun i => (s.queuedMask c h e m.toNat).getLsbD i
      lanes.flatMap fun i => s.touchFlat c tenant p e.tref ((offBytes 256 off).toInt + (4 * i : Nat)) 4
    | .rclaim _ _ _ | .rwait _ _ _ | .rstat _ _ _ | .rinit _ _ _ | .rfill _ _ _ | .rrel _ _ _ =>
      let ptr := e.caps.getD ((pointerCap i).getD 0) 0
      if ptr.getLsbD 63 then s.touchFlat c tenant ptr e.tref 0 256 else []
    | .tmbRlx _ _ _ | .tmbAcq _ _ _ | .tmbRel _ _ _ | .tmbTRlx _ _ _ | .tmbTAcq _ _ _ | .tmbTRel _ _ _ =>
      s.touchFlat c tenant (e.caps.getD 0 0) e.tref 0 256
    | .famo _ wide _ _ => s.touchFlat c tenant (e.caps.getD 0 0) e.tref 0 (if wide then 8 else 4)
    | _ =>
      match pointerCap i with
      | none => []
      | some k =>
        let off : Int := match e.lit with
          | none => 0
          | some w => w.toInt
        s.touchFlat c tenant (e.caps.getD k 0) e.tref off (amoWidth i)

/-- Whether two bytes ranges meet. -/
def Touch.meets (a b : Touch) : Bool :=
  (List.range a.n).any fun i => (List.range b.n).any fun j => a.loc.plus i == b.loc.plus j

/-- Whether an earlier access holds a later one back: both SO, or a byte in common and neither UN, or a byte in common and the
same queue (R101, R102). -/
def Touch.orders (same : Bool) (a b : Touch) : Bool :=
  (decide (a.kind = 0) && decide (b.kind = 0)) || ((same || (decide (a.kind ≤ 1) && decide (b.kind ≤ 1))) && a.meets b)

/-! ### Accesses under way -/

/-- The number of the 4-byte element that a place lies in: what engines write is old or new by such elements (R97, R110, R115). -/
def Loc.elemNo : Loc → Nat
  | .dev a => a / 4 * 4
  | .host a => a / 4 * 4 + 1
  | .peer c a => (a / 4 * 65536 + c) * 4 + 2
  | .sp c a => (a / 4 * 1024 + c) * 4 + 3

/-- Whether an element of engine work is still to be written, after the steps that wrote parts of it (R110). -/
def stillTo (half : List Nat) (l : Loc) : Bool := half.all fun n => !Config.freeElem n l.elemNo

/-- Whether engine work does all that is left of it in the step of a counter, or a part that a free choice picks (R110). -/
def wholeTurn (free : Nat) : Bool := !Config.freeElem free (2 ^ 80)

/-- The elements that engine work writes in the step of a counter (R110). -/
def turnPart (free : Nat) (half : List Nat) (l : Loc) : Bool := stillTo half l && (wholeTurn free || Config.freeElem free l.elemNo)

/-- The elements that engine work leaves new where it is cut short: old or new, each by a free choice (R115, R291). -/
def cutPart (free : Nat) (half : List Nat) (l : Loc) : Bool := stillTo half l && Config.freeElem free l.elemNo

/-- The bytes of an element that is still to be read. -/
def Src.locs : Src → List Loc
  | .at l n => (List.range n).map l.plus
  | _ => []

/-- The bytes that an access under way still has to store or load. -/
def Entry.rest (e : Entry) : List Loc := (e.later.flatten.map Prod.fst) ++ e.srcs.flatMap Src.locs

/-- What an access still has to touch: all of it before it is under way (R97). -/
def State.stillTouches (s : State) (c h : Nat) (e : Entry) : List Touch :=
  let all := s.touches c h e
  if e.rest.isEmpty then all else all.filter fun t => (List.range t.n).any fun i => e.rest.contains (t.loc.plus i)

/-- Whether an access to these bytes must wait for an earlier one of its queue that is under way (R101). -/
def State.behind (s : State) (ls : List Loc) : Bool :=
  (s.me.queue s.cur.unit).any fun x => x.underWay && x.before s.cur.entry && x.rest.any ls.contains

/-- Vector registers, and mask registers from 32 up, that an LQ form writes (R175). -/
def lqWrites : Instr → List Nat
  | .vlds v _ _ _ _ | .ldro v _ _ _ _ | .vldsg v _ _ _ _ => [v.toNat]
  | .ldg v _ _ m _ => v.toNat :: (if m = 0 then [] else [32 + m.toNat])
  | _ => []

/-- Vector registers, and mask registers from 32 up, that an LQ form reads. -/
def lqReads : Instr → List Nat
  | .vlds _ _ m _ _ | .ldro _ _ m _ _ | .ldg _ _ _ m _ => [32 + m.toNat]
  | .vldsg _ _ vi m _ => [vi.toNat, 32 + m.toNat]
  | _ => []

/-- Whether an LQ entry must wait for one under way before it that still writes a register which it writes or reads: LQ executes
in program order (R129). -/
def Strand.lqHazard (st : Strand) (e : Entry) : Bool :=
  match decodeWord e.word.toNat e.lit with
  | .error _ => false
  | .ok i => st.lq.any fun x => x.underWay && x.before e && match decodeWord x.word.toNat x.lit with
    | .ok j => (lqWrites j).any fun r => (lqWrites i).contains r || (lqReads i).contains r
    | .error _ => false

/-! ### epop among the stores of its strand (R169) -/

/-- Operand b of a queued entry, captured as scalar `k`. -/
def Entry.opB (e : Entry) (k : Nat) : W64 :=
  match e.lit with
  | some w => litVal w
  | none => e.caps.getD k 0

/-- The core and offset that a scratchpad address names. -/
def spPlace (c : Nat) (E : W64) : Loc := .sp (if E.getLsbD 24 then 16 * groupOf c + bitsAt E.toNat 20 4 else c) (E.toNat % 2 ^ 20)

/-- The runs of scratchpad bytes that a queued SQ entry stores to; a scatter whose index register may still be written counts for
the whole scratchpad. -/
def State.spRuns (s : State) (c h : Nat) (e : Entry) : List (Loc × Nat) :=
  let st := s.strand c h
  match decodeWord e.word.toNat e.lit with
  | .error _ => []
  | .ok i =>
    match i with
    | .sts _ _ size off _ => [(spPlace c (e.caps.getD 1 0 + offBytes (2 ^ size.toNat) off), 2 ^ size.toNat)]
    | .vsts _ _ m off _ =>
      let E := e.caps.getD 0 0 + offBytes 256 off
      ((List.range 64).filter fun k => (s.queuedMask c h e m.toNat).getLsbD k).map fun k => (spPlace c (E + w64 (4 * k)), 4)
    | .vstss _ _ vi m _ =>
      if (st.cq ++ st.rcq ++ st.lq ++ st.rlq).any fun x => !x.done && x.before e then [(.sp c 0, spSize)]
      else ((List.range 64).filter fun k => (s.queuedMask c h e m.toNat).getLsbD k).map fun k =>
        (.sp c ((e.caps.getD 0 0 + ((BitVec.ofNat 32 ((st.rv vi.toNat).toNat >>> (32 * k))).zeroExtend 64)) &&& 0xFFFFC).toNat, 4)
    | _ => []

/-- Whether two runs of bytes meet. -/
def runsMeet (a b : Loc × Nat) : Bool :=
  match a.1, b.1 with
  | .sp c x, .sp d y => c == d && decide (x < y + b.2) && decide (y < x + a.2)
  | _, _ => false

/-- Whether an EA word is epop. -/
def isEpop (w : W32) : Bool := decide (fld w.toNat 0 6 = 0x01)

/-- The bytes that an epop writes. -/
def Entry.popRun (c : Nat) (e : Entry) : Loc × Nat := (.sp c (e.opB 0).toNat, 128)

/-- Whether an epop waits for an earlier store of SQ to its bytes, or a store of SQ for an earlier epop: its write is ordered like
an SQ store (R101, R169). -/
def State.popHeld (s : State) (c h : Nat) (q : Unit5) (e : Entry) : Bool :=
  let st := s.strand c h
  match q with
  | .ea => isEpop e.word && (st.sq ++ st.rsq).any fun x =>
      !x.done && x.marker.isNone && x.before e && (s.spRuns c h x).any (runsMeet (e.popRun c))
  | .sq => (st.ea ++ st.rea).any fun x =>
      !x.done && x.marker.isNone && isEpop x.word && x.before e && (s.spRuns c h e).any (runsMeet (x.popRun c))
  | _ => false

/-! ### The data that a result element describes (R107, R387) -/

/-- The scratchpad ranges that an attention request writes: rows from a base up, and pairs (R375). -/
def attnRanges (q : BitVec 1024) (base : Nat) : List (Nat × Nat) :=
  let f := bitsAt q.toNat
  (List.range (f 8 6 + 1)).flatMap fun r =>
    (base + f 384 20 + r * f 416 16, 64 * (f 16 4 + 1)) :: (if f 3 1 = 1 then [(f 448 20 + 8 * r, 8)] else [])

/-- The requests of a core in its group's attention engine that have not ended, oldest first. -/
def State.coreRequests (s : State) (c : Nat) : List EngCmd :=
  let g := s.group (groupOf c)
  ((match g.attnRun with
    | some r => [r.cmd]
    | none => []) ++ g.attnIn).filter fun q => q.core == c

/-- Whether an EA word pushes a request to the attention engine. -/
def isAttnPush (w : W32) : Bool :=
  (decide (fld w.toNat 0 6 = 0) && decide (fld w.toNat 18 6 = 0)) || ([0x18, 0x19, 0x1A] : List Nat).contains (fld w.toNat 0 6)

/-- Whether an EA word waits for a result element of the attention engine. -/
def isAttnWait (w : W32) : Bool :=
  (isEpop w && decide (fld w.toNat 12 6 = 0)) || decide (fld w.toNat 0 6 = 0x1B)

/-- The requests of a strand that are still in its EA, as their bytes stand. -/
def Strand.unpushed (st : Strand) (sp : Mem) (c h : Nat) : List EngCmd :=
  ((st.ea ++ st.rea).filter fun x => !x.done && x.marker.isNone && isAttnPush x.word).map fun x =>
    { core := c, strand := h, tag := (x.opB 1).toNat % 65536, seq := x.seq, data := BitVec.ofNat 1024 (leNat (Mem.read sp (x.caps.getD 0 0).toNat 128)) }

/-- Where the slot of a ring lies that a request lands in: the one that it names, or has claimed, or, of those that still have to claim
one, the slot that falls to it when those before it have claimed theirs (R375, R387). -/
def State.attnSlotAt (s : State) (c : Nat) (before : List EngCmd) (q : EngCmd) : Nat :=
  let f := bitsAt q.data.toNat
  let r : Ring := Map.get {} (s.core c).rings (f 22 4)
  let claims : EngCmd → Bool := fun p => p.slot.isNone && decide (bitsAt p.data.toNat 20 2 = 1) && decide (bitsAt p.data.toNat 22 4 = f 22 4)
  match f 20 2 with
  | 0 => 0
  | 1 => r.base + (match q.slot with
    | some k => k
    | none => (r.tail + (before.filter claims).length) % (r.cnt + 1)) * r.stride
  | _ => r.base + f 26 6 * r.stride

/-- What the waiters of a strand take, the oldest first: epop the oldest element or request, attw the oldest of its tag. -/
def takenBy (ws : List (Option Nat)) (l : List (Nat × List (Nat × Nat))) : List (List (Nat × Nat)) :=
  match ws with
  | [] => []
  | w :: ws' =>
    let i := l.findIdx fun x => match w with
      | none => true
      | some tag => x.1 == tag
    (l[i]?.map Prod.snd).toList ++ takenBy ws' (l.eraseIdx i)

/-- Whether an access to scratchpad bytes must wait for an earlier attw or epop of its strand, which acquires the data that its
element describes: that of an element in the result FIFO is there, that of a request is not, and a request that still stands in EA
behind accesses that are not performed may yet describe any bytes (R107, R169, R385). -/
def State.awaits (s : State) (c h : Nat) (e : Entry) (lo n : Nat) : Bool :=
  let st := s.strand c h
  let ws := (st.ea ++ st.rea).filter fun x => !x.done && x.marker.isNone && x.before e && isAttnWait x.word
  !ws.isEmpty &&
    (let ready := ((s.group (groupOf c)).attnOut.filter fun r => r.core == c && r.strand == h).map fun r => (r.tag, ([] : List (Nat × Nat)))
     let queued := s.coreRequests c
     let all := queued ++ st.unpushed (s.core c).sp c h
     let open_ : EngCmd → Bool := fun q => !st.performed fun x => decide (x.seq < q.seq)
     let asked := (all.zipIdx.filter fun p => p.1.strand == h).map fun p =>
       (p.1.tag, if decide (queued.length ≤ p.2) && open_ p.1 then [(0, spSize)] else attnRanges p.1.data (s.attnSlotAt c (all.take p.2) p.1))
     let tags := ws.map fun x => if isEpop x.word then none else some ((x.opB 0).toNat % 65536)
     (takenBy tags (ready ++ asked)).any fun l => l.any fun r => decide (lo < r.1 + r.2) && decide (r.1 < lo + n))

/-! ### Holding an access back -/

/-- The place of a byte of a request in the fabric router. -/
def reqLoc (p : Nat × Nat) : Loc := if p.1 = 0 then .dev p.2 else .peer (p.1 - 1) p.2

/-- What a famo request that is on its way touches (R403). -/
def FabReq.touch (r : FabReq) : List Touch :=
  match r.places with
  | [] => []
  | p :: _ => [{ loc := reqLoc p, n := r.width, kind := r.kind }]

/-- The output port of the path to a rank (R479). -/
def State.portOf (s : State) (rank : Nat) : Nat := bitsAt (s.fab.routes.getD rank 0) 0 6

/-- Whether the link on the path to a rank has been told to stop on a virtual channel (R397). -/
def State.vcStopped (s : State) (rank vc : Nat) : Bool := decide (rank ≠ s.rank) && s.fab.stopped.contains (s.portOf rank, vc)

/-- Whether an access to a place must wait because it would send a request on a stopped link (R397). -/
def State.placeHeld (s : State) : Loc → Bool
  | .peer c _ => s.vcStopped c 0
  | _ => false

/-- Whether an access must wait because it would send a request on a stopped link (R397). -/
def State.flowHeld (s : State) (l : List Touch) : Bool := l.any fun t => s.placeHeld t.loc

/-- Whether an access must wait for an earlier one of its strand that page kinds order before it: one in another queue, one of its
own queue that is under way, or a request that has left EA (R101, R102, R355, R403). -/
def State.orderHeld (s : State) (c h : Nat) (q : Unit5) (e : Entry) (mine : List Touch) : Bool :=
  let st := s.strand c h
  let queued := queues.any fun p => (st.queue p ++ st.replay p).any fun x =>
    !x.done && x.marker.isNone && (p != q || x.underWay) && isAccess p x.word && x.before e &&
      (s.stillTouches c h x).any fun a => mine.any (a.orders (p == q))
  let out := s.tmbs.any fun t => t.core == c && t.strand == h && !t.dead &&
    (s.touchFlat c (s.placement c).tenant t.ptr t.tref 0 256).any fun a => mine.any (a.orders (q == .ea))
  let sent := s.fab.reqs.any fun r => r.core == c && r.strand == h && !r.isSig && !r.dead && r.touch.any fun a => mine.any (a.orders (q == .ea))
  queued || out || sent

/-- The place of a strand among those whose accesses a slice serves in one sclk (R345). -/
def strandRank (c h : Nat) : Nat := 4 * c + h

/-- Whether the accesses of a queue are performed in its turns, and not sent as requests. -/
def servesAtOnce (q : Unit5) : Bool := q == .lq || q == .sq

/-- Whether an access must wait before it begins: for an earlier one of its strand, for its link, or for the sclk in which others have
come before it at its line (R101, R102, R129, R169, R345, R397). -/
def State.heldBack (s : State) (c h : Nat) (q : Unit5) (e : Entry) : Bool :=
  if !isAccess q e.word then false
  else if (q == .lq && (s.strand c h).lqHazard e) || s.popHeld c h q e then true
  else
    let mine := s.touches c h e
    !mine.isEmpty && (s.flowHeld mine || (servesAtOnce q && s.sliceHeld (strandRank c h) (mine.map Touch.loc)) || s.orderHeld c h q e mine)

end Sys2Proof.Machine
end

