-- ==== Sys2Proof/Machine/Queue.lean ====
section
/-!
DEFINITION. The turn of a queue's head: fence markers, tokens, CQ pacing and completion, and the hand-over of the
entry that begins (R104, R129, R134, R173, R209, R233, R234).
-/

namespace Sys2Proof.Machine

/-- Hand an entry over to `exec`: the step decodes its word and runs it. -/
def State.handOver (s : State) (c h : Nat) (q : Unit5) (e : Entry) : State :=
  { s with slot := true, cur := { core := c, strand := h, unit := q, entry := e } }

/-- Whether the head of each of the four queues is the marker of fence `f` (R209). -/
def Strand.fenceReady (st : Strand) (f : Nat) : Bool :=
  queues.all fun q => match st.queue q with
    | e :: _ => (match e.marker with
      | some (g, _) => g == f
      | none => false)
    | [] => false

/-- The first CQ entry that has not completed its dispatch, if it has begun or no entry waits on a push (R134). -/
def firstUndispatched (l : List Entry) : Option Entry :=
  (l.find? fun e => !e.done && e.until_.isNone).filter fun e => e.begun || !l.any Entry.done

/-- Whether a CQ entry has completed: its bound has passed, or only a push is left (R134). -/
def Entry.past (e : Entry) (cyc : Nat) : Bool :=
  e.done || (match e.until_ with
    | some u => decide (u ≤ cyc)
    | none => false)

/-- Complete the entries of a queue that wait for nothing but their pushes, and the dispatched ones of CQ whose bound has passed,
each by itself: its pushes, and it leaves, or stays done while a push waits (R134, R176). -/
def retireList (q : Unit5) (cyc : Nat) (st : Strand) : List Entry → Strand × List Entry
  | [] => (st, [])
  | e :: es =>
    if e.past cyc then
      match st.push q e with
      | (st', e', all) =>
        let (t, l) := retireList q cyc st' es
        (t, if all then l else { e' with until_ := none } :: l)
    else
      let (t, l) := retireList q cyc st es
      (t, e.overtaken q st t :: l)

/-- Completed entries of a queue leave it (R134). -/
def Strand.retire (st : Strand) (q : Unit5) (cyc : Nat) : Strand :=
  let (t, l) := retireList q cyc st (st.queue q)
  t.setQueue q l

/-- The clk at which a CQ entry may dispatch: after its issue, at the issue distance from the one before, and for a
re-entered entry and the first one issued after catch-up not before the previous dispatch plus its bound (R173, R196, R233). -/
def Strand.cqReady (st : Strand) (e : Entry) : Nat :=
  max e.ready (st.lastDisp + if e.spaced then max st.lastL e.gap else e.gap)

/-- Whether a CQ word is a vector form, which the core's vector unit executes. -/
def isVector (w : W32) : Bool := decide (0x30 ≤ fld w.toNat 25 7) && decide (fld w.toNat 25 7 ≤ 0x58)

/-- Whether a CQ word is an MX form, which the core's array executes. -/
def isMatrix (w : W32) : Bool := decide (0x60 ≤ fld w.toNat 25 7)

/-- The strands of a core in round-robin order, from after `last`. -/
def rrOrder (last : Nat) : List Nat := (List.range 4).map fun i => (last + 1 + i) % 4

/-- Whether a strand's next CQ entry is a vector form that may dispatch now (R172, R441; log entry 101). -/
def State.vuReady (s : State) (c h : Nat) : Bool :=
  let st := s.strand c h
  match firstUndispatched st.cq with
  | none => false
  | some e => e.marker.isNone && !e.skip && isVector e.word && decide (st.cqReady e ≤ s.cyc) &&
      (e.begun || st.canPop (popsOf .cq (tokOf .cq e.word))) && (!(st.trapped || st.stopped) || (st.inQop && !st.cq.any Entry.faulted))

/-- Whether the vector unit takes this strand's entry now: it is free, and the strand is first in round-robin order
among those that are ready (R172). -/
def State.vuGrants (s : State) (c h : Nat) : Bool :=
  decide ((s.core c).vuFree ≤ s.cyc) && (rrOrder (s.core c).vuLast).find? (s.vuReady c) == some h

/-- Whether the array holds an MX entry of a strand back: another form occupies it, or a grant was made in this clk, after which the
new holder's forms, and requests, come in the next (R321, R324). An entry that has dispatched already waits for nothing here. -/
def Core.arrayHolds (k : Core) (h cyc : Nat) (e : Entry) : Bool :=
  !e.parked && (decide (cyc < k.arrayFree) ||
    (k.haspHolder.isSome && decide (cyc < k.haspFree) && (k.haspHolder == some h || decide (fld e.word.toNat 25 7 = 0x73))))

/-- Dispatch the executing CQ entry: it completes by its latency bound (R173, R174). -/
def State.dispatched (s : State) (L : Nat) : State :=
  s.modMe fun st =>
    { st with cq := modUndispatched (fun e => { e with until_ := some (s.cyc + L) }) st.cq, lastDisp := s.cyc, lastL := L }

/-- The entry of CQ that acts in a turn: the next one to dispatch, or a form of the array that has put off accesses to its operand, as a
free choice has it, and before its window ends (R320). -/
def cqActor (free cyc last : Nat) (l : List Entry) : Option Entry :=
  match l.find? Entry.underWay, firstUndispatched l with
  | some x, some e => if last ≤ cyc + 1 || Config.freeElem free (2 ^ 64) then some x else some e
  | x, e => x.or e

/-- The turn of CQ: entries past their bound complete, and the next one dispatches when its tokens and its pacing let
it (R134, R172, R173). -/
def State.headCq (s : State) (c h : Nat) : State :=
  let s1 := s.modStrand c h fun st => st.retire .cq s.cyc
  let st := s1.strand c h
  match cqActor s1.free s1.cyc (s1.core c).arrayFree st.cq with
  | none => s1
  | some e =>
    if e.underWay then s1.handOver c h .cq e else
    match e.marker with
    | some (f, _) => if st.fenceReady f && !s1.outstanding c h then s1.fenceDone c h f else s1
    | none =>
      let pops := popsOf .cq (tokOf .cq e.word)
      if !e.parked && (s1.cyc < st.cqReady e || (isAccess .cq e.word && st.acquiring .cq e)) then s1
      else if !e.begun && !st.canPop pops then s1
      else if isVector e.word && !e.skip && !s1.vuGrants c h then s1
      else if isMatrix e.word && !e.skip && (s1.core c).arrayHolds h s1.cyc e then s1
      else
        let e' := { e with begun := true }
        let s2 := s1.modStrand c h fun st =>
          let st' := if e.begun then st else st.pop pops
          { st' with cq := modUndispatched (fun _ => e') st'.cq }
        if e.skip then
          s2.modStrand c h fun st => { st with cq := modUndispatched (fun x => { x with until_ := some s.cyc }) st.cq }
        else s2.handOver c h .cq e'

/-- The clk from which a queue may begin another instruction: LQ and SQ begin one per clk (R129). -/
def Strand.beginAt (st : Strand) : Unit5 → Nat
  | .lq => st.lqAt
  | .sq => st.sqAt
  | _ => 0

/-- A queue begins an instruction in this clk (R129). -/
def Strand.began (st : Strand) (q : Unit5) (cyc : Nat) : Strand :=
  match q with
  | .lq => { st with lqAt := cyc + 1 }
  | .sq => { st with sqAt := cyc + 1 }
  | _ => st

/-- The entry of LQ, SQ or EA that acts in a turn: the next one to begin, unless an entry waits on its pushes, or one that is
under way, as a free choice has it (R97, R108, R129). -/
def actor (free : Nat) (l : List Entry) : Option Entry :=
  let going := l.filter Entry.underWay
  let next := if l.any fun e => e.done then none else l.find? fun e => !e.underWay
  let one := (going.find? fun e => Config.freeElem free e.seq).or going.head?
  if going.isEmpty then next
  else if next.isSome && Config.freeElem free (2 ^ 64) then next
  else one

/-- A skipped entry is passed: a coll among them counts as one that precedes what follows (R234, R401). -/
def Strand.passed (st : Strand) (q : Unit5) (e : Entry) : Strand :=
  if q = .ea && fld e.word.toNat 0 6 = 0x20 then { st with colls := st.colls + 1 } else st

/-- Hand an access of LQ, SQ or EA over to `exec`; slices serve it at its lines in this sclk (R345). -/
def State.access (s : State) (c h : Nat) (q : Unit5) (e : Entry) : State :=
  (if servesAtOnce q then s.sliceServed (strandRank c h) ((s.stillTouches c h e).map Touch.loc) else s).handOver c h q e

/-- Whether an access under way must wait for the next sclk, in which its slices serve it (R345). -/
def State.sliceWaits (s : State) (c h : Nat) (q : Unit5) (e : Entry) : Bool :=
  servesAtOnce q && s.sliceHeld (strandRank c h) ((s.stillTouches c h e).map Touch.loc)

/-- The turn of LQ, SQ or EA: done entries make their pushes; a marker waits for its fence; an access under way goes on; another
entry begins when its tokens let it, popping once (R129, R134, R209, R233). -/
def State.headMem (s0 : State) (c h : Nat) (q : Unit5) : State :=
  let s := s0.modStrand c h fun st => st.retire q s0.cyc
  let st := s.strand c h
  match actor s.free (st.queue q) with
  | none => s
  | some e =>
    match e.marker with
    | some (f, _) => if st.fenceReady f && !s.outstanding c h then s.fenceDone c h f else s
    | none =>
      let pops := popsOf q (tokOf q e.word)
      if e.underWay then (if s.sliceWaits c h q e then s else s.access c h q e)
      else if s.cyc < e.ready || (isAccess q e.word && st.acquiring q e) || s.heldBack c h q e then s
      else if !e.begun && (!st.canPop pops || s.cyc < st.beginAt q) then s
      else
        let e' := { e with begun := true }
        let s1 := s.modStrand c h fun st =>
          let st' := if e.begun then st else (st.pop pops).began q s.cyc
          st'.setQueue q (modSame e (fun _ => e') (st'.queue q))
        if e.skip then s1.modStrand c h fun st => (st.passed q e).finishEntry q e else s1.access c h q e'

/-- What still acts in a queue of a stopped strand: an access under way, and fwin at the head of EA when a pre-emption has
stopped it (R225, R414). -/
def Strand.stoppedActor (st : Strand) (q : Unit5) : Option Entry :=
  match (st.queue q).find? Entry.underWay with
  | some e => some e
  | none => if q = .ea then st.headFwin else none

/-- The cores that hold a placement of a node, in ascending order. -/
def State.coresOf (s : State) (node : Nat) : List Nat :=
  (s.cores.filter fun p => match p.2.place with
    | some q => q.node == node
    | none => false).map Prod.fst

/-- Why a stopped strand's node ends: the cause of its records, and the original cause beside 0xA1 (R230). -/
def Strand.endCause (st : Strand) (trapentry : Nat) : Option (Nat × Nat) :=
  let k := st.rec_.cause.toNat % 256
  if !st.trapped then none
  else if st.handler then some (0xA1, k)
  else if 0xA0 < k || trapentry = 0 then some (k, 0)
  else none

/-- Whether a core's node ends: its termination is under way, or some strand of it has raised, in an earlier clk, a cause that ends
the node (R232). -/
def State.nodeEnding (s : State) (c : Nat) : Bool :=
  let p := s.placement c
  (s.ending.any fun e => e.node == p.node) ||
    (s.coresOf p.node).any fun d => ([0, 1, 2, 3] : List Nat).any fun h =>
      let st := s.strand d h
      (st.endCause p.trapentry).isSome && decide (st.rec_.cyc.toNat < s.cyc)

/-- The turn of a queue's head. A strand whose issue a trap has stopped begins nothing more (R225), except before a
qlaunch or qpatch that waits for it (R441); a head that has raised a cause stays. An access under way completes. -/
def State.turn (s : State) (c h : Nat) (q : Unit5) : State :=
  let st := s.strand c h
  let failed := (st.queue q).any Entry.faulted
  if ((st.trapped || st.stopped) && (!st.inQop || failed)) || (s.nodeEnding c && !st.inQop) then
    let t := s.modStrand c h fun st => st.retire q s.cyc
    match (t.strand c h).stoppedActor q with
    | some e => if s.cyc < e.ready || s.sliceWaits c h q e then t else t.access c h q e
    | none => t
  else
    match q with
    | .cq => s.headCq c h
    | .seq => s
    | _ => s.headMem c h q

end Sys2Proof.Machine
end

