-- ==== Sys2Proof/Machine/Rings.lean ====
section
/-!
DEFINITION. Rings: local rings held in their core, global rings held in a control line, their operations and waiters,
and the ring forms (R210 to R219).
-/

namespace Sys2Proof.Machine

/-! ### Flat pointers -/

/-- The bytes that a flat pointer names, with the checks of R204 in their order: reserved bits, alignment, reference
and layout, shape, translation, and, where the form asks for it, a home in this chip's GDDR7. -/
def State.flatAt (s : State) (c tenant : Nat) (ptr ref : W64) (off : Int) (align n : Nat) (store homed : Bool) :
    Except Nat (List Loc) × State :=
  let a := (ptrCoord ptr : Int) + off
  if bitsAt ptr.toNat 52 12 ≠ 0 then (.error 0x23, s)
  else if a % (align : Int) ≠ 0 then (.error 0x21, s)
  else
    match s.flatBytes (tcOf c) tenant ref a n store with
    | (.error k, t) => (.error k, t)
    | (.ok ls, t) => if homed && !ls.all Loc.isDev then (.error 0x24, t) else (.ok ls, t)

/-! ### Naming, reading and writing a ring -/

/-- The ring that a ring word names (R210); the error is the cause. -/
def State.ringOf (s : State) (c tenant : Nat) (w ref : W64) (store : Bool) : Except Nat RingName × State :=
  if w.getLsbD 63 then
    if bitsAt w.toNat 52 11 ≠ 0 then (.error 0x49, s)
    else
      match s.flatAt c tenant (w64 (w.toNat % 2 ^ 52)) ref 0 256 256 store true with
      | (.error k, t) => (.error (if k = 0x21 || k = 0x23 || k = 0x24 then 0x49 else k), t)
      | (.ok ls, t) => (.ok (.global (match ls with
        | l :: _ => l.addr
        | [] => 0)), t.touch ls)
  else if bitsAt w.toNat 4 59 ≠ 0 then (.error 0x49, s)
  else (.ok (.local c (w.toNat % 16)), s)

/-- Slots of a ring. -/
def Ring.count (r : Ring) : Nat := r.cnt + 1

/-- State of a slot. -/
def Ring.slot (r : Ring) (k : Nat) : Nat := Map.get 0 r.slots k

/-- Set the state of a slot. -/
def Ring.setSlot (r : Ring) (k v : Nat) : Ring := { r with slots := Map.put r.slots k v }

/-- A ring as its control line holds it (R213). -/
def ringOfLine (x : Nat) (ws : List Waiter) : Ring :=
  let cnt := bitsAt x 0 6
  { valid := decide (bitsAt x 63 1 = 1), base := bitsAt x 64 64, stride := bitsAt x 8 24, cnt := cnt
    head := bitsAt x 128 6, tail := bitsAt x 136 6, claimed := bitsAt x 144 7
    slots := (List.range 64).map fun k => (k, bitsAt x (256 + 4 * k) 4), waiters := ws }

/-- The control line of a ring (R213). -/
def lineOfRing (r : Ring) : Nat :=
  r.cnt % 64 + 2 ^ 8 * (r.stride % 2 ^ 24) + 2 ^ 63 * natOf r.valid + 2 ^ 64 * (r.base % 2 ^ 64) +
    2 ^ 128 * (r.head % 64) + 2 ^ 136 * (r.tail % 64) + 2 ^ 144 * (r.claimed % 128) +
    (List.range 64).foldl (fun n k => n + 2 ^ (256 + 4 * k) * (r.slot k % 16)) 0

/-- Read a ring. -/
def State.ring (s : State) : RingName → Ring
  | .local c id => Map.get {} (s.core c).rings id
  | .global a => ringOfLine (s.devRead a 256) (Map.get [] s.gwait a)

/-- The bytes of a control line that an operation changes. -/
def State.lineChange (s : State) (a : Nat) (r : Ring) : List (Loc × Byte) :=
  ((leBytes 256 (lineOfRing r)).zipIdx.map fun p => (Loc.dev (a + p.2), p.1)).filter fun p => s.locGet p.1 != p.2

/-- Write a ring; the operation has read its control line (R214, R343). -/
def State.setRing (s : State) (n : RingName) (r : Ring) : State :=
  match n with
  | .local c id => s.modCore c fun k => { k with rings := Map.put k.rings id r }
  | .global a =>
    let t := (s.devTouch a 256).locWrites (s.lineChange a r)
    { t with gwait := Map.put t.gwait a r.waiters }

/-- A ring operation through a ring word is performed: of a global ring, it is a store to its control line (R277). -/
def State.ringStored (s : State) (c tenant : Nat) (w ref : W64) : State :=
  if w.getLsbD 63 then s.flatStored (tcOf c) tenant ref (ptrCoord w) 1 else s

/-! ### Operations of a ring, each atomic (R214, R215) -/

/-- Claim the tail slot when it is free. -/
def Ring.claim (r : Ring) : Option (Nat × Ring) :=
  if r.slot r.tail = 0 then
    some (r.tail, { r.setSlot r.tail 1 with tail := (r.tail + 1) % r.count, claimed := r.claimed + 1 })
  else none

/-- Take the head slot when it is filled; `h` is the strand that then holds it. -/
def Ring.take (r : Ring) (h : Nat) : Option (Nat × Ring) :=
  if r.slot r.head = 3 then
    some (r.head, { r.setSlot r.head 4 with head := (r.head + 1) % r.count, holders := Map.put r.holders r.head h })
  else none

/-- The operation of rclaim or of rwait. -/
def Ring.serve (r : Ring) (claims : Bool) (h : Nat) : Option (Nat × Ring) := if claims then r.claim else r.take h

/-- The first waiter of a kind (R214: waiters are served in the order in which they parked). -/
def Ring.first (r : Ring) (claims : Bool) : Option Waiter := r.waiters.find? fun w => w.claims == claims

/-- An agent asks for a slot: served when eligible and no other waiter of its kind is ahead, else it waits; `none` for
the slot means that it waits. -/
def Ring.ask (r : Ring) (w : Waiter) (h : Nat) : Option Nat × Ring :=
  let mine := match r.first w.claims with
    | none => true
    | some f => f == w
  match (if mine then r.serve w.claims h else none) with
  | some (k, r') => (some k, { r' with waiters := r'.waiters.filter fun x => x != w })
  | none => (none, if r.waiters.contains w then r else { r with waiters := r.waiters ++ [w] })

/-- Fill a claimed slot (rfill). -/
def Ring.fill (r : Ring) (k : Nat) : Option Ring :=
  if k < r.count && r.slot k = 1 then some (r.setSlot k 3) else none

/-- Release a slot in use (rrel). -/
def Ring.release (r : Ring) (k : Nat) : Option Ring :=
  if k < r.count && r.slot k = 4 then
    some { r.setSlot k 0 with claimed := r.claimed - 1, holders := Map.erase r.holders k }
  else none

/-- The rstat word (R214). -/
def Ring.status (r : Ring) (global : Bool) : W64 :=
  w64 (r.head % 64 + 2 ^ 8 * (r.tail % 64) + 2 ^ 16 * (r.claimed % 128) + 2 ^ 24 * (r.cnt % 64) +
    2 ^ 32 * min 255 r.waiters.length + 2 ^ 62 * natOf global + 2 ^ 63 * natOf r.valid)

/-- Withdraw what an agent of a core has parked at any ring (R219). -/
def State.withdraw (s : State) (c agent : Nat) : State :=
  let drop : List Waiter → List Waiter := List.filter fun w => !(w.core == c && w.agent == agent)
  let t := s.modCore c fun k => { k with rings := k.rings.map fun p => (p.1, { p.2 with waiters := drop p.2.waiters }) }
  { t with gwait := t.gwait.map fun p => (p.1, drop p.2) }

/-! ### The ring forms -/

/-- The ring that the form at the head names, its ring word being captured scalar `i`. -/
def State.myRing (s : State) (i : Nat) (store : Bool) : Except Nat RingName × State :=
  s.ringOf s.cur.core s.myPlace.tenant (s.cap i) s.cur.entry.tref store

/-- The value that a ring cause records: the flat pointer for a translation cause of a control line (R223). -/
def State.ringVal (s : State) (i cause : Nat) : W64 := if cause < 0x40 then w64 ((s.cap i).toNat % 2 ^ 52) else 0

/-- The operation of the ring form at the head is performed (R277). -/
def State.myRingStored (s : State) (i : Nat) : State := s.ringStored s.cur.core s.myPlace.tenant (s.cap i) s.cur.entry.tref

/-- A slot of a ring as one that stores can be known to (R111). -/
def State.slotKnower (s : State) (n : RingName) (k : Nat) : Knower :=
  match n with
  | .local c id => .slot (s.placement c).node (s.placement c).lin id k
  | .global a => .slotAt a k

/-- A strand takes a slot: by rwait, it acquires what the slot's fill released (R107, R111). -/
def State.slotTaken (s : State) (n : RingName) (k : Nat) (claims : Bool) (c h : Nat) : State :=
  if claims then s else s.acquire (s.slotKnower n k) c h

/-- A strand fills a slot, a release of what it has done before (R107, R111). -/
def State.slotFilled (s : State) (n : RingName) (k c h : Nat) : State :=
  let to_ := s.slotKnower n k
  (s.forget to_).release c h to_

/-- rclaim and rwait: the slot at once, or the strand parks (R214, R216, R218). -/
def State.ringAsk (s : State) (d : BitVec 6) (claims : Bool) : Res :=
  match s.myRing 0 true with
  | (.error k, t) => .next (t.raiseHead k (s.ringVal 0 k))
  | (.ok n, t) =>
    let r := t.ring n
    if !r.valid then .next (t.raiseHead 0x49 0)
    else if s.cur.entry.parked then .next t
    else
      match r.ask { core := s.cur.core, agent := s.cur.strand, claims := claims } s.cur.strand with
      | (some k, r') =>
        .next (((((t.myRingStored 0).setRing n r').slotTaken n k claims s.cur.core s.cur.strand).wx d (w64 k)).finish)
      | (none, r') => .next ((t.setRing n r').modHead fun e => { e with parked := true })

/-- rclaim (R214). -/
def execRclaim (d _a : XReg) (_tok : Tok) (s : State) : Res := s.ringAsk d true

/-- rwait (R214). -/
def execRwait (d _a : XReg) (_tok : Tok) (s : State) : Res := s.ringAsk d false

/-- RING_WAITER_WAKE: the first parked strand of a kind gets its slot when it is eligible (R214, R216). -/
def execRingWaiterWake (s : State) : Res :=
  let r := s.ring s.arg.ring
  match r.first s.arg.flag with
  | none => .next s
  | some w =>
    let st := s.strand w.core w.agent
    if 4 ≤ w.agent || st.trapped || st.stopped then .next s
    else
      match r.serve w.claims w.agent with
      | none => .next s
      | some (k, r') =>
        match st.lq.find? fun e => e.parked with
        | none => .next s
        | some e =>
          let t := (s.ringStored w.core (s.placement w.core).tenant (e.caps.getD 0 0) e.tref).setRing s.arg.ring
            { r' with waiters := r'.waiters.filter fun x => x != w }
          .next ((t.slotTaken s.arg.ring k w.claims w.core w.agent).modStrand w.core w.agent fun st =>
            (st.wx (fld e.word.toNat 18 6) (w64 k)).finishEntry .lq e)

/-- rstat: an invalid local ring reads 0 (R214). -/
def execRstat (d _a : XReg) (_tok : Tok) (s : State) : Res :=
  match s.myRing 0 false with
  | (.error k, t) => .next (t.raiseHead k (s.ringVal 0 k))
  | (.ok n, t) =>
    let r := t.ring n
    match n with
    | .local _ _ => .next ((t.wx d (if r.valid then r.status false else 0)).finish)
    | .global _ => if r.valid then .next ((t.wx d (r.status true)).finish) else .next (t.raiseHead 0x49 0)

/-- Whether a rinit's setup is legal (R212). -/
def setupOk (isLocal : Bool) (w base : W64) : Bool :=
  let n := w.toNat % 64 + 1
  let stride := bitsAt w.toNat 8 24
  decide (bitsAt w.toNat 6 2 = 0) && decide (bitsAt w.toNat 32 32 = 0) && decide (stride % 4 = 0) &&
    (!isLocal || (decide (base.toNat ≤ 0xFFFFF) && decide (base.toNat + n * stride ≤ 0x100000)))

/-- rinit: the setup is checked, then the ring's state; then every slot is free (R212). -/
def execRinit (_d _a : XReg) (_tok : Tok) (s : State) : Res :=
  match s.myRing 2 true with
  | (.error k, t) => .next (t.raiseHead k (s.ringVal 2 k))
  | (.ok n, t) =>
    let isLocal := match n with
      | .local _ _ => true
      | .global _ => false
    let r := t.ring n
    if !setupOk isLocal (s.cap 0) (s.cap 1) then .next (t.raiseHead 0x4A 0)
    else if !r.waiters.isEmpty || (List.range r.count).any (fun k => r.slot k != 0) then .next (t.raiseHead 0x48 0)
    else
      let new : Ring := { valid := true, base := (s.cap 1).toNat, stride := bitsAt (s.cap 0).toNat 8 24
                          cnt := (s.cap 0).toNat % 64 }
      .next (((t.myRingStored 2).setRing n new).finish)

/-- rfill and rrel: they wait in SQ for the strand's earlier accesses, then change the slot (R214, R218). -/
def State.ringPut (s : State) (fills : Bool) (op : Ring → Nat → Option Ring) : Res :=
  let e := s.cur.entry
  if !s.performed s.cur.core s.cur.strand fun x => x.before e then .next s
  else
    match s.myRing 1 true with
    | (.error k, t) => .next (t.raiseHead k (s.ringVal 1 k))
    | (.ok n, t) =>
      let r := t.ring n
      if !r.valid then .next (t.raiseHead 0x49 0)
      else
        match op r (s.cap 0).toNat with
        | none => .next (t.raiseHead 0x48 0)
        | some r' =>
          let u := (t.myRingStored 1).setRing n r'
          .next (if fills then u.slotFilled n (s.cap 0).toNat s.cur.core s.cur.strand else u).finish

/-- rfill (R214). -/
def execRfill (_d _a : XReg) (_tok : Tok) (s : State) : Res := s.ringPut true Ring.fill

/-- rrel (R214). -/
def execRrel (_d _a : XReg) (_tok : Tok) (s : State) : Res := s.ringPut false Ring.release

end Sys2Proof.Machine
end

