-- ==== Sys2Proof/Machine/Lanes.lean ====
section
/-!
DEFINITION. Lanes of vector registers, masks, the latency windows of CQ writes, and the waits of scratchpad accesses on
the range scoreboard (R103, R174, R175, R177, R178, R307, R308).
-/

namespace Sys2Proof.Machine

/-! ### Lanes -/

/-- Lane `i` of a vector. -/
def lane (v : BitVec 2048) (i : Nat) : W32 := BitVec.ofNat 32 (v.toNat >>> (32 * i))

/-- The 64 lanes of a vector. -/
def lanes (v : BitVec 2048) : List W32 := (List.range 64).map fun i => lane v i

/-- Numbers of `w` bits packed from the lowest place up (R2). -/
def packNat (w : Nat) : List Nat → Nat
  | [] => 0
  | x :: xs => x % 2 ^ w + 2 ^ w * packNat w xs

/-- A vector from its lanes. -/
def ofLanes (l : List W32) : BitVec 2048 := BitVec.ofNat 2048 (packNat 32 (l.map fun x => x.toNat))

/-- Lane by lane: the new value where the mask enables it, else the old one. -/
def blend (m : W64) (old new : BitVec 2048) : BitVec 2048 :=
  ofLanes ((List.range 64).map fun i => if m.getLsbD i then lane new i else lane old i)

/-- A vector from 256 bytes (R2). -/
def ofBytes (bs : List Byte) : BitVec 2048 := BitVec.ofNat 2048 (leNat bs)

/-- The 256 bytes of a vector. -/
def bytesOf (v : BitVec 2048) : List Byte := leBytes 256 v.toNat

/-- The lanes that a list of flags picks out, as a mask. -/
def maskOf (l : List Bool) : W64 := w64 (packNat 1 (l.map natOf))

/-! ### Reads and writes inside latency windows -/

/-- Whether a write of lanes of a register meets a window. -/
def Window.meets (w : Window) (mask : Bool) (r : Nat) : Bool := w.mask == mask && w.reg == r

/-- The windows behind a new write of lanes of a register, complete by clk `end_`: on its lanes no older value may be read from
then on (R174). -/
def cutWindows (mask : Bool) (r : Nat) (m : W64) (cyc end_ : Nat) (l : List Window) : List Window :=
  (l.filter fun w => decide (cyc < w.until_)).flatMap fun w =>
    if w.meets mask r then
      [{ w with lanes := w.lanes &&& m, until_ := min w.until_ end_ }, { w with lanes := w.lanes &&& ~~~m }].filter fun w => w.lanes != 0
    else [w]

/-- The windows of a register that are open, newest first. -/
def Strand.openWin (st : Strand) (mask : Bool) (r cyc : Nat) : List Window :=
  st.win.filter fun w => w.mask == mask && w.reg == r && decide (cyc < w.until_)

/-- A value as a read inside its open windows may return it: per lane, the new value or one of the older ones
(R174). `k` tells apart the choices of one step. -/
def choose (free : Nat) : List Window → Nat → BitVec 2048 → BitVec 2048
  | [], _, v => v
  | w :: ws, k, v => choose free ws (k + 1) (blend (Config.freeLanes free k &&& w.lanes) w.old v)

/-- Read a vector register; `k` numbers the operand. -/
def State.vreg (s : State) (r k : Nat) : BitVec 2048 :=
  choose s.free (s.me.openWin false r s.cyc) (64 * k) (s.me.rv r)

/-- A mask as a read inside its open windows may return it, bit by bit (R174, R175). -/
def chooseBits (free : Nat) : List Window → Nat → W64 → W64
  | [], _, v => v
  | w :: ws, k, v =>
    let f := Config.freeLanes free k &&& w.lanes
    chooseBits free ws (k + 1) ((f &&& w.old.truncate 64) ||| (~~~f &&& v))

/-- Read a mask, per bit inside its windows; m0 is fixed. -/
def State.mreg (s : State) (r k : Nat) : W64 :=
  if r = 0 then s.me.rm 0 else chooseBits s.free (s.me.openWin true r s.cyc) (64 * k + 32) (s.me.rm r)

/-- A CQ form writes the lanes of a vector register that a mask picks out: the old values may be read until its bound has
passed (R174). -/
def Strand.wvCq (st : Strand) (cyc L r : Nat) (m : W64) (v : BitVec 2048) : Strand :=
  { st.wv r (blend m (st.rv r) v) with
    win := { mask := false, reg := r, lanes := m, old := st.rv r, until_ := cyc + L } :: cutWindows false r m cyc (cyc + L) st.win }

/-- A CQ form writes a mask (R174). -/
def Strand.wmCq (st : Strand) (cyc L r : Nat) (v : W64) : Strand :=
  { st.wm r v with
    win := { mask := true, reg := r, lanes := BitVec.allOnes 64, old := (st.rm r).zeroExtend 2048, until_ := cyc + L }
      :: cutWindows true r (BitVec.allOnes 64) cyc (cyc + L) st.win }

/-- The lanes of a register on which a CQ write is still inside its window. -/
def Strand.openLanes (st : Strand) (mask : Bool) (r cyc : Nat) : W64 :=
  (st.openWin mask r cyc).foldl (fun m w => m ||| w.lanes) 0

/-- LQ writes the lanes of a vector that a mask picks out. Where a CQ write is inside its window, nothing orders the two: a free choice
says, lane by lane, whether the value of LQ or that of CQ is left (R104, R175). -/
def Strand.wvLq (st : Strand) (free cyc r : Nat) (m : W64) (v : BitVec 2048) : Strand :=
  let first := Config.freeLanes free 130 &&& st.openLanes false r cyc
  { st.wv r (blend (m &&& ~~~first) (st.rv r) v) with
    win := st.win.map fun w => if !w.mask && w.reg == r then { w with old := blend m w.old v } else w }

/-- LQ clears the bits of a mask that are not in `keep`, but those that a CQ write inside its window writes after it, as a free choice has
it (R175, R205). -/
def Strand.wmLq (st : Strand) (free cyc r : Nat) (keep : W64) : Strand :=
  let first := Config.freeLanes free 131 &&& st.openLanes true r cyc
  { st.wm r (st.rm r &&& (keep ||| first)) with
    win := st.win.map fun w => if w.mask && w.reg == r then { w with old := w.old &&& keep.zeroExtend 2048 } else w }

/-! ### The range scoreboard -/

/-- Whether a local scratchpad access waits: the scoreboard of its core holds it back, where it comes from a later bundle and
overlaps a write range, or writes and overlaps a read range (R308); or it waits for data that an earlier attw or epop acquires
(R107). -/
def State.stalled (s : State) (c : Nat) (e : Entry) (write : Bool) (lo n : Nat) : Bool :=
  ((s.core c).sb.any fun p =>
    decide (p.2.since < e.ready) && decide (lo ≤ p.2.hi) && decide (p.2.lo < lo + n) && (p.2.write || write)) ||
    s.awaits c s.cur.strand e lo n

/-! ### Elements that are read one by one (R97, R108) -/

/-- Read an element that is still to be read. -/
def Src.take (rd : Loc → Nat → List Byte) : Src → Src
  | .at l n => .got (rd l n)
  | x => x

/-- Read those elements of a load that a free choice picks. -/
def sampleSrcs (free : Nat) (rd : Loc → Nat → List Byte) (l : List Src) : List Src :=
  l.zipIdx.map fun p => if Config.freeElem free (2 ^ 66 + p.2) then p.1.take rd else p.1

end Sys2Proof.Machine
end

