-- ==== Sys2Proof/Machine/Matrix.lean ====
section
/-!
DEFINITION. The matrix engine: matrix steps, column-store loads, scale folding, accumulator transfers and the hasp
(R315 to R341).
-/

namespace Sys2Proof.Machine

/-! ### The stores -/

/-- A cell of the accumulator store; coordinates count modulo 256 (R317, R335). -/
def Core.cell (k : Core) (r c : Nat) : W32 :=
  w32 (leNat (Mem.read k.acc (4 * (256 * (r % 256) + c % 256)) 4))

/-- Write a cell of the accumulator store. -/
def Core.setCell (k : Core) (r c : Nat) (v : W32) : Core :=
  { k with acc := Mem.write k.acc (4 * (256 * (r % 256) + c % 256)) (leBytes 4 v.toNat) }

/-- Origin row of region zN (R317). -/
def regionRow (z : Nat) : Nat := 64 * (z / 4)

/-- Origin column of region zN (R317). -/
def regionCol (z : Nat) : Nat := 64 * (z % 4)

/-- The cells of a region, row by row, by their place in it. -/
def regionCells : List (Nat × Nat) := (List.range 4096).map fun n => (n / 64, n % 64)

/-- Replace every cell of a region by a function of its place; every value is formed before any is written. -/
def Core.fillRegion (k : Core) (z : Nat) (f : Nat → Nat → W32) : Core :=
  (regionCells.map fun p => (p, f p.1 p.2)).foldl
    (fun k q => k.setCell (regionRow z + q.1.1) (regionCol z + q.1.2) q.2) k

/-- Cell (i, j) of a region. -/
def Core.regionCell (k : Core) (z i j : Nat) : W32 := k.cell (regionRow z + i) (regionCol z + j)

/-- A little-endian number of `n` scratchpad bytes of a core. -/
def Core.spNat (k : Core) (a n : Nat) : Nat := leNat (Mem.read k.sp a n)

/-- A little-endian number of `n` bytes of a column-store slot (R316). -/
def Core.slotNat (k : Core) (slot off n : Nat) : Nat := leNat (Mem.read k.cst (3072 * slot + off) n)

/-! ### Matrix steps (R315, R316, R329, R330) -/

/-- Element A(i, k) (R316). -/
def Core.aElem (c : Core) (E e i k : Nat) : Nat := c.spNat (E + e * (64 * k + i)) e

/-- Element B(k, j) of the forms but mma.t2 (R316). -/
def Core.bElem (c : Core) (slot e k j : Nat) : Nat := c.slotNat slot (48 * j + e * k) e

/-- Element B(k, j) of mma.t2 (R316). -/
def Core.bT2 (c : Core) (slot k j : Nat) : Nat := c.slotNat slot (48 * j + k / 4) 1 / 4 ^ (k % 4) % 4

/-- One cell of a float step: the exact sum, rounded once (R85, R329). -/
def Core.stepFloat (c : Core) (fa fb : FFmt) (e : Nat) (sat : Bool) (z slot E i j : Nat) : W32 :=
  let prod := fun k => (fval fa (c.aElem E e i k)).mul (fval fb (c.bElem slot e k j))
  let s := XR.sum (v32 (c.regionCell z i j)) ((List.range (48 / e)).map prod)
  w32 (if sat then rneSat .f32 s else rne .f32 s)

/-- One cell of an integer step, `a` and `b` being the values of the operands (R85, R329). -/
def Core.stepInt (c : Core) (a b : Nat → Int) (sat : Bool) (z i j : Nat) : W32 :=
  let s := ((List.range 48).map fun k => a k * b k).foldl (· + ·) (c.regionCell z i j).toInt
  w32 (if sat then satI 32 s else wrapN 32 s)

/-- One pass of mma.f32x3: an exact sum over a slice pair, rounded once (R88). -/
def passF32x3 (sat full : Bool) (prior : W32) (l : List (Nat × Nat)) : W32 :=
  let s := XR.sum (v32 prior) (l.map fun p => slicePair full p.1 p.2)
  w32 (if sat then rneSat .f32 s else rne .f32 s)

/-- One cell of mma.f32x3: six passes in their fixed order (R88, R330). -/
def Core.stepF32x3 (c : Core) (sat : Bool) (z slot E i j : Nat) : W32 :=
  let ab := (List.range 12).map fun k => (split3 (w32 (c.aElem E 4 i k)), split3 (w32 (c.bElem slot 4 k j)))
  let p1 := passF32x3 sat false (c.regionCell z i j) (ab.map fun p => (p.1.2.2, p.2.1))
  let p2 := passF32x3 sat false p1 (ab.map fun p => (p.1.1, p.2.2.2))
  let p3 := passF32x3 sat false p2 (ab.map fun p => (p.1.2.1, p.2.2.1))
  let p4 := passF32x3 sat false p3 (ab.map fun p => (p.1.2.1, p.2.1))
  let p5 := passF32x3 sat false p4 (ab.map fun p => (p.1.1, p.2.2.1))
  passF32x3 sat true p5 (ab.map fun p => (p.1.1, p.2.1))

/-! ### The hasp -/

/-- Whether another strand of the executing core requests the hasp. -/
def State.haspWanted (s : State) : Bool :=
  [0, 1, 2, 3].any fun h => h != s.cur.strand &&
    match (s.myCore.strand h).hasp with
    | .none => false
    | .rejoining => true
    | .waiting => !(s.myCore.strand h).trapped && !(s.myCore.strand h).stopped

/-- Free the hasp: the last holder is this strand, and a grant may follow in the next clk (R324, R326). -/
def Core.freeHasp (k : Core) (h cyc : Nat) : Core := { k with haspHolder := none, haspLast := h, haspFree := cyc + 1 }

/-- Dispatch an MX form on the array, with its occupancy and bound (R321). -/
def State.arrayDispatch (s : State) (occ L : Nat) : State :=
  (s.dispatched L).modMyCore fun k => { k with arrayFree := s.cyc + occ }

/-- A form of the hasp's holder dispatches: it consumes one unit of budget, renewed where none is left (R325). -/
def State.haspSpend (s : State) : State :=
  s.modMyCore fun k => { k with haspLeft := (if 0 < k.haspLeft then k.haspLeft else s.me.haspBudget) - 1 }

/-- A form reaches dispatch with no budget left while others want the hasp: the strand releases it as hasp.rel does, and rejoins
(R325, R326). -/
def State.haspYield (s : State) : State :=
  if s.performed s.cur.core s.cur.strand fun x => x.before s.cur.entry then
    (s.modMyCore fun k => k.freeHasp s.cur.strand s.cyc).modMe fun st => { st with hasp := .rejoining }
  else s

/-- An MX form reaches dispatch: 0x70 without the hasp, a rejoining strand's form waits, then `check` gives its own
cause and `stall` its wait on the scoreboard; then it dispatches and `act` makes its effect (R308, R319, R321, R323,
R325). -/
def State.mx (s : State) (occ L : Nat) (check : Option W64) (stall : Bool) (act : State → State) : Res :=
  if s.me.hasp = .rejoining then .next s
  else if s.myCore.haspHolder ≠ some s.cur.strand then .next (s.raiseHead 0x70 0)
  else
    match check with
    | some E => .next (s.raiseHead 0x71 E)
    | none =>
      if s.myCore.haspLeft = 0 && s.haspWanted then .next s.haspYield
      else if stall then .next s
      else .next (act (s.haspSpend.arrayDispatch occ L))

/-! ### Scratchpad operands -/

/-- The operand address of an MX form (R319). -/
def State.mxAddr (s : State) (l : Lit) : W64 :=
  match l with
  | none => s.cap 0
  | some w => s.cap 0 + litVal w

/-- The check of an operand's range (R319). -/
def mxRange (E : W64) (ext : Nat) : Option W64 :=
  if bitsAt E.toNat 20 44 ≠ 0 || E.toNat % 64 ≠ 0 || spSize < E.toNat + ext then some E else none

/-- A core as its forms read their scratchpad operands in this step (R320). -/
def State.seenCore (s : State) (k : Core) : Core := k.view s.free s.cyc

/-- Whether an MX form that dispatches in this step accesses its scratchpad operand in later turns of its window, as a free choice has
it (R320). -/
def State.mxLate (s : State) : Bool := Config.freeElem s.free (2 ^ 64 + 2)

/-- The elements of an operand: those that are read in this step, and those that are still to be read (R320). -/
def State.mxSrcs (s : State) (E ext : Nat) : List Src :=
  sampleSrcs s.free (fun l n => Mem.read (s.seenCore s.myCore).sp l.addr n) ((List.range (ext / 4)).map fun k => .at (.sp s.cur.core (E + 4 * k)) 4)

/-- A core with the elements of an operand that have been read laid over its scratchpad. -/
def Core.laid (k : Core) (E : Nat) (l : List Src) : Core :=
  { k with sp := l.zipIdx.foldl (fun m p => match p.1 with
      | .got bs => Mem.write m (E + 4 * p.2) bs
      | _ => m) k.sp }

/-- The access of an MX form to its operand, which it had put off, is made. -/
def State.mxActs (s : State) (f : Core → Core) : State :=
  (s.modMyCore f).modHead fun e => { e with left := none, srcs := [], later := [] }

/-- An MX form that reads a scratchpad operand: `act` takes the core as its operand is read, the operand's address, and the core. It
reads when it dispatches, or a part then and the rest in a later turn of its window (R320). -/
def State.mxSp (s : State) (occ L : Nat) (l : Lit) (ext : Nat) (act : Core → Nat → Core → Core) : Res :=
  let E := s.mxAddr l
  if s.cur.entry.left.isSome then .next (s.mxActs fun k => act ((s.seenCore k).laid E.toNat s.cur.entry.srcs) E.toNat k)
  else
    s.mx occ L (mxRange E ext) (s.stalled s.cur.core s.cur.entry false E.toNat ext) fun t =>
      if s.mxLate then t.modHead fun e => { e with left := some 0, srcs := s.mxSrcs E.toNat ext }
      else t.modMyCore fun k => act (s.seenCore k) E.toNat k

/-- Whether a form of a core's array has put off accesses, and its window ends with this clk (R320). -/
def Core.mxDue (k : Core) (cyc : Nat) : Bool := decide (k.arrayFree ≤ cyc + 1) && k.strands.any fun st => st.2.cq.any Entry.underWay

/-- A matrix step: `f` gives each cell of the region from the core as it stands and the operand's address (R329). -/
def State.mma (s : State) (occ : Nat) (z : BitVec 4) (l : Lit) (f : Core → Nat → Nat → Nat → W32) : Res :=
  s.mxSp occ occ l 3072 fun v E k => k.fillRegion z.toNat (f v E)

/-- mma.f8e4 (R329). -/
def execMmaF8e4 (z : BitVec 4) (sl : BitVec 8) (_a : XReg) (l : Lit) (sat : Bool) (_tok : Tok) (s : State) : Res :=
  s.mma 12 z l fun k E i j => k.stepFloat .f8e4 .f8e4 1 sat z.toNat sl.toNat E i j

/-- mma.f8e5 (R329). -/
def execMmaF8e5 (z : BitVec 4) (sl : BitVec 8) (_a : XReg) (l : Lit) (sat : Bool) (_tok : Tok) (s : State) : Res :=
  s.mma 12 z l fun k E i j => k.stepFloat .f8e5 .f8e5 1 sat z.toNat sl.toNat E i j

/-- mma.f8x: A is F8E4 and B is F8E5 (R329). -/
def execMmaF8x (z : BitVec 4) (sl : BitVec 8) (_a : XReg) (l : Lit) (sat : Bool) (_tok : Tok) (s : State) : Res :=
  s.mma 12 z l fun k E i j => k.stepFloat .f8e4 .f8e5 1 sat z.toNat sl.toNat E i j

/-- mma.bf16 (R329). -/
def execMmaBf16 (z : BitVec 4) (sl : BitVec 8) (_a : XReg) (l : Lit) (sat : Bool) (_tok : Tok) (s : State) : Res :=
  s.mma 12 z l fun k E i j => k.stepFloat .bf16 .bf16 2 sat z.toNat sl.toNat E i j

/-- mma.f16 (R329). -/
def execMmaF16 (z : BitVec 4) (sl : BitVec 8) (_a : XReg) (l : Lit) (sat : Bool) (_tok : Tok) (s : State) : Res :=
  s.mma 12 z l fun k E i j => k.stepFloat .f16 .f16 2 sat z.toNat sl.toNat E i j

/-- mma.i8 (R329). -/
def execMmaI8 (z : BitVec 4) (sl : BitVec 8) (_a : XReg) (l : Lit) (sat : Bool) (_tok : Tok) (s : State) : Res :=
  s.mma 12 z l fun c E i j =>
    c.stepInt (fun k => sval 8 (c.aElem E 1 i k)) (fun k => sval 8 (c.bElem sl.toNat 1 k j)) sat z.toNat i j

/-- mma.i8n: A is unsigned (R329). -/
def execMmaI8n (z : BitVec 4) (sl : BitVec 8) (_a : XReg) (l : Lit) (sat : Bool) (_tok : Tok) (s : State) : Res :=
  s.mma 12 z l fun c E i j =>
    c.stepInt (fun k => (c.aElem E 1 i k : Int)) (fun k => sval 8 (c.bElem sl.toNat 1 k j)) sat z.toNat i j

/-- mma.t2: the T2 weight selects 0, +A or -A (R329). -/
def execMmaT2 (z : BitVec 4) (sl : BitVec 8) (_a : XReg) (l : Lit) (sat : Bool) (_tok : Tok) (s : State) : Res :=
  s.mma 6 z l fun c E i j =>
    c.stepInt (fun k => sval 8 (c.aElem E 1 i k)) (fun k => t2Val (c.bT2 sl.toNat k j)) sat z.toNat i j

/-- mma.f32x3 (R330). -/
def execMmaF32x3 (z : BitVec 4) (sl : BitVec 8) (_a : XReg) (l : Lit) (sat : Bool) (_tok : Tok) (s : State) : Res :=
  s.mma 36 z l fun k E i j => k.stepF32x3 sat z.toNat sl.toNat E i j

/-! ### Column-store loads -/

/-- csld (R331). -/
def execCsld (sl : BitVec 8) (_a : XReg) (l : Lit) (_tok : Tok) (s : State) : Res :=
  s.mxSp 12 12 l 3072 fun v E k => { k with cst := Mem.write k.cst (3072 * sl.toNat) (Mem.read v.sp E 3072) }

/-- csldt: slot byte 48j + e*k + b comes from byte E + e*(64k + j) + b (R331). -/
def execCsldt (e : BitVec 2) (sl : BitVec 8) (_a : XReg) (l : Lit) (_tok : Tok) (s : State) : Res :=
  let w := 2 ^ e.toNat
  s.mxSp 12 12 l 3072 fun v E k =>
    let src := (List.range 3072).map fun n =>
      Mem.get v.sp (E + w * (64 * (n % 48 / w) + n / 48) + n % w)
    { k with cst := Mem.write k.cst (3072 * sl.toNat) src }

/-! ### Scale folding -/

/-- Fold region `p` into region `z`, then clear `p` if asked (R332). -/
def Core.fold (k : Core) (z p : Nat) (clr : Bool) (f : Nat → Nat → W32 → W32 → W32) : Core :=
  let k1 := k.fillRegion z fun i j => f i j (k.regionCell p i j) (k.regionCell z i j)
  if clr then k1.fillRegion p fun _ _ => 0 else k1

/-- acsc.e8 (R332). -/
def execAcscE8 (z p : BitVec 4) (clr : Bool) (_a : XReg) (l : Lit) (_tok : Tok) (s : State) : Res :=
  s.mxSp 16 16 l 256 fun v E k =>
    k.fold z.toNat p.toNat clr fun i j => scaleE8 (v.spNat (E + 4 * i) 1) (v.spNat (E + 4 * j + 1) 1)

/-- acsc.f32 (R332). -/
def execAcscF32 (z p : BitVec 4) (clr : Bool) (_a : XReg) (l : Lit) (_tok : Tok) (s : State) : Res :=
  s.mxSp 16 16 l 512 fun v E k =>
    k.fold z.toNat p.toNat clr fun i j => scaleF32 (w32 (v.spNat (E + 4 * i) 4)) (w32 (v.spNat (E + 256 + 4 * j) 4))

/-! ### Accumulator transfers -/

/-- acz (R333). -/
def execAcz (z : BitVec 4) (_tok : Tok) (s : State) : Res :=
  s.mx 4 4 none false fun t => t.modMyCore fun k => k.fillRegion z.toNat fun _ _ => 0

/-- Bytes of an element of acld and acst (R334). -/
def acSize (f : BitVec 2) : Nat :=
  match f.toNat with
  | 0 => 4
  | 1 => 2
  | 2 => 2
  | _ => 1

/-- Occupancy and bound of acld and acst (R321). -/
def acOcc (f : BitVec 2) : Nat := 8 * acSize f

/-- The cell that acld forms from an element (R334). -/
def acIn (f : BitVec 2) (x : Nat) : W32 :=
  match f.toNat with
  | 0 => w32 x
  | 1 => r32 (fval .bf16 x)
  | 2 => r32 (fval .f16 x)
  | _ => r32 (fval .f8e4 x)

/-- The element that acst forms from a cell (R334). -/
def acOut (f : BitVec 2) (c : W32) : Nat :=
  match f.toNat with
  | 0 => c.toNat
  | 1 => rne .bf16 (v32 c)
  | 2 => rne .f16 (v32 c)
  | _ => rneSat .f8e4 (v32 c)

/-- acld (R334). -/
def execAcld (z : BitVec 4) (f : BitVec 2) (_a : XReg) (l : Lit) (_tok : Tok) (s : State) : Res :=
  let e := acSize f
  s.mxSp (acOcc f) (acOcc f) l (4096 * e) fun v E k =>
    k.fillRegion z.toNat fun r c => acIn f (v.spNat (E + e * (64 * r + c)) e)

/-- Bytes that acst writes, of its elements those that `now` picks: within its bound, each 4-byte element may still read as before
(R103, R320, R322). -/
def Core.spLate (k : Core) (cyc L a : Nat) (bs : List Byte) (now : Nat → Bool) : Core :=
  let t := if (List.range (bs.length / 4)).all now then k.spStore a bs
    else ((List.range (bs.length / 4)).filter now).foldl (fun k i => k.spStore (a + 4 * i) ((bs.drop (4 * i)).take 4)) k
  { t with spWin := { lo := a, size := 4, old := Mem.read k.sp a bs.length, until_ := cyc + L }
      :: t.spWin.filter fun w => decide (cyc < w.until_) }

/-- The bytes of the elements of acst that it writes later. -/
def laterElems (c a : Nat) (bs : List Byte) (now : Nat → Bool) : List (List (Loc × Byte)) :=
  ((List.range (bs.length / 4)).filter fun i => !now i).map fun i =>
    (List.range 4).map fun b => (.sp c (a + 4 * i + b), bs.getD (4 * i + b) 0)

/-- An MX form that writes a scratchpad operand: the bytes are formed at its dispatch, and written then, or a part then and the rest in a
later turn of its window, over what stands there (R320). -/
def State.mxStore (s : State) (L : Nat) (l : Lit) (ext : Nat) (bytes : Core → List Byte) : Res :=
  let E := s.mxAddr l
  if s.cur.entry.left.isSome then
    .next (s.mxActs fun k => { k with sp := s.cur.entry.later.flatten.foldl (fun m p => Mem.set m p.1.addr p.2) k.sp })
  else
    s.mx L L (mxRange E ext) (s.stalled s.cur.core s.cur.entry true E.toNat ext) fun t =>
      let bs := bytes t.myCore
      let now := fun i => !s.mxLate || Config.freeElem s.free (2 ^ 65 + i)
      let u := t.modMyCore fun k => k.spLate s.cyc L E.toNat bs now
      if s.mxLate then u.modHead fun e => { e with left := some 0, later := laterElems s.cur.core E.toNat bs now } else u

/-- acst (R334). -/
def execAcst (z : BitVec 4) (f : BitVec 2) (_a : XReg) (l : Lit) (_tok : Tok) (s : State) : Res :=
  let e := acSize f
  s.mxStore (acOcc f) l (4096 * e) fun k => regionCells.flatMap fun p => leBytes e (acOut f (k.regionCell z.toNat p.1 p.2))

/-- The origin row of an origin word (R328). -/
def originRow (w : W64) : Nat := bitsAt w.toNat 0 8

/-- The origin column of an origin word (R328). -/
def originCol (w : W64) : Nat := bitsAt w.toNat 8 8

/-- acmv (R335). -/
def execAcmv (z : BitVec 4) (_a : XReg) (_tok : Tok) (s : State) : Res :=
  let o := s.cap 0
  s.mx 16 16 none false fun t => t.modMyCore fun k =>
    k.fillRegion z.toNat fun i j => k.cell (originRow o + i) (originCol o + j)

/-- The cell that lane `i` of acrd and acvr names (R336). -/
def acLane (o : W64) (col : Bool) (i : Nat) : Nat × Nat :=
  if col then (originRow o + i, originCol o) else (originRow o, originCol o + i)

/-- acvr (R336). -/
def execAcvr (v : VReg) (col : Bool) (_a : XReg) (_tok : Tok) (s : State) : Res :=
  let o := s.cap 0
  let d := s.vreg v.toNat 0
  s.mx 2 2 none false fun t => t.modMyCore fun k =>
    (List.range 64).foldl (fun k i => k.setCell (acLane o col i).1 (acLane o col i).2 (lane d i)) k

/-- acrd (R336). -/
def execAcrd (v : VReg) (col : Bool) (_a : XReg) (_tok : Tok) (s : State) : Res :=
  let o := s.cap 0
  s.mx 1 4 none false fun t =>
    let new := ofLanes ((List.range 64).map fun i => t.myCore.cell (acLane o col i).1 (acLane o col i).2)
    t.modMe fun st => st.wvCq s.cyc 4 v.toNat (BitVec.allOnes 64) new

/-! ### The hasp forms -/

/-- A hasp form dispatches: it occupies the array for one clk, and waits in CQ from then on (R321, R324, R326). -/
def State.haspDispatch (s : State) : State :=
  if s.cur.entry.parked then s
  else
    (s.modMe fun st =>
      { st with cq := modUndispatched (fun e => { e with parked := true }) st.cq, lastDisp := s.cyc, lastL := 1 }).modMyCore
      fun k => { k with arrayFree := max k.arrayFree (s.cyc + 1) }

/-- Complete the executing CQ entry in this clk. -/
def State.cqDone (s : State) : State :=
  s.modMe fun st => { st with cq := modUndispatched (fun e => { e with until_ := some s.cyc }) st.cq }

/-- hasp.acq: it dispatches and waits in CQ for its grant (R324). -/
def execHaspAcq (budget : BitVec 6) (prio : BitVec 2) (_tok : Tok) (s : State) : Res :=
  if s.me.hasp = .waiting then .next s
  else if s.me.hasp = .rejoining || s.myCore.haspHolder = some s.cur.strand then .next (s.raiseHead 0x72 0)
  else
    .next (s.haspDispatch.modMe fun st =>
      { st with hasp := .waiting, haspBudget := budget.toNat + 1, haspPrio := prio.toNat })

/-- hasp.rel: a rejoining strand withdraws its request; a holder waits for its earlier forms and accesses, and then
frees the hasp (R326). -/
def execHaspRel (_tok : Tok) (s : State) : Res :=
  let e := s.cur.entry
  if s.me.hasp = .rejoining then .next ((s.haspDispatch.modMe fun st => { st with hasp := .none }).cqDone)
  else if s.myCore.haspHolder ≠ some s.cur.strand then .next (s.raiseHead 0x72 0)
  else
    let t := s.haspDispatch
    if !s.performed s.cur.core s.cur.strand fun x => x.before e then .next t
    else .next ((t.modMyCore fun k => k.freeHasp s.cur.strand s.cyc).cqDone)

/-- Whether a strand's request may be granted: a waiting one, unless a stop has withdrawn it, or a rejoining one
(R324, R340). -/
def Strand.wantsHasp (st : Strand) : Bool :=
  match st.hasp with
  | .none => false
  | .waiting => !st.trapped && !st.stopped
  | .rejoining => true

/-- The strand that the array grants the hasp to, of those whose requests have reached it: the highest priority, then the order after the
last holder (R324). -/
def Core.haspPick (k : Core) (here : Nat → Bool) : Option Nat :=
  let order := (rrOrder k.haspLast).filter fun h => (k.strand h).wantsHasp && here h
  ([3, 2, 1, 0] : List Nat).findSome? fun p => order.find? fun h => decide ((k.strand h).haspPrio = p)

/-- Whether a strand's request has reached the array by the clk before: its hasp.acq dispatched then, or it rejoins (R324; log
entry 113). -/
def Strand.haspEarlier (st : Strand) (cyc : Nat) : Bool := st.hasp != .waiting || decide (st.lastDisp < cyc)

/-- Whether a strand's request has reached the array: that of a hasp.acq does in the clk of its dispatch or in the next one, as a free
choice has it (R324; log entry 113). -/
def State.haspHere (s : State) (c h : Nat) : Bool := (s.strand c h).haspEarlier s.cyc || Config.freeElem s.free (2 ^ 68 + h)

/-- Whether the hasp of a core is free for a grant in this clk (R324). -/
def Core.haspOpen (k : Core) (cyc : Nat) : Bool := k.haspHolder.isNone && decide (k.haspFree ≤ cyc)

/-- Whether the array of a core has a grant to make before this clk ends (R324). -/
def State.grantDue (s : State) (c : Nat) : Bool :=
  (s.core c).haspOpen s.cyc && ((s.core c).haspPick fun h => (s.strand c h).haspEarlier s.cyc).isSome

/-- HASP_GRANT: the array grants a free hasp (R324). A granted hasp.acq completes; the strand's next MX form dispatches
no earlier than the next clk. -/
def execHaspGrant (s : State) : Res :=
  let k := s.core s.arg.core
  if !k.haspOpen s.cyc then .next s
  else
    match k.haspPick (s.haspHere s.arg.core) with
    | none => .next s
    | some h =>
      let st := k.strand h
      let cq := if st.hasp = .waiting then modUndispatched (fun e => { e with until_ := some s.cyc }) st.cq else st.cq
      let k' := k.setStrand h { st with hasp := .none, cq := cq }
      .next (s.setCore s.arg.core
        { k' with haspHolder := some h, haspLeft := st.haspBudget, haspFree := s.cyc + 1 })

/-- Whether a CQ entry is a hasp.rel that has dispatched and not completed (R326). -/
def Entry.relWaits (e : Entry) : Bool :=
  e.parked && !e.done && e.until_.isNone && decide (fld e.word.toNat 25 7 = 0x73) && decide (fld e.word.toNat 4 2 = 1)

/-- The hasp when a strand's queues settle: a dispatched hasp.rel completes, and a waiting request is withdrawn
(R326, R340). -/
def State.settleHasp (s : State) (c h : Nat) : State :=
  let s1 := match (s.strand c h).cq.find? Entry.relWaits with
    | some e =>
      if (s.core c).haspHolder = some h then
        (s.modCore c fun k => k.freeHasp h s.cyc).modStrand c h fun st => { st with cq := modSame e (fun e => { e with until_ := some s.cyc }) st.cq }
      else s
    | none => s
  s1.modStrand c h fun st => if st.hasp = .waiting then { st with hasp := .none } else st

/-- The implicit hasp.rel of an exit (R327). -/
def State.haspExit (s : State) (c h : Nat) : State :=
  let s1 := if (s.core c).haspHolder = some h then s.modCore c fun k => k.freeHasp h s.cyc else s
  s1.modStrand c h fun st => { st with hasp := .none }

end Sys2Proof.Machine
end

