-- ==== Sys2Proof/Machine/Ends.lean ====
section
/-!
DEFINITION. Completion records, engine reports against strands, and the termination of a node's placements
(R24, R25, R232, R311, R429).
-/

namespace Sys2Proof.Machine

/-! ### Completion records -/

/-- A completion record (R429). -/
def recData (kind cause node core : Nat) (late : Bool) (tbundle cause2 : Nat) (value : W64) : BitVec 128 :=
  BitVec.ofNat 128 (kind % 16 + 2 ^ 4 * (cause % 256) + 2 ^ 12 * (node % 4096) + 2 ^ 24 * (core % 1024) +
    2 ^ 34 * natOf late + 2 ^ 35 * (tbundle % 2 ^ 21) + 2 ^ 56 * (cause2 % 256) + 2 ^ 64 * value.toNat)

/-- Place a record on the completion path, behind those of its source (R25). -/
def State.placeRec (s : State) (src : Nat) (d : BitVec 128) : State :=
  { s with fe := { s.fe with recs := s.fe.recs ++ [{ src := src, data := d }] } }

/-- Place the records of one placement: the first is its retirement (R232). -/
def State.placeRecs (s : State) (src : Nat) (l : List (BitVec 128)) : State :=
  { s with fe := { s.fe with recs := s.fe.recs ++ l.zipIdx.map fun p => { src := src, data := p.1, first := decide (p.2 = 0) } } }

/-- Source number of a core's own records; engines have numbers of their own (R25). -/
def srcCore (c : Nat) : Nat := c
/-- Source number of a copy channel. -/
def srcChan (c ch : Nat) : Nat := 1024 + 4 * c + ch
/-- Source number of the fabric router. -/
def srcRouter : Nat := 8192
/-- Source number of an encoder. -/
def srcEncoder (e : Nat) : Nat := 8200 + e
/-- Source number of the stream controller. -/
def srcStreams : Nat := 8300
/-- Source number of the front end itself. -/
def srcFront : Nat := 8301
/-- Source number of the management core. -/
def srcMgmt : Nat := 8302
/-- Source number of an L2 slice. -/
def srcSlice (k : Nat) : Nat := 9000 + k
/-- Source number of an attention engine. -/
def srcAttn (g : Nat) : Nat := 8400 + g

/-- The record of a detached command that completes (R29, R429, R434). -/
def State.detachedRec (s : State) (src node core : Nat) (late : Bool) : State := s.placeRec src (recData 4 0 node core late 0 0 0)

/-! ### Cores -/

/-- Whether engine work of an earlier placement is still under way at a core: copy commands that are detached, those of
its group that land in it, and requests of its attention engine (R291, R390). -/
def State.coreBusy (s : State) (c : Nat) : Bool :=
  ((List.range 16).any fun i => (s.core (16 * groupOf c + i)).chans.any fun p => p.2.queue.any fun q =>
      q.detached && (16 * groupOf c + i == c || q.lands.any fun l => l.core == c)) ||
    (match (s.group (groupOf c)).attnRun with
      | some r => r.cmd.core == c && r.cmd.detached
      | none => false)

/-- Whether a core is free: it holds no placement, and nothing of an earlier one is under way (R22, R291, R390). -/
def State.coreFree (s : State) (c : Nat) : Bool := (s.core c).place.isNone && !s.coreBusy c

/-! ### Termination -/

/-- Whether a strand of the placement has completed its exit: it is idle, or it runs a task that it took while idle
(R142, R158). -/
def Strand.hasExited (st : Strand) : Bool :=
  st.run == .exited || (match st.tasks.getLast? with
    | some t => t.outer == .none
    | none => false)

/-- The tresume of a strand: where its stop left it, or the bundle that it would issue next (R225). -/
def Strand.tresume (st : Strand) : W64 := if st.trapped || st.stopped then st.rec_.resume else st.nextAddr

/-- The records of a terminated placement (R232): one for each of its strands that had not completed exit, and for
the strand to which the cause was reported; `strand` gives a strand by its number. -/
def endRecs (strand : Nat → Strand) (c : Nat) (p : Placement) (cause cause2 : Nat) (who : Option (Nat × Nat)) : List (BitVec 128) :=
  let one : Nat → Option (BitVec 128) := fun h =>
    let st := strand h
    if who = some (c, h) then
      some (recData 2 cause p.node c p.late st.rec_.bundle.toNat cause2 st.rec_.val)
    else if h < p.nstrands && !st.hasExited then some (recData 2 cause p.node c p.late st.tresume.toNat 0 0)
    else none
  match [0, 1, 2, 3].filterMap one with
  | [] => [recData 2 cause p.node c p.late 0 0 0]
  | l => l

/-- The commands that a core's placement has in engines and that have not begun go, each with its own record: copies, and requests
of the attention engine (R29, R291, R390). -/
def State.dropCommands (s : State) (c : Nat) : State :=
  let p := s.placement c
  let copies := (s.core c).chans.flatMap fun k => (k.2.queue.filter fun q => !q.begun && !q.detached).map fun _ => srcChan c k.1
  let reqs := ((s.group (groupOf c)).attnIn.filter fun q => q.core == c && !q.detached).map fun _ => srcAttn (groupOf c)
  (copies ++ reqs).foldl (fun s src => s.detachedRec src p.node c p.late) s

/-- Detach the engine commands that a core's placement still has in engines: copies that have begun complete their
writes and nothing else, the others go; requests and commands place no result (R29, R232, R291, R390). -/
def State.detach (s0 : State) (c : Nat) : State :=
  let late := (s0.placement c).late
  let s := s0.dropCommands c
  let s1 := s.modCore c fun k => { k with
    chans := k.chans.map fun p =>
      (p.1, { p.2 with
        queue := (p.2.queue.filter fun q => q.begun).map fun q =>
          if q.detached then q else { q with detached := true, late := late, waited := false, lands := q.lands.filter fun l => l.begun }
        linked := false, credit := 0 })
    sb := [] }
  let mark : EngCmd → EngCmd := fun q => if q.core = c && !q.detached then { q with detached := true, late := late } else q
  let s2 := s1.modGroup (groupOf c) fun g => { g with
    attnIn := g.attnIn.filter fun q => q.core != c
    attnRun := g.attnRun.map fun r => { r with cmd := mark r.cmd }
    attnOut := g.attnOut.filter fun r => r.core != c
    mboxIn := g.mboxIn.map mark
    mboxOut := g.mboxOut.filter fun r => r.core != c }
  { s2 with
    tmbs := s2.tmbs.map fun t => if t.core = c && !t.dead then { t with dead := true, late := late } else t
    fab := { s2.fab with reqs := s2.fab.reqs.map fun r => if r.core = c && !r.dead then { r with dead := true, late := late } else r } }

/-- Forget replaced values that no placement can read any more, and what is known of them. -/
def State.prunePast (s : State) : State :=
  let starts := (s.cores.filterMap fun p => p.2.place.map fun q => min q.since q.life) ++
    s.saved.flatMap fun g => g.cores.map fun c => min c.place.since c.place.life
  let past := s.past.filter fun p => starts.any fun n => decide (n ≤ p.stamp)
  if past.isEmpty then { s with past := [], known := [], vows := [] } else { s with past := past }

/-- Give a core back: its strands become idle and it holds no placement (R147, R232). -/
def State.emptyCore (s : State) (c : Nat) : State :=
  let s1 := ([0, 1, 2, 3, 4, 5, 6, 7, 8] : List Nat).foldl (fun s a => s.withdraw c a) s
  (s1.modCore c fun k => { k with place := none, strands := [], haspHolder := none, haspFree := s.cyc + 1, spWin := [] }).prunePast

/-- Terminate one placement: its strands stop, engine work is detached, the placement retires and its records follow
(R232, R268). -/
def State.endPlacement (s : State) (c cause cause2 : Nat) (who : Option (Nat × Nat)) : State :=
  match (s.core c).place with
  | none => s
  | some p =>
    let recs := endRecs (s.strand c) c p cause cause2 who
    let s1 := { s with barArr := s.barArr.filter fun b => !(b.core == c && b.node == p.node) }
    let s2 := (s1.detach c).emptyCore c
    s2.placeRecs (srcCore c) recs

/-- The cancelled copies and the attention requests of a saved core whose placement ends each leave with a record (R29, R312, R389). -/
def State.dropCancelled (s : State) (sc : SavedCore) : State :=
  let copies := sc.book.chans.flatMap fun k => k.2.queue.map fun _ => srcChan sc.core k.1
  let reqs := sc.reqs.map fun _ => srcAttn (groupOf sc.core)
  (copies ++ reqs).foldl (fun s src => s.detachedRec src sc.node sc.core sc.place.late) s

/-- A saved core whose node ends with a cause: its commands go, and its records follow (R29, R232). -/
def State.dropSaved (s : State) (sc : SavedCore) (cause cause2 : Nat) : State :=
  (s.dropCancelled sc).placeRecs srcFront (endRecs sc.book.strand sc.core sc.place cause cause2 none)

/-- Termination of a node on this chip: every placement of it, and every saved one; event increments still to be applied between its
strands go with them (R138, R232, R268). -/
def State.endNode (s : State) (node cause cause2 : Nat) (who : Option (Nat × Nat)) : State :=
  let cs := s.coresOf node
  let gone := s.saved.flatMap fun g => g.cores.filter fun c => c.node == node
  let s1 := cs.foldl (fun s c => s.endPlacement c cause cause2 who) s
  let s2 := gone.foldl (fun s c => s.dropSaved c cause cause2) s1
  State.releaseIds
    { s2 with
      ending := s2.ending.filter fun e => e.node != node, increments := s2.increments.filter fun i => i.node != node
      saved := (s2.saved.map fun g => { g with cores := g.cores.filter fun c => c.node != node }).filter fun g => !g.cores.isEmpty
      fab := { s2.fab with colls := s2.fab.colls.filter fun q => q.node != node } } node

/-- Whether a strand of a node has an access under way, or a request out (R232). -/
def State.nodeBusy (s : State) (node : Nat) : Bool :=
  (s.coresOf node).any fun c => ([0, 1, 2, 3] : List Nat).any fun h =>
    s.outstanding c h || queues.any fun q => ((s.strand c h).queue q).any Entry.underWay

/-- Termination of a node: at once, or when the accesses that have begun are complete (R232). -/
def State.terminate (s : State) (node cause cause2 : Nat) (who : Option (Nat × Nat)) : State :=
  if s.ending.any fun e => e.node == node then s
  else if s.nodeBusy node then
    { s with ending := s.ending ++ [{ node := node, cause := cause, cause2 := cause2, who := who }] }
  else s.endNode node cause cause2 who

/-- The termination under way of a core's node ends it once nothing that has begun is left (R232). -/
def State.endingTurn (s : State) (c : Nat) : State :=
  match s.ending.find? fun e => some e.node == (s.core c).place.map fun p => p.node with
  | some e => if s.nodeBusy e.node then s else s.endNode e.node e.cause e.cause2 e.who
  | none => s

/-- An engine reports a cause against a strand of a node: raised there while the strand runs; the node ends when the
strand has exited; nothing when the core no longer holds the node (R232, R311). -/
def State.reportTo (s : State) (c h node cause : Nat) (bundle val : W64) (seq : Nat) : State :=
  if !s.holdsNode c node then s
  else
    let t := s.report c h cause 5 bundle val seq
    if (s.strand c h).hasExited then t.terminate node cause 0 (some (c, h)) else t

/-- A strand whose cause ends its node: the termination follows once its queues have settled, its requests have completed, and no
qlaunch or qpatch holds its next bundle (R230, R232, R356, R441). -/
def State.causeTurn (s : State) (c h : Nat) : State :=
  let p := s.placement c
  let st := s.strand c h
  match st.endCause p.trapentry with
  | none => s
  | some (k, k2) =>
    if st.settled s.cyc && !st.stopped && !st.inQop && !s.outstanding c h then s.terminate p.node k k2 (some (c, h)) else s

end Sys2Proof.Machine
end

