-- ==== Sys2Proof/Machine/Aperture.lean ====
section
/-!
DEFINITION. The engine aperture: epush, epop and estat, the attn forms and attw (R167 to R170, R374, R383 to R386).
-/

namespace Sys2Proof.Machine

/-- Slots of an engine's input FIFO: 64 of the attention engine, 16 of the mailbox (R23, R374). -/
def fifoSize (eng : Nat) : Nat := if eng = 0 then 64 else 16

/-- The engine that an EA word pushes to, if it pushes (R168, R384). -/
def pushesTo (w : W32) : Option Nat :=
  match fld w.toNat 0 6 with
  | 0x00 => some (fld w.toNat 18 6)
  | 0x18 => some 0
  | 0x19 => some 0
  | 0x1A => some 0
  | _ => none

/-- The engine's commands in its input FIFO. -/
def Group.fifo (g : Group) (eng : Nat) : List EngCmd := if eng = 0 then g.attnIn else g.mboxIn

/-- The engine's result elements. -/
def Group.results (g : Group) (eng : Nat) : List ResElem := if eng = 0 then g.attnOut else g.mboxOut

/-- Replace the engine's result elements. -/
def Group.setResults (g : Group) (eng : Nat) (l : List ResElem) : Group :=
  if eng = 0 then { g with attnOut := l } else { g with mboxOut := l }

/-- Slots that a strand's EA entries hold reserved at an engine (R128). -/
def Strand.reserved (st : Strand) (eng : Nat) : Nat :=
  (st.ea.filter fun e => e.resv && pushesTo e.word == some eng).length

/-- Slots of an engine's FIFO neither filled nor reserved (R168, R170). -/
def State.fifoFree (s : State) (g eng : Nat) : Nat :=
  let resv := ((List.range 16).flatMap fun i => ([0, 1, 2, 3] : List Nat).map fun h => (s.strand (16 * g + i) h).reserved eng).sum
  fifoSize eng - ((s.group g).fifo eng).length - resv

/-- Attention requests of a strand outstanding, from reservation until the result element is taken (R374). -/
def State.attnCount (s : State) (c h : Nat) : Nat :=
  let g := s.group (groupOf c)
  (s.strand c h).reserved 0 + (g.attnIn.filter fun q => q.core == c && q.strand == h).length +
    (match g.attnRun with
      | some r => natOf (r.cmd.core == c && r.cmd.strand == h)
      | none => 0) + (g.attnOut.filter fun r => r.core == c && r.strand == h).length

/-- Whether a strand finds a slot to reserve (R128, R374). -/
def State.canReserve (s : State) (c h eng : Nat) : Bool :=
  decide (1 ≤ s.fifoFree (groupOf c) eng) && (eng != 0 || decide (s.attnCount c h < 16))

/-- The address check of the aperture forms (R168, R169). -/
def apertureOk (a : W64) : Bool := decide (a.toNat % 128 = 0) && decide (a.toNat ≤ 0xFFF80)

/-- epush and the attn forms at the head of EA: they wait for their release and their slot, read 128 bytes, and enter
them. A command comes behind those that have entered before it, whatever the order in which their slots were reserved (R168, R384; log
entry 118). -/
def State.pushForm (s : State) (eng : Nat) (b : SrcB) (var : Option Nat) : Res :=
  let e := s.cur.entry
  let c := s.cur.core
  let h := s.cur.strand
  let A := s.cap 0
  if !apertureOk A then .next (s.raiseHead 0x60 0)
  else if !s.performed c h fun x => x.before e then .next s
  else if !e.resv && !s.canReserve c h eng then .next s
  else
    let raw := leNat (s.spRead c A.toNat 128)
    let data := match var with
      | none => raw
      | some v => raw / 4 * 4 + v
    let q : EngCmd := { core := c, strand := h, tag := (s.qb 1 b).toNat % 65536, data := BitVec.ofNat 1024 data
                        bundle := e.bundle, seq := e.seq, node := s.myPlace.node, tenant := s.myPlace.tenant }
    .next ((s.modGroup (groupOf c) fun g =>
      if eng = 0 then { g with attnIn := g.attnIn ++ [q] } else { g with mboxIn := g.mboxIn ++ [q] }).finish)

/-- epush (R168). -/
def execEpush (e : XReg) (_a : XReg) (b : SrcB) (s : State) : Res := s.pushForm e.toNat b none

/-- attn (R384). -/
def execAttn (_a : XReg) (b : SrcB) (s : State) : Res := s.pushForm 0 b (some 0)

/-- attn.p8 (R384). -/
def execAttnP8 (_a : XReg) (b : SrcB) (s : State) : Res := s.pushForm 0 b (some 1)

/-- attn.p8n (R384). -/
def execAttnP8n (_a : XReg) (b : SrcB) (s : State) : Res := s.pushForm 0 b (some 2)

/-- Drop the first element that a test picks out. -/
def dropFirst {α : Type} (p : α → Bool) : List α → List α
  | [] => []
  | x :: xs => if p x then xs else x :: dropFirst p xs

/-- Whether a result element is this strand's. -/
def State.mine (s : State) (r : ResElem) : Bool := r.core == s.cur.core && r.strand == s.cur.strand

/-- epop: the strand's oldest element, to scratchpad and its status word to x[d] (R169). -/
def execEpop (d e : XReg) (b : SrcB) (s : State) : Res :=
  let B := s.qb 0 b
  if !apertureOk B then .next (s.raiseHead 0x60 0)
  else
    let g := groupOf s.cur.core
    match ((s.group g).results e.toNat).find? s.mine with
    | none => .next s
    | some r =>
      let t := s.modGroup g fun k => k.setResults e.toNat (dropFirst s.mine (k.results e.toNat))
      .next (((t.spWrite s.cur.core B.toNat (leBytes 128 r.data.toNat)).wx d (r.data.truncate 64)).finish)

/-- attw: the oldest element of the strand with the tag (R385). -/
def execAttw (d : XReg) (b : SrcB) (s : State) : Res :=
  let tag := (s.qb 0 b).toNat % 65536
  let g := groupOf s.cur.core
  let hit : ResElem → Bool := fun r => s.mine r && decide (r.tag = tag)
  match (s.group g).attnOut.find? hit with
  | none => .next s
  | some r =>
    let t := s.modGroup g fun k => { k with attnOut := dropFirst hit k.attnOut }
    .next ((t.wx d (r.data.truncate 64)).finish)

/-- Whether a result element reports a failure (R170). -/
def ResElem.fails (r : ResElem) (eng : Nat) : Bool :=
  if eng = 0 then decide (bitsAt r.data.toNat 0 2 = 1) else decide (bitsAt r.data.toNat 8 8 ≠ 0)

/-- estat (R170). -/
def execEstat (d e : XReg) (s : State) : Res :=
  let g := groupOf s.cur.core
  let mine := ((s.group g).results e.toNat).filter s.mine
  let v := w64 (s.fifoFree g e.toNat + 256 * mine.length + 65536 * natOf (mine.any fun r => r.fails e.toNat))
  .next ((s.wx d v).finish)

end Sys2Proof.Machine
end

