-- ==== Sys2Proof/Machine/Attention.lean ====
section
/-!
DEFINITION. The attention engine: the checks of a request, masks, the fold, and the writing of results
(R374 to R381, R386 to R390).
-/

namespace Sys2Proof.Machine

/-- A field of a request (R375). -/
def qf0 (q : BitVec 1024) (lo len : Nat) : Nat := bitsAt q.toNat lo len

/-- hd of a request. -/
def aHd (q : BitVec 1024) : Nat := 16 * (qf0 q 16 4 + 1)
/-- Index of the last query row. -/
def aRows (q : BitVec 1024) : Nat := qf0 q 8 6
/-- Whether the blocks are staged in scratchpad. -/
def aStaged (q : BitVec 1024) : Bool := decide (qf0 q 2 1 = 1)
/-- Whether the blocks come from a list. -/
def aListed (q : BitVec 1024) : Bool := decide (qf0 q 7 1 = 1)
/-- Number format of the query. -/
def aFmt (q : BitVec 1024) : FFmt :=
  match qf0 q 14 2 with
  | 0 => .f32
  | 1 => .bf16
  | _ => .f16
/-- Bytes of a query element. -/
def aQb (q : BitVec 1024) : Nat := if qf0 q 14 2 = 0 then 4 else 2

/-- Parent byte of a tree row (R378). -/
def State.parent (s : State) (c : Nat) (q : BitVec 1024) (r : Nat) : Nat :=
  (Mem.get (s.core c).sp (qf0 q 640 20 + r)).toNat

/-- The fields of a request that fail the first stage of R376, by their lowest bit. -/
def State.attnBad (s : State) (c : Nat) (q : BitVec 1024) : List Nat :=
  let f := qf0 q
  let hd := aHd q
  let r := aRows q
  let ring := s.ring (.local c (f 22 4))
  let resv : List (Nat × Nat) := [(32, 32), (288, 32), (340, 12), (368, 16), (404, 12), (432, 16), (468, 44), (538, 38), (596, 12),
    (632, 8), (660, 44), (706, 318)]
  let kend := f 576 20 + f 532 6 * f 608 24 + kvBytes (f 704 2) * 128 * hd
  let bad : List (Bool × Nat) :=
    [(f 0 2 = 3, 0), (f 14 2 = 3, 14), (f 20 2 = 2, 20), (decide (4 < f 4 3), 4),
     (aStaged q && f 64 64 ≠ 0, 64), (aStaged q && !aListed q, 7),
     ((f 4 3 = 2 || f 4 3 = 4) && f 192 32 = 0, 192),
     (decide (spSize < f 320 20 + r * f 352 16 + aQb q * hd), 320), (f 320 20 % aQb q ≠ 0, 320), (f 352 16 % aQb q ≠ 0, 352),
     (f 20 2 = 0 && decide (spSize < f 384 20 + r * f 416 16 + 4 * hd), 384), (f 384 20 % 4 ≠ 0, 384), (f 416 16 % 4 ≠ 0, 416),
     (f 3 1 = 1 && decide (spSize < f 448 20 + 8 * r + 8), 448), (f 448 20 % 4 ≠ 0, 448),
     (aListed q && decide (spSize < f 512 20 + 4 * f 532 6 + 4), 512), (f 512 20 % 4 ≠ 0, 512),
     (aStaged q && decide (spSize < kend), 576), (f 576 20 % 4 ≠ 0, 576), (f 608 24 % 4 ≠ 0, 608),
     (f 4 3 = 3 && (decide (spSize < f 640 20 + 64) ||
        (List.range (r + 1)).any fun i => let p := s.parent c q i; p ≠ 0xFF && decide (i ≤ p)), 640),
     (f 20 2 ≠ 0 && !ring.valid, 22),
     (f 20 2 ≠ 0 && decide (ring.stride < f 384 20 + r * f 416 16 + 4 * hd), 384)]
  (resv.filter fun p => f p.1 p.2 ≠ 0).map Prod.fst ++ (bad.filter fun p => p.1).map Prod.snd

/-- The checks of R376, in their stages: cause and value of the first failure. -/
def State.attnCheck (s : State) (c tenant : Nat) (q : BitVec 1024) : Option (Nat × W64) :=
  let h := w64 (qf0 q 64 64)
  match (s.attnBad c q).min? with
  | some b => some (0x78, w64 b)
  | none =>
    if aStaged q then none
    else
      let r := s.kvReason tenant h
      if r ≠ 0 then some (0x79, w64 r)
      else if s.kvField (hIndex h) 28 4 ≠ qf0 q 16 4 then some (0x78, 16)
      else none

/-! ### Blocks -/

/-- Keys and values of a block: 64 rows of hd values each. -/
structure KvBlock where
  k : List (List XR)
  v : List (List XR)

/-- Rows of `hd` values. -/
def rowsOf (hd : Nat) (l : List XR) : Nat → List (List XR)
  | 0 => []
  | n + 1 => l.take hd :: rowsOf hd (l.drop hd) n

/-- A block from its 128 * hd elements, in the pool's element order (R361, R375). -/
def blockOf (hd : Nat) (l : List XR) : KvBlock := { k := rowsOf hd l 64, v := rowsOf hd (l.drop (64 * hd)) 64 }

/-- Read staged block `i` (R375). -/
def State.stagedBlock (s : State) (c : Nat) (q : BitVec 1024) (i : Nat) : KvBlock :=
  let fmt := qf0 q 704 2
  let e := kvBytes fmt
  let base := qf0 q 576 20 + i * qf0 q 608 24
  blockOf (aHd q) ((List.range (128 * aHd q)).map fun n => fval (kvFmt fmt) (leNat (s.spRead c (base + e * n) e)))

/-- Read physical block `p` of the pool for logical block `l` (R365, R388): the block, or the cause and value; cause 0 where the read
waits for a stopped link (R397). -/
def State.poolBlock (s : State) (c tenant : Nat) (pool : W64) (fmt hd l p : Nat) : Except (Nat × W64) KvBlock × State :=
  let fault : Nat → Nat × W64 := fun k => (0x7B, w64 (k % 256 + 2 ^ 8 * l))
  match s.desc tenant pool with
  | .error k => (.error (fault k), s)
  | .ok d =>
    let r := (List.range (128 * hd)).foldl (fun (acc : List XR × Option (Nat × W64) × State) n =>
      let (out, err, s) := acc
      if err.isSome then acc
      else
        let cs : List Int := [(n % hd : Nat), (n / hd % 64 : Nat), (n / hd / 64 : Nat), (p : Nat)]
        match s.elem (tcOf c) d cs false with
        | (.oob, s1) => (out, some (fault 0x27), s1)
        | (.absent, s1) => (out, some (fault 0x28), s1)
        | (.fault k, s1) => (out, some (fault k), s1)
        | (.at loc, s0) =>
          let s1 := s0.verify [loc]
          if s1.placeHeld loc then (out, some (0, 0), s1)
          else if s1.locPoisoned loc then (out, some (0xA6, 0), s1.bbEvent 4 0xA6 tenant c 0)
          else
            match s1.peerFault tenant loc with
            | some e => (out, some e, s1)
            | none =>
              let s2 := (s1.touch [loc]).engineServed [loc]
              (fval (kvFmt fmt) (leNat (s2.locRead loc d.ebytes)) :: out, none, s2)) ([], none, s)
    match r.2.1 with
    | some e => (.error e, r.2.2)
    | none => (.ok (blockOf hd r.1.reverse), r.2.2)

/-! ### Masks (R378) -/

/-- Whether draft node `j` is row `r` or one of its ancestors; the chain has at most 64 links. -/
def State.onPath (s : State) (c : Nat) (q : BitVec 1024) (j : Nat) : Nat → Nat → Bool
  | 0, _ => false
  | n + 1, r => j == r || (let p := s.parent c q r; p ≠ 0xFF && State.onPath s c q j n p)

/-- Whether key position `kp` is visible to row `r` (R378). -/
def State.visible (s : State) (c : Nat) (q : BitVec 1024) (r kp : Nat) : Bool :=
  let qpos0 := qf0 q 160 32
  let qp := qpos0 + r
  let w := qf0 q 192 32
  decide (kp < qf0 q 128 32) &&
    match qf0 q 4 3 with
    | 0 => true
    | 1 => decide (kp ≤ qp)
    | 2 => decide (qp < kp + w) && decide (kp ≤ qp)
    | 3 => decide (kp < qpos0) || s.onPath c q (kp - qpos0) 65 r
    | _ => decide (kp < qf0 q 224 32) || (decide (qp < kp + w) && decide (kp ≤ qp))

/-! ### The fold (R379, R380) -/

/-- The exact sum of a list, a zero sum being -0 only where every term is -0 (R79). -/
def XR.total (l : List XR) : XR := XR.sum (.fin true 0 0) l

/-- The score of a key (R379). -/
def score (scale : W32) (qr kr : List XR) : W32 := r32 ((v32 scale).mul (v32 (r32 (XR.total (List.zipWith XR.mul qr kr)))))

/-- pair(T) of R380. -/
def pairOf (t : XR) : W32 × W32 :=
  match t with
  | .fin _ _ _ => let hi := r32 t; (hi, r32 (t.add (v32 hi).neg))
  | _ => (r32 t, 0)

/-- Fold one block into a row: the scores of the visible keys with their value rows (R380). `var`: 0 attn, 1 p8,
2 p8n. -/
def FoldRow.fold (row : FoldRow) (var : Nat) (xs : List (W32 × List XR)) : FoldRow :=
  let ninf : W32 := 0xFF800000
  let mb := match xs with
    | [] => ninf
    | x :: l => l.foldl (fun a y => fmaxDev a y.1) (if isNan32 x.1 then nan32 else x.1)
  if mb = ninf then row
  else
    let mn := fmaxDev row.m mb
    let r1 := if row.m ≠ ninf && !fcmp mn row.m 0 then
        let a := exp2Dev (fsub row.m mn)
        let p := pairOf ((v32 a).mul ((v32 row.shi).add (v32 row.slo)))
        { row with shi := p.1, slo := p.2, v := row.v.map fun x => fmul x a }
      else row
    let ps := xs.map fun x =>
      let p := exp2Dev (fsub x.1 mn)
      let w := if var = 0 then v32 p else fval .f8e4 (rneSat .f8e4 (v32 p))
      ((if var = 2 then w else v32 p), w, x.2)
    let s := pairOf (XR.sum ((v32 r1.shi).add (v32 r1.slo)) (ps.map fun p => p.1))
    { m := mn, shi := s.1, slo := s.2
      v := r1.v.zipIdx.map fun y => r32 (XR.sum (v32 y.1) (ps.map fun p => p.2.1.mul (p.2.2.getD y.2 .nan))) }

/-- Fold a block into every row; `pos` is the position of its key 0. -/
def State.foldBlock (s : State) (c : Nat) (q : BitVec 1024) (qs : List (List XR)) (rows : List FoldRow) (b : KvBlock) (pos : Nat) :
    List FoldRow :=
  let scale := w32 (qf0 q 256 32)
  rows.zipIdx.map fun p =>
    let xs := (List.range 64).filterMap fun t =>
      if s.visible c q p.2 (pos + t) then some (score scale (qs.getD p.2 []) (b.k.getD t []), b.v.getD t []) else none
    p.1.fold (qf0 q 0 2) xs

/-- The query rows (R375). -/
def State.queryRows (s : State) (c : Nat) (q : BitVec 1024) : List (List XR) :=
  (List.range (aRows q + 1)).map fun r => (List.range (aHd q)).map fun d =>
    fval (aFmt q) (leNat (s.spRead c (qf0 q 320 20 + r * qf0 q 352 16 + aQb q * d) (aQb q)))

/-- One block of a request: a skipped list entry, a failure, or a fold (R365, R377, R388). -/
def State.attnBlock (s : State) (q : EngCmd) (qs : List (List XR)) (run : AttnRun) (i : Nat) : AttnRun × State :=
  if run.fault.isSome then (run, s)
  else
    let d := q.data
    let c := q.core
    let h := w64 (qf0 d 64 64)
    let l := if aListed d then leNat (s.spRead c (qf0 d 512 20 + 4 * i) 4) else i
    if aListed d && l = 0xFFFFFFFF then ({ run with skipped := run.skipped + 1 }, s)
    else if aStaged d then
      ({ run with folded := run.folded + 1, rows := s.foldBlock c d qs run.rows (s.stagedBlock c d i) (64 * l) }, s)
    else if !s.kvReach h l then ({ run with fault := some (0x7A, w64 l) }, s)
    else if s.tableReason q.tenant ≠ 0 then ({ run with fault := some (0x79, w64 (s.tableReason q.tenant)) }, s)
    else
      match s.poolBlock c q.tenant (s.kvPool (hIndex h)) (s.kvField (hIndex h) 26 2) (aHd d) l (s.kvBlock (hIndex h) l) with
      | (.error e, t) => ({ run with fault := some e }, t)
      | (.ok b, t) => ({ run with folded := run.folded + 1, rows := t.foldBlock c d qs run.rows b (64 * l) }, t)

/-- Blocks of a request (R377). -/
def attnBlocks (q : BitVec 1024) : Nat := if aListed q then qf0 q 532 6 + 1 else ceilDiv (qf0 q 128 32) 64

/-- ATTENTION_REQUEST_BEGIN: the engine of a group begins its next request: it checks it, and folds its blocks in order
(R374, R376 to R380). -/
def execAttentionRequestBegin (s : State) : Res :=
  let g := s.group s.arg.n
  match g.attnRun, g.attnIn with
  | none, q :: rest =>
    if 64 ≤ g.attnOut.length then .next s
    else
      let s1 := s.modGroup s.arg.n fun k => { k with attnIn := rest }
      let start : AttnRun :=
        { cmd := q, rows := List.replicate (aRows q.data + 1) { v := List.replicate (aHd q.data) 0 } }
      let (run, s2) := match s1.attnCheck q.core q.tenant q.data with
        | some e => ({ start with fault := some e }, s1)
        | none =>
          let qs := s1.queryRows q.core q.data
          (List.range (attnBlocks q.data)).foldl (fun (a : AttnRun × State) i => a.2.attnBlock q qs a.1 i) (start, s1)
      .next (if run.fault = some (0, 0) then s else s2.modGroup s.arg.n fun k => { k with attnRun := some run })
  | _, _ => .next s

/-! ### Results (R381, R386, R387) -/

/-- The F32 nearest to an exact quotient with a positive divisor: the quotient to 40 bits past the divisor's length,
with a sticky bit, rounded once. -/
def divRne (x y : XR) : W32 :=
  match x, y with
  | .fin nx mx ex, .fin ny my ey =>
    if my = 0 then r32 (.inf (nx != ny))
    else if mx = 0 then r32 (.fin (nx != ny) 0 0)
    else
      let k := my.log2 + 40
      let q := mx * 2 ^ k / my
      let st := if mx * 2 ^ k % my = 0 then 0 else 1
      r32 (.fin (nx != ny) (2 * q + st) (ex - ey - (k : Int) - 1))
  | .inf nx, .fin ny _ _ => r32 (.inf (nx != ny))
  | .fin nx _ _, .inf ny => r32 (.fin (nx != ny) 0 0)
  | _, _ => nan32

/-- Whether a row is fully masked. -/
def FoldRow.masked (r : FoldRow) : Bool := decide (r.m = 0xFF800000)

/-- Whether a row is NaN (R381). -/
def FoldRow.isNan (r : FoldRow) : Bool := !r.masked && (isNan32 r.m || isNan32 r.shi || r.v.any isNan32)

/-- The output elements of a row (R381). -/
def FoldRow.out (r : FoldRow) (part : Bool) : List W32 :=
  if r.masked then r.v.map fun _ => 0
  else if part then r.v.map fun x => if isNan32 x then nan32 else x
  else if r.isNan then r.v.map fun _ => nan32
  else r.v.map fun x => divRne (v32 x) ((v32 r.shi).add (v32 r.slo))

/-- The exported pair of a row (R381). -/
def FoldRow.ms (r : FoldRow) : W32 × W32 :=
  if r.masked then (0xFF800000, 0) else ((if isNan32 r.m then nan32 else r.m), r32 ((v32 r.shi).add (v32 r.slo)))

/-- Rows that a test picks out, as bits. -/
def rowBits (l : List FoldRow) (p : FoldRow → Bool) : Nat := (l.zipIdx.map fun x => if p x.1 then 2 ^ x.2 else 0).sum

/-- Write the rows of a request at an output base, and its pairs; `keep` picks the elements that are written (R375, R381). -/
def State.attnWrite (s : State) (run : AttnRun) (base : Nat) (keep : Loc → Bool) : State :=
  let q := run.cmd.data
  let c := run.cmd.core
  let part := decide (qf0 q 3 1 = 1)
  let word := fun (s : State) (a : Nat) (w : W32) => if keep (.sp c a) then s.spWrite c a (leBytes 4 w.toNat) else s
  run.rows.zipIdx.foldl (fun s p =>
    let s1 := (p.1.out part).zipIdx.foldl (fun s x => word s (base + p.2 * qf0 q 416 16 + 4 * x.2) x.1) s
    if part then
      let a := qf0 q 448 20 + 8 * p.2
      word (word s1 a p.1.ms.1) (a + 4) p.1.ms.2
    else s1) s

/-- The result element of a request (R386). -/
def AttnRun.element (run : AttnRun) (fault : Option (Nat × W64)) : ResElem :=
  let ok := fault.isNone
  { core := run.cmd.core, strand := run.cmd.strand, tag := run.cmd.tag, node := run.cmd.node
    data := BitVec.ofNat 1024 (natOf (!ok) + 2 ^ 8 * ((match fault with
        | some e => e.1
        | none => 0) % 256) +
      2 ^ 16 * (run.folded % 65536) + 2 ^ 32 * (run.skipped % 65536) + 2 ^ 48 * run.cmd.tag +
      (if ok then 2 ^ 64 * rowBits run.rows FoldRow.masked + 2 ^ 128 * rowBits run.rows FoldRow.isNan else 0)) }

/-- A request ends: its result element enters the FIFO, and a cause is reported to its strand (R387, R388). -/
def State.attnEnd (s : State) (g : Nat) (run : AttnRun) (fault : Option (Nat × W64)) : State :=
  let s1 := s.modGroup g fun k => { k with attnRun := none, attnOut := k.attnOut ++ [run.element fault] }
  match fault with
  | none => s1
  | some (k, v) => s1.reportTo run.cmd.core run.cmd.strand run.cmd.node k run.cmd.bundle v run.cmd.seq

/-- The ring that a request of a ring mode lands in. -/
def AttnRun.ring (run : AttnRun) : RingName := .local run.cmd.core (qf0 run.cmd.data 22 4)

/-- Where the output of a request goes: its fixed address, or a slot of its ring (R375). -/
def State.attnBase (s : State) (run : AttnRun) (slot : Option Nat) : Nat :=
  match slot with
  | none => qf0 run.cmd.data 384 20
  | some k => let r := s.ring run.ring; r.base + k * r.stride + qf0 run.cmd.data 384 20

/-- Set the slot that a request lands in. -/
def State.attnSlot (s : State) (run : AttnRun) (slot : Option Nat) (v : Nat) : State :=
  match slot with
  | none => s
  | some k => s.setRing run.ring ((s.ring run.ring).setSlot k v)

/-- A turn of the writing of a request's output: all that is left, with its completion, or a part of it (R110, R387). -/
def State.attnLand (s : State) (g : Nat) (run : AttnRun) (slot : Option Nat) : State :=
  let t := s.attnWrite run (s.attnBase run slot) (turnPart s.free run.half)
  if wholeTurn s.free then (t.attnSlot run slot 3).attnEnd g run none
  else
    (t.attnSlot run slot 2).modGroup g fun k => { k with
      attnRun := some { run with half := s.free :: run.half, cmd := { run.cmd with slot := slot } } }

/-- ATTENTION_REQUEST_COMPLETE: the request in a group's engine writes its output, in a ring slot it claims or was
given, and places its result element (R381, R386, R387). A detached one writes nothing, and places only its record (R29,
R390). -/
def execAttentionRequestComplete (s : State) : Res :=
  match (s.group s.arg.n).attnRun with
  | none => .next s
  | some run =>
    let q := run.cmd.data
    let c := run.cmd.core
    if run.cmd.detached then
      .next ((s.modGroup s.arg.n fun k => { k with attnRun := none }).detachedRec (srcAttn s.arg.n) run.cmd.node c run.cmd.late)
    else if run.fault.isSome then .next (s.attnEnd s.arg.n run run.fault)
    else
      match qf0 q 20 2, run.cmd.slot with
      | 0, _ => .next (s.attnLand s.arg.n run none)
      | 1, none =>
        match (s.ring run.ring).ask { core := c, agent := 8, claims := true } run.cmd.strand with
        | (none, r) => .next (s.setRing run.ring r)
        | (some k, r) => .next ((s.setRing run.ring r).attnLand s.arg.n run (some k))
      | 1, some k => .next (s.attnLand s.arg.n run (some k))
      | _, _ =>
        let k := qf0 q 26 6
        if !run.half.isEmpty || ((s.ring run.ring).slot k = 1 && k < (s.ring run.ring).count) then
          .next (s.attnLand s.arg.n run (some k))
        else .next (s.attnEnd s.arg.n run (some (0x7C, w64 (qf0 q 22 4 + 2 ^ 8 * k))))

end Sys2Proof.Machine
end

