-- ==== Sys2Proof/Machine/Mailbox.lean ====
section
/-!
DEFINITION. The group mailboxes: round-robin service by the management core, the KV commands and refills, telemetry
and black-box notes (R20, R23, R28, R366 to R368, R472 to R474, R476).
-/

namespace Sys2Proof.Machine

/-! ### Telemetry -/

/-- Telemetry register `i` (R476). Power and temperature are measured, and free (log entry 8). -/
def State.telemetry (s : State) (i : Nat) : W64 :=
  match i with
  | 0 => w64 (natOf s.mg.up + 2 * natOf s.mg.feReady + 4 * natOf s.mg.dataUp + 8 * natOf s.bbFrozen + 16 * natOf s.mg.recovery)
  | 1 => w64 s.mg.mhz
  | 2 => Config.freeWord s.free 2
  | 3 => Config.freeWord s.free 3
  | 4 => s.mg.softErrors
  | 5 => s.mg.poisonCount
  | _ => 0

/-! ### Turns (R23) -/

/-- Whether some core of a group waits for a refill (R366). -/
def State.refillAsked (s : State) (g : Nat) : Bool := (List.range 16).any fun i => (s.core (16 * g + i)).kvAsked

/-- Whether the management core has something to serve at a group's mailbox: a command with a result slot, or a
refill. -/
def State.mboxReady (s : State) (g : Nat) : Bool :=
  let k := s.group g
  (!k.mboxIn.isEmpty && decide (k.mboxOut.length < 16)) || s.refillAsked g

/-- Whether it is a group's turn: the management core runs, and the group is the first that is ready after the one
served last (R20, R23). -/
def State.mboxTurn (s : State) (g : Nat) : Bool :=
  s.mg.up && ((List.range 64).map fun i => (s.mg.turn + 1 + i) % 64).find? s.mboxReady == some g

/-- The opcode of a mailbox command (R368). -/
def EngCmd.opcode (q : EngCmd) : Nat := bitsAt q.data.toNat 0 8

/-- Word `i` of a command. -/
def EngCmd.word (q : EngCmd) (i : Nat) : W64 := w64 (bitsAt q.data.toNat (64 * i) 64)

/-- Serve the next command of a group's mailbox, when it is its turn and its opcode is one that `ops` picks out; `f`
answers the code, the value and the state (R23, R368). A detached command leaves a completion record and no
result element (R29). -/
def State.mboxServe (s : State) (ops : Nat → Bool) (f : EngCmd → State → Nat × W64 × State) : Res :=
  match s.arg.mbox with
  | .group g =>
    match (s.group g).mboxIn with
    | [] => .next s
    | q :: rest =>
      if !s.mboxTurn g || 16 ≤ (s.group g).mboxOut.length || !ops q.opcode then .next s
      else
        let (code, v, t) := f q { s with mg := { s.mg with turn := g } }
        let r : ResElem := { core := q.core, strand := q.strand, tag := q.tag, node := q.node
                             data := BitVec.ofNat 1024 (q.opcode + 2 ^ 8 * code + 2 ^ 64 * v.toNat) }
        let u := t.modGroup g fun k => { k with mboxIn := rest, mboxOut := if q.detached then k.mboxOut else k.mboxOut ++ [r] }
        .next (if q.detached then u.detachedRec srcMgmt q.node q.core q.late else u)
  | _ => .next s

/-! ### KV commands (R368) -/

/-- Write an entry of the handle table. -/
def State.setKvEntry (s : State) (i : Nat) (e : Nat) : State := s.devWrite (kvEntryAddr i) (leBytes 64 e)

/-- The handle of an entry with a bound (R362). -/
def newHandle (i gen tenant bound : Nat) : W64 := withCheck (i + 2 ^ 20 * gen + 2 ^ 32 * tenant + 2 ^ 42 * bound)

/-- KV_CREATE: a new entry of length 0 on the tenant's pool; the reserved bits of its operand are ignored (R5). The management core picks the entry, `arg.k`, and the place
of its block table in its region, `arg.word` (R363, R368; log entry 10). -/
def execKvCreate (s : State) : Res :=
  let i := s.arg.k
  let a := s.arg.word.toNat
  if i = 0 || 2 ^ 20 ≤ i || s.kvField i 0 1 = 1 || a < mgmtBase || gddrSize ≤ a then .next s
  else
    s.mboxServe (fun o => o == 0x20) fun q t =>
      let w := (q.word 1).toNat
      let fmt := bitsAt w 26 2
      let hdm := bitsAt w 28 4
      let pool := t.poolOf q.tenant
      let ok := t.tenantValid q.tenant && match t.poolShape q.tenant pool, t.desc q.tenant pool with
        | some (hd, _), .ok d => hd = 16 * (hdm + 1) && d.ebytes = kvBytes fmt
        | _, _ => false
      if !ok then (3, 0, t)
      else
        let gen := t.kvField i 4 12
        let e := 1 + 2 ^ 4 * gen + 2 ^ 16 * q.tenant + 2 ^ 26 * fmt + 2 ^ 28 * hdm + 2 ^ 64 * pool.toNat + 2 ^ 128 * a
        (0, newHandle i gen q.tenant 0, t.setKvEntry i e)

/-- KV_DESTROY: every block returns to the pool, the generation moves on, and the entry is freed (R368). -/
def execKvDestroy (s : State) : Res :=
  s.mboxServe (fun o => o == 0x21) fun q t =>
    let h := q.word 1
    let i := hIndex h
    if t.kvReason q.tenant h ≠ 0 then (2, 0, t)
    else
      let u := t.kvReturn q.tenant (t.kvLength i)
      (0, 0, u.setKvEntry i (2 ^ 4 * ((t.kvField i 4 12 + 1) % 4096)))

/-- Return a core's cached blocks to the pool (R366, R368). -/
def State.kvEmptyCache (s : State) (c : Nat) : State :=
  let k := s.core c
  (s.kvReturn k.kvTenant k.kvCache.length).modCore c fun k => { k with kvCache := [] }

/-- KV_RETURN_CACHE: the issuing core's cached blocks return (R368). -/
def execKvReturnCache (s : State) : Res :=
  s.mboxServe (fun o => o == 0x22) fun q t =>
    if q.detached then (0, 0, t) else (0, w64 (t.core q.core).kvCache.length, t.kvEmptyCache q.core)

/-- Whether the blocks of a grant are free blocks of a tenant's pool, within its quota (R361, R367). -/
def State.grantOk (s : State) (tenant room : Nat) (bs : List Nat) : Bool :=
  match s.poolShape tenant (s.poolOf tenant) with
  | none => bs.isEmpty
  | some (_, n) =>
    decide (bs.length ≤ room) && decide (bs.eraseDups.length = bs.length) &&
      decide (bs.isEmpty ∨ s.heldOf tenant + bs.length ≤ s.quotaOf tenant) &&
      bs.all (fun b => decide (b < n) && !s.kvTaken tenant b) &&
      (!bs.isEmpty || decide (s.quotaOf tenant ≤ s.heldOf tenant) || decide (n ≤ s.heldOf tenant) || decide (room = 0))

/-- The elements of a block of a pool, as runs along dimension 0 (R361). -/
def blockRuns (p : Nat) : List (List Int) := (List.range 128).map fun n => [0, (n % 64 : Nat), (n / 64 : Nat), (p : Nat)]

/-- A block is made zero, where its tiles are resident, before it is granted (R361; log entry 91). -/
def State.zeroBlock (s : State) (tenant hd p : Nat) : State :=
  match s.desc tenant (s.poolOf tenant) with
  | .error _ => s
  | .ok d =>
    let (ls, t) := (blockRuns p).foldl (fun (acc : List Loc × State) cs =>
      let (hs, u) := acc.2.elems .memory d false (List.replicate hd true) cs none
      (hs.foldl (fun out h => match h with
        | .at l => l :: out
        | _ => out) acc.1, u)) ([], s)
    let ws := (ls.reverse.flatMap fun l => (List.range d.ebytes).map fun i => (l.plus i, (0 : Byte))).filter fun w =>
      t.locGet w.1 ≠ 0 || t.locPoisoned w.1
    (t.locWrites ws).engineServed (ws.map Prod.fst)

/-- KV_REFILL_GRANT: the management core grants the blocks `arg.nats` to a core that asked, each made zero; every registered counter
receives +1 (R361, R366, R367). -/
def execKvRefillGrant (s : State) : Res :=
  let c := s.arg.core
  let k := s.core c
  let bs := s.arg.nats
  if !k.kvAsked || !s.mboxTurn (groupOf c) || !s.grantOk k.kvTenant (16 - k.kvCache.length) bs then .next s
  else
    let hd := ((s.poolShape k.kvTenant (s.poolOf k.kvTenant)).map Prod.fst).getD 0
    let t := bs.foldl (fun s b => s.zeroBlock k.kvTenant hd b) (s.setHeld k.kvTenant (s.heldOf k.kvTenant + bs.length))
    let post : Strand → Strand := fun st =>
      { ((List.range 16).filter fun n => st.refills.getLsbD n).foldl (fun st n => (st.bump n 1).wake s.cyc n) st with refills := 0 }
    let u := t.modCore c fun k =>
      ([0, 1, 2, 3] : List Nat).foldl (fun k h => k.setStrand h (post (k.strand h)))
        { k with kvCache := k.kvCache ++ bs, kvAsked := false }
    .next { u with mg := { u.mg with turn := groupOf c } }

/-! ### The other commands (R474) -/

/-- TELEMETRY_READ: register index in word 1 (R474). -/
def execTelemetryRead (s : State) : Res :=
  s.mboxServe (fun o => o == 0x10) fun q t =>
    let i := (q.word 1).toNat
    if 64 ≤ i then (3, 0, t) else (0, t.telemetry i, t)

/-- BLACK_BOX_NOTE: 16 bytes in words 1 and 2, with the issuing core and tenant (R472, R474). -/
def execBlackBoxNote (s : State) : Res :=
  s.mboxServe (fun o => o == 0x11) fun q t =>
    (0, 0, t.bbEvent 6 0 q.tenant q.core (BitVec.ofNat 128 (bitsAt q.data.toNat 64 128)))

/-- Whether the group mailbox knows an opcode (R368, R474). -/
def mboxKnown (o : Nat) : Bool := ([0x10, 0x11, 0x20, 0x21, 0x22] : List Nat).contains o

end Sys2Proof.Machine
end

