-- ==== Sys2Proof/Machine/Copy.lean ====
section
/-!
DEFINITION. The copy engine: templates and commands, boxes, channels, landings, chains, and the copy forms
(R290 to R314).
-/

namespace Sys2Proof.Machine

/-! ### Templates (R293) -/

/-- A field of a template. -/
def tf (t : BitVec 1024) (lo len : Nat) : Nat := bitsAt t.toNat lo len
/-- A template with a field replaced. -/
def setTf (t : BitVec 1024) (lo len v : Nat) : BitVec 1024 :=
  BitVec.ofNat 1024 (t.toNat - tf t lo len * 2 ^ lo + v % 2 ^ len * 2 ^ lo)
/-- Direction. -/
def tDir (t : BitVec 1024) : Nat := tf t 0 2
/-- Tensor register of the memory side. -/
def tStn (t : BitVec 1024) : Nat := tf t 4 4
/-- Box dimensions. -/
def tRank (t : BitVec 1024) : Nat := tf t 12 2 + 1
/-- log2 of element bytes. -/
def tEsz (t : BitVec 1024) : Nat := tf t 14 2
/-- Scratchpad base, or offset in a slot. -/
def tSpbase (t : BitVec 1024) : Nat := tf t 20 20
/-- Extent of box dimension `k`. -/
def tExt (t : BitVec 1024) (k : Nat) : Nat := tf t (64 + 16 * k) 16
/-- Memory-side start coordinate `k`. -/
def tCoord (t : BitVec 1024) (k : Nat) : Int := sval 32 (tf t (128 + 32 * k) 32)
/-- Destination start coordinate `k`. -/
def tDst (t : BitVec 1024) (k : Nat) : Int := sval 32 (tf t (320 + 32 * k) 32)
/-- Scratchpad bytes between steps of box dimension `k`, from 1. -/
def tStride (t : BitVec 1024) (k : Nat) : Nat := tf t (512 + 20 * (k - 1)) 20
/-- Ring mode. -/
def tRmode (t : BitVec 1024) : Nat := tf t 640 2
/-- Local ring. -/
def tRid (t : BitVec 1024) : Nat := tf t 642 4
/-- Slot for ring mode 11. -/
def tRslot (t : BitVec 1024) : Nat := tf t 646 6
/-- Event counters consumed. -/
def tWmask (t : BitVec 1024) : Nat := tf t 576 16
/-- Event counters incremented. -/
def tSmask (t : BitVec 1024) : Nat := tf t 592 16
/-- Bytes between the blocks of a gather. -/
def tGstride (t : BitVec 1024) : Nat := tf t 704 20

/-- Whether a template's reserved fields are 0 (R293). -/
def tReserved (t : BitVec 1024) : Bool :=
  ([(3, 1), (19, 1), (40, 24), (288, 32), (480, 32), (572, 4), (617, 23), (652, 52), (724, 44), (771, 1), (804, 220)] :
    List (Nat × Nat)).all fun p => decide (tf t p.1 p.2 = 0)

/-- The allowed pairs of direction and ring mode (R297). -/
def ringModeOk (dir rmode : Nat) : Bool :=
  match rmode with
  | 0 => decide (dir ≤ 2)
  | 1 => decide (dir = 0)
  | 2 => decide (dir = 1)
  | _ => decide (dir = 0)

/-- A template is usable. d0 to d4 are ignored where dir is not 10: the table asks for 0 there, and no cause names them (R293, R314; log
entry 119). -/
def templateOk (t : BitVec 1024) : Bool :=
  decide (tf t 2 1 = 1) && tReserved t && decide (tDir t ≠ 3) && ringModeOk (tDir t) (tRmode t) && decide (tf t 16 3 ≤ 4) &&
    (List.range (tRank t)).all fun k => decide (1 ≤ tExt t k)

/-- The extent X of a box in scratchpad (R295). -/
def boxExtent (t : BitVec 1024) : Nat :=
  tExt t 0 * 2 ^ tEsz t + ((List.range (tRank t - 1)).map fun k => (tExt t (k + 1) - 1) * tStride t (k + 1)).sum

/-! ### Building a command (R301 to R303) -/

/-- The template that a control word names, with its overrides applied (R294, R301); none where R314 refuses it. -/
def State.template (s : State) (c : Nat) (cw : W64) : Option (BitVec 1024) :=
  let t := Map.get 0 (s.core c).templates (bitsAt cw.toNat 0 6)
  let spo := cw.getLsbD 6
  let co := cw.getLsbD 7
  let so := cw.getLsbD 8
  let cdim := bitsAt cw.toNat 9 3
  if !templateOk t || (spo && so) || 4 < cdim then none
  else
    let t1 := if spo then setTf t 20 20 (bitsAt cw.toNat 12 20) else t
    let t2 := if so then setTf t1 646 6 (bitsAt cw.toNat 12 6) else t1
    let lo := 128 + 32 * cdim
    some (if co then setTf t2 lo 32 (tf t2 lo 32 + bitsAt cw.toNat 32 32) else t2)

/-- The scratchpad base of a landing in a slot of a ring, or with no ring (R295). -/
def landBase (t : BitVec 1024) (r : Ring) (slot : Option Nat) : Nat :=
  match slot with
  | none => tSpbase t
  | some k => r.base + k * r.stride + tSpbase t

/-- Whether a box fits a ring's slots (R297). -/
def boxFits (t : BitVec 1024) (r : Ring) : Bool := decide (tSpbase t + boxExtent t ≤ r.stride)

/-- The checks of R301 after the template's own: the ring's validity and the scratchpad range, for `n` blocks
`stride` bytes apart; with ring mode 00, 0x65 is taken over all of them (R301, R303; log entry 119). -/
def State.boxCheck (s : State) (c : Nat) (t : BitVec 1024) (n stride : Nat) : Option Nat :=
  let x := boxExtent t
  let r := s.ring (.local c (tRid t))
  match tRmode t with
  | 0 => if spSize < tSpbase t + (n - 1) * stride + x then some 0x65 else none
  | m =>
    if !r.valid then some 0x68
    else if !boxFits t r || (m = 3 && decide (spSize < landBase t r (some (tRslot t)) + x)) then some 0x65 else none

/-- The command that a copy form issues, or its cause: 0x64, 0x68 or 0x65 (R301 to R303, R314). `kind`: 0 cpy, 1 cpym,
2 cpyg; `op0` and `op1` are the scalar operands of the latter two. -/
def State.copyBuild (s : State) (c h kind : Nat) (op0 op1 cw : W64) (refs : Nat → W64) : Except Nat CopyCmd :=
  match s.template c cw with
  | none => .error 0x64
  | some t =>
    let rm := tRmode t
    let bad := match kind with
      | 0 => false
      | 1 => tDir t ≠ 0 || rm = 1 || op0 = 0 || bitsAt op0.toNat 16 48 ≠ 0
      | _ => tDir t ≠ 0 || bitsAt op1.toNat 26 38 ≠ 0 || op1.toNat % 4 ≠ 0
    let n := if kind = 2 then bitsAt op1.toNat 20 6 + 1 else 1
    if bad then .error 0x64
    else
      match s.boxCheck c t n (tGstride t) with
      | some k => .error k
      | none =>
        if kind = 2 && decide (spSize < bitsAt op1.toNat 0 20 + 4 * n) then .error 0x65
        else
          .ok { strand := h, tmpl := t, kind := kind, src := refs (tStn t), dst := refs (tf t 8 4)
                mask := if kind = 1 then op0.truncate 16 else 0
                nb := if kind = 1 then op1 else 0
                handle := if kind = 2 then op0 else 0
                list := if kind = 2 then op1 else 0
                tenant := (s.placement c).tenant, node := (s.placement c).node }

/-- The scratchpad range that a command's scoreboard entry covers, and whether it is a write range; none where it takes
no entry (R307). -/
def State.sbRange (s : State) (c : Nat) (q : CopyCmd) : Option ScoreEntry :=
  let t := q.tmpl
  let r := s.ring (.local c (tRid t))
  if q.kind = 1 || tDir t = 2 || q.chain.isSome then none
  else if tRmode t = 0 then
    let n := if q.kind = 2 then bitsAt q.list.toNat 20 6 else 0
    some { lo := tSpbase t, hi := tSpbase t + n * tGstride t + boxExtent t - 1, write := decide (tDir t = 0) }
  else some { lo := r.base, hi := r.base + r.count * r.stride - 1, write := decide (tDir t = 0) }

/-- A free entry of a core's scoreboard (R307). -/
def Core.sbFree (k : Core) : Option Nat := ([0, 1, 2, 3, 4, 5, 6, 7] : List Nat).find? fun i => !Map.has k.sb i

/-- Free a scoreboard entry. -/
def State.sbDrop (s : State) (c : Nat) (i : Option Nat) : State :=
  match i with
  | none => s
  | some i => s.modCore c fun k => { k with sb := Map.erase k.sb i }

/-! ### Channels -/

/-- A channel of a core. -/
def Core.chan (k : Core) (ch : Nat) : Channel := Map.get {} k.chans ch

/-- Change a channel. -/
def State.modChan (s : State) (c ch : Nat) (f : Channel → Channel) : State :=
  s.modCore c fun k => { k with chans := Map.put k.chans ch (f (k.chan ch)) }

/-- A channel of a core of the state. -/
def State.chan (s : State) (c ch : Nat) : Channel := (s.core c).chan ch

/-- Change one command of a channel. -/
def State.modCmd (s : State) (c ch id : Nat) (f : CopyCmd → CopyCmd) : State :=
  s.modChan c ch fun k => { k with queue := k.queue.map fun q => if q.id = id then f q else q }

/-- A command of a channel. -/
def State.cmd? (s : State) (c ch id : Nat) : Option CopyCmd := (s.chan c ch).queue.find? fun q => q.id == id

/-- Enter a command into a channel. -/
def Channel.enter (k : Channel) (q : CopyCmd) : Channel :=
  { k with queue := k.queue ++ [{ q with id := k.nextId }], nextId := k.nextId + 1 }

/-- The command of the form at the head of EA: the one built at issue, or, for an entry that comes from a replay record
of a check that failed, one built now (R233, R301). -/
def State.headCmd (s : State) (kind : Nat) (cw : W64) : Except Nat CopyCmd :=
  match s.cur.entry.cmd with
  | some q => .ok q
  | none => s.copyBuild s.cur.core s.cur.strand kind (s.cap 0) (s.cap 1) cw s.me.rt

/-- cpy, cpym and cpyg at the head of EA: once its release is done, the command passes into its channel, which may
hold 16; an entry without a scoreboard entry that it needs takes one first (R290, R301, R307). -/
def State.copyForm (s : State) (ch kind : Nat) (cw : W64) : Res :=
  let c := s.cur.core
  let e := s.cur.entry
  if !s.performed c s.cur.strand fun x => x.before e then .next s
  else
    match s.headCmd kind cw with
    | .error k => .next (s.raiseHead k 0)
    | .ok q0 =>
      let q := { q0 with bundle := e.bundle, seq := e.seq, since := e.ready }
      if 16 ≤ (s.chan c ch).queue.length then .next s
      else
        match q.sb, s.sbRange c q with
        | none, some r =>
          match (s.core c).sbFree with
          | none => .next s
          | some i =>
            let t := s.modCore c fun k => { k with sb := Map.put k.sb i { r with since := q.since } }
            .next ((t.modChan c ch fun k => k.enter { q with sb := some i }).finish)
        | _, _ => .next ((s.modChan c ch fun k => k.enter q).finish)

/-- cpy (R301). -/
def execCpy (ch : BitVec 2) (b : SrcB) (s : State) : Res := s.copyForm ch.toNat 0 (s.qb 0 b)

/-- cpym (R302). -/
def execCpym (ch : BitVec 2) (_a : XReg) (b : SrcB) (s : State) : Res := s.copyForm ch.toNat 1 (s.qb 2 b)

/-- cpyg (R303). -/
def execCpyg (ch : BitVec 2) (_a : XReg) (b : SrcB) (s : State) : Res := s.copyForm ch.toNat 2 (s.qb 2 b)

/-! ### Boxes (R295, R296) -/

/-- The indices of a box, the first varying fastest. -/
def boxIdx : List Nat → List (List Nat)
  | [] => [[]]
  | e :: es => (boxIdx es).flatMap fun t => (List.range e).map fun i => i :: t

/-- The indices of a template's box. -/
def tmplIdx (t : BitVec 1024) : List (List Nat) := boxIdx ((List.range (tRank t)).map fun k => tExt t k)

/-- Memory coordinates of an index: `start k` is the start coordinate of dimension k. -/
def boxCoords (start : Nat → Int) (ix : List Nat) : List Int := (List.range 5).map fun k => start k + (ix.getD k 0 : Nat)

/-- Scratchpad offset of an index from the box's base. -/
def boxOff (t : BitVec 1024) (ix : List Nat) : Nat :=
  (ix.getD 0 0) * 2 ^ tEsz t + ((List.range (tRank t - 1)).map fun k => ix.getD (k + 1) 0 * tStride t (k + 1)).sum

/-- What moving a box's elements has met so far: its flags, its first fault, and whether an element waits for a stopped link
(R296, R304, R311, R397). -/
structure Moved where
  flags : W64 := 0
  fault : Option (Nat × W64) := none
  held : Bool := false
  deriving DecidableEq, Repr

/-- Record a fault, unless one is recorded. -/
def Moved.fail (m : Moved) (cause : Nat) (val : W64) : Moved :=
  { m with flags := m.flags ||| 16, fault := some (m.fault.getD (cause, val)) }

/-- Set a flag. -/
def Moved.flag (m : Moved) (f : W64) : Moved := { m with flags := m.flags ||| f }

/-- The value of 0x66 (R311). -/
def copyVal (cause tile reg : Nat) : W64 := w64 (cause % 256 + 2 ^ 8 * (tile % 2 ^ 32) + 2 ^ 40 * (reg % 16))

/-- The tile of an element, 0 where it has none. -/
def tileOf (d : Desc) (cs : List Int) : Nat :=
  match d.map cs with
  | some (t, _) => t
  | none => 0

/-- The layout that a command's reference names, or the cause (R296). -/
def State.copyDesc (s : State) (q : CopyCmd) (ref : W64) : Except Nat Desc :=
  match s.desc q.tenant ref with
  | .error k => .error k
  | .ok d => if d.esize ≠ tEsz q.tmpl then .error 0x26 else .ok d

/-- The key of an element of a fetched box: its place in box order, above its scratchpad offset (R295). -/
def boxKey (i off : Nat) : Nat := 2 ^ 21 * i + off

/-- A box in the making: the bytes read, by key, the elements that are still to be read, and what was met. -/
structure Box where
  got : List (Nat × List Byte) := []
  todo : List (Nat × Loc × Nat) := []
  met : Moved := {}
  deriving DecidableEq, Repr

/-- Read the elements of a box from memory (the read side of R296): for each index that lands, its key and its bytes, or, by a free
choice, the place that they are read from later (R109). -/
def State.boxRead (s : State) (c : Nat) (q : CopyCmd) (start : Nat → Int) (m : Moved) : Box × State :=
  let t := q.tmpl
  let n := 2 ^ tEsz t
  match s.copyDesc q q.src with
  | .error k => ({ met := m.fail 0x66 (copyVal k 0 (tStn t)) }, s)
  | .ok d =>
    let (r, u) := (tmplIdx t).zipIdx.foldl (fun (acc : Box × State) p =>
      let (b, s) := acc
      let ix := p.1
      let key := boxKey p.2 (boxOff t ix)
      let cs := boxCoords start ix
      let zeros := (key, List.replicate n (0 : Byte))
      match s.elem (tcOf c) d cs false with
      | (.oob, s1) => ({ b with got := zeros :: b.got, met := b.met.flag 2 }, s1)
      | (.absent, s1) => ({ b with got := zeros :: b.got, met := b.met.flag 1 }, s1)
      | (.fault k, s1) => ({ b with met := b.met.fail 0x66 (copyVal k (tileOf d cs) (tStn t)) }, s1)
      | (.at l, s0) =>
        let s1 := s0.verify [l]
        if s1.placeHeld l then ({ b with met := { b.met with held := true } }, s1)
        else if s1.locPoisoned l then ({ b with met := b.met.fail 0xA6 0 }, s1.bbEvent 4 0xA6 q.tenant c 0)
        else
          match s1.peerFault q.tenant l with
          | some (k, v) => ({ b with met := b.met.fail k v }, s1)
          | none =>
            let s2 := (s1.touch [l]).engineServed [l]
            if turnPart s.free [] l then ({ b with got := (key, s2.locRead l n) :: b.got }, s2)
            else ({ b with todo := (key, l, n) :: b.todo }, s2)) ({ met := m }, s)
    ({ r with got := r.got.reverse, todo := r.todo.reverse }, u)

/-- Two parts of a box in box order, merged in box order. -/
def mergeBox : Nat → List (Nat × List Byte) → List (Nat × List Byte) → List (Nat × List Byte)
  | n + 1, x :: xs, y :: ys => if y.1 < x.1 then y :: mergeBox n (x :: xs) ys else x :: mergeBox n xs (y :: ys)
  | _, xs, ys => xs ++ ys

/-- Elements of a command's box that `pick` picks, and that have been poisoned since the command found them (R471). -/
def State.spoilt (s : State) (q : CopyCmd) (pick : Loc → Bool) : Bool := q.todo.any fun e => pick e.2.1 && s.locPoisoned e.2.1

/-- The command once the elements of its box that `pick` picks have been read; they take their places in box order. One that has been
poisoned is a fault, and writes nothing (R295, R471). -/
def State.fetched (s : State) (q : CopyCmd) (pick : Loc → Bool) : CopyCmd :=
  let bad := s.spoilt q pick
  let good := q.todo.filter fun e => pick e.2.1 && !s.locPoisoned e.2.1
  { q with
    box := mergeBox (q.box.length + q.todo.length) q.box (good.map fun e => (e.1, s.locRead e.2.1 e.2.2))
    todo := q.todo.filter fun e => !pick e.2.1
    flags := if bad then q.flags ||| 16 else q.flags
    fault := if bad then some (q.fault.getD (0xA6, 0)) else q.fault }

/-- What the reads of `fetched` leave in the machine: their checks, and a poisoned one is recorded (R470, R471). -/
def State.fetching (s : State) (c : Nat) (q : CopyCmd) (pick : Loc → Bool) : State :=
  let t := s.verify ((q.todo.filter fun e => pick e.2.1).map fun e => e.2.1)
  if t.spoilt q pick then t.bbEvent 4 0xA6 q.tenant c 0 else t

/-- Stores to memory that a command makes in one turn, the last first: the element's coordinates, and its bytes with their
places; `all` holds those of every turn. -/
structure Puts where
  css : List (List Int) := []
  ws : List (List (Loc × Byte)) := []
  all : List (List (Loc × Byte)) := []
  met : Moved := {}
  deriving DecidableEq, Repr

/-- One element that a command writes to memory (the write side of R296); of its bytes, those that `keep` picks are written. -/
def State.elemWrite (s : State) (c : Nat) (q : CopyCmd) (d : Desc) (reg : Nat) (keep : Loc → Bool) (cs : List Int) (bs : List Byte)
    (p : Puts) : Puts × State :=
  match s.elem (tcOf c) d cs true with
  | (.oob, s1) => ({ p with met := p.met.flag 2 }, s1)
  | (.absent, s1) => ({ p with met := p.met.fail 0x66 (copyVal 0x28 (tileOf d cs) reg) }, s1)
  | (.fault k, s1) => ({ p with met := p.met.fail 0x66 (copyVal k (tileOf d cs) reg) }, s1)
  | (.at l, s1) =>
    if s1.placeHeld l then ({ p with met := { p.met with held := true } }, s1)
    else
      match s1.peerFault q.tenant l with
      | some (k, v) => ({ p with met := p.met.fail k v }, s1)
      | none =>
        let el := (List.range bs.length).map fun i => (l.plus i, bs.getD i 0)
        let p := { p with all := el :: p.all }
        match el.filter fun w => keep w.1 with
        | [] => (p, s1)
        | ws => ({ p with css := cs :: p.css, ws := ws :: p.ws }, s1)

/-- The stores of a turn are performed; with the last of them, sectors that they cover whole have been written (R277, R343). -/
def State.putAll (s : State) (c : Nat) (d : Desc) (last : Bool) (p : Puts) : Moved × State :=
  let ws := p.ws.reverse.flatten
  let t := ((s.stored (tcOf c) d p.css.reverse).locWrites ws).engineServed (ws.map Prod.fst)
  (p.met, if last then t.wroteWhole p.all.reverse.flatten else t)

/-- Write a box from scratchpad to memory (dir 01 of R295). `keep` picks the bytes that are written, `last` says that they are the last. -/
def State.boxStore (s : State) (c : Nat) (q : CopyCmd) (base : Nat) (keep : Loc → Bool) (last : Bool) (m : Moved) : Moved × State :=
  let t := q.tmpl
  let n := 2 ^ tEsz t
  match s.copyDesc q q.src with
  | .error k => (m.fail 0x66 (copyVal k 0 (tStn t)), s)
  | .ok d =>
    let (p, u) := (tmplIdx t).foldl (fun (acc : Puts × State) ix =>
      acc.2.elemWrite c q d (tStn t) keep (boxCoords (tCoord t) ix) (acc.2.spRead c (base + boxOff t ix) n) acc.1) ({ met := m }, s)
    u.putAll c d last p

/-- Copy a box from one tensor to another (dir 10 of R295). -/
def State.boxMove (s : State) (c : Nat) (q : CopyCmd) (keep : Loc → Bool) (last : Bool) (m : Moved) : Moved × State :=
  let t := q.tmpl
  let n := 2 ^ tEsz t
  match s.copyDesc q q.src, s.copyDesc q q.dst with
  | .error k, _ => (m.fail 0x66 (copyVal k 0 (tStn t)), s)
  | _, .error k => (m.fail 0x66 (copyVal k 0 (tf t 8 4)), s)
  | .ok ds, .ok dd =>
    let (p, u) := (tmplIdx t).foldl (fun (acc : Puts × State) ix =>
      let (p, s) := acc
      let cs := boxCoords (tCoord t) ix
      let put := fun (bs : List Byte) (m : Moved) (s : State) =>
        s.elemWrite c q dd (tf t 8 4) keep (boxCoords (tDst t) ix) bs { p with met := m }
      match s.elem (tcOf c) ds cs false with
      | (.oob, s1) => put (List.replicate n 0) (p.met.flag 2) s1
      | (.absent, s1) => put (List.replicate n 0) (p.met.flag 1) s1
      | (.fault k, s1) => ({ p with met := p.met.fail 0x66 (copyVal k (tileOf ds cs) (tStn t)) }, s1)
      | (.at l, s0) =>
        let s1 := s0.verify [l]
        if s1.placeHeld l then ({ p with met := { p.met with held := true } }, s1)
        else if s1.locPoisoned l then ({ p with met := p.met.fail 0xA6 0 }, s1.bbEvent 4 0xA6 q.tenant c 0)
        else
          match s1.peerFault q.tenant l with
          | some (k, v) => ({ p with met := p.met.fail k v }, s1)
          | none => let s2 := (s1.touch [l]).engineServed [l]; put (s2.locRead l n) p.met s2) ({ met := m }, s)
    u.putAll c dd last p

/-- Land a fetched box in a core's scratchpad; `keep` picks the bytes that are written (R295). -/
def State.boxLand (s : State) (c base : Nat) (box : List (Nat × List Byte)) (keep : Loc → Bool) : State :=
  box.foldl (fun (s : State) (p : Nat × List Byte) =>
    let a := base + p.1
    let ws := p.2.zipIdx.filter fun b => keep (.sp c (a + b.2))
    if ws.length = p.2.length then s.spWrite c a p.2 else ws.foldl (fun s b => s.spWrite c (a + b.2) [b.1]) s) s

/-! ### Beginning a command (R298) -/

/-- The strand whose counters and reports a command has: its own, for a chain entry the linking one. -/
def State.cmdTake (s : State) (c h : Nat) (mask : Nat) : Option State :=
  let st := s.strand c h
  let ns := (List.range 16).filter fun n => mask.testBit n
  if ns.all fun n => decide (1 ≤ (st.re n).toNat) then
    some (s.setStrand c h (ns.foldl (fun st n => (st.bump n 0xFFFF).wake s.cyc n) st))
  else none

/-- The landings of a command that lands one box, at its core or at each receiver of a cpym, in position order (R302). -/
def State.landings (s : State) (c : Nat) (q : CopyCmd) (slot : Option Nat) : List Landing :=
  let t := q.tmpl
  let at_ : Nat → Landing := fun r => { core := r, slot := slot, base := landBase t (s.ring (.local r (tRid t))) slot }
  if q.kind = 1 then
    ((List.range 16).filter fun k => q.mask.getLsbD k).map fun k => at_ (16 * groupOf c + k)
  else [at_ c]

/-- Fetch the box of a command that lands one box, and set its landings going; it waits while a link that it needs is stopped
(R397). -/
def State.fetchBox (s : State) (c ch : Nat) (q : CopyCmd) (slot : Option Nat) : State :=
  let (b, s1) := s.boxRead c q (tCoord q.tmpl) { flags := q.flags, fault := q.fault }
  if b.met.held then s.modCmd c ch q.id fun q => { q with waited := true, slot := slot }
  else
    s1.modCmd c ch q.id fun q =>
      { q with waited := false, slot := slot, box := b.got, todo := b.todo, flags := b.met.flags, fault := b.met.fault
               lands := s1.landings c q slot }

/-- The slot of a command that names it: ring mode 11, or one kept from before a pre-emption. -/
def CopyCmd.fixedSlot (q : CopyCmd) : Option Nat := if tRmode q.tmpl = 3 then some (tRslot q.tmpl) else q.slot

/-- Ask a local ring for the slot of a command of ring mode 01 or 10; the channel is agent 4 + ch (R297). -/
def State.chanAsk (s : State) (c ch : Nat) (q : CopyCmd) : Option Nat × State :=
  let n : RingName := .local c (tRid q.tmpl)
  let (k, r) := (s.ring n).ask { core := c, agent := 4 + ch, claims := decide (tRmode q.tmpl = 1) } q.strand
  (k, s.setRing n r)

/-- A begun command gets its slot and its box: a gather starts at its first list entry, a store keeps its slot until it
completes (R297, R303). -/
def State.startMoves (s : State) (c ch : Nat) (q : CopyCmd) : State :=
  let m := tRmode q.tmpl
  if q.kind = 2 then s
  else if (m = 1 || m = 2) && q.slot.isNone then
    match s.chanAsk c ch q with
    | (none, t) => t.modCmd c ch q.id fun q => { q with waited := true }
    | (some k, t) =>
      if tDir q.tmpl = 0 then t.fetchBox c ch q (some k)
      else t.modCmd c ch q.id fun q => { q with waited := false, slot := some k }
  else if tDir q.tmpl = 0 then s.fetchBox c ch q q.fixedSlot
  else s

/-- COPY_BEGIN: the first command of a channel that has not begun consumes its event counters and begins, behind at
most three others and not behind one that waits for its ring; such a one asks again (R290, R297, R298). -/
def execCopyBegin (s : State) : Res :=
  let c := s.arg.core
  let ch := s.arg.ch
  let k := s.chan c ch
  match k.queue.find? fun q => q.waited with
  | some q => .next (s.startMoves c ch q)
  | none =>
    match k.queue.find? fun q => !q.begun with
    | none => .next s
    | some q =>
      if 4 ≤ (k.queue.filter fun q => q.begun).length then .next s
      else
        match s.cmdTake c q.strand (if q.again then 0 else tWmask q.tmpl) with
        | none => .next s
        | some t =>
          let q' := { q with begun := true }
          .next ((t.modCmd c ch q.id fun _ => q').startMoves c ch q')

/-! ### Gathers (R303) -/

/-- Entries of a gather's list. -/
def CopyCmd.count (q : CopyCmd) : Nat := bitsAt q.list.toNat 20 6 + 1

/-- A gather stops at a failing block: 0x67 with the list index. -/
def CopyCmd.gatherFail (q : CopyCmd) : CopyCmd :=
  { q with flags := q.flags ||| 16, fault := some (q.fault.getD (0x67, w64 q.gnext)), gnext := q.count }

/-- Whether the pool of a handle is the tensor that a gather reads, and the handle and block are good (R303, R365). -/
def State.gatherOk (s : State) (q : CopyCmd) (l : Nat) : Bool :=
  let i := hIndex q.handle
  s.kvReason q.tenant q.handle = 0 && s.tableReason q.tenant = 0 && s.kvReach q.handle l && bitsAt (s.kvPool i).toNat 0 20 = bitsAt q.src.toNat 0 20 &&
    bitsAt (s.kvPool i).toNat 30 14 = bitsAt q.src.toNat 30 14

/-- The landing of block `i` of a gather, once it has its slot. -/
def State.gatherLand (s : State) (c ch : Nat) (q : CopyCmd) (p : Nat) (slot : Option Nat) : State :=
  let t := q.tmpl
  let g := tf t 16 3
  let start : Nat → Int := fun k => tCoord t k + (if k = g then (p : Int) else 0)
  let (b, s1) := s.boxRead c q start { flags := q.flags, fault := q.fault }
  let base := match slot with
    | none => tSpbase t + q.gnext * tGstride t
    | some _ => landBase t (s1.ring (.local c (tRid t))) slot
  let l : Landing := { core := c, slot := slot, base := base, block := q.gnext }
  if b.met.held then s.modCmd c ch q.id fun q => { q with waited := false, slot := if tRmode t = 1 then slot else none }
  else
    s1.modCmd c ch q.id fun q =>
      { q with waited := false, slot := none, flags := b.met.flags, fault := b.met.fault, gnext := q.gnext + 1
               lands := q.lands ++ [l], box := q.box ++ b.got.map fun p => (p.1 + 2 ^ 53 * l.block, p.2)
               todo := q.todo ++ b.todo.map fun p => (p.1 + 2 ^ 53 * l.block, p.2) }

/-- GATHER_BLOCK_BEGIN: the next block of a gather that has begun: its list entry is read, mapped through the handle,
and its box fetched; with ring mode 01 it takes its slot once the block before it has landed (R303, R365, R373). -/
def execGatherBlockBegin (s : State) : Res :=
  let c := s.arg.core
  let ch := s.arg.ch
  match (s.chan c ch).queue.find? fun q => q.begun && q.kind == 2 && decide (q.gnext < q.count) && !q.detached with
  | none => .next s
  | some q =>
    let l := leNat (s.spRead c (bitsAt q.list.toNat 0 20 + 4 * q.gnext) 4)
    if l = 0xFFFFFFFF then
      .next (s.modCmd c ch q.id fun q => { q with flags := q.flags ||| 8, gnext := q.gnext + 1 })
    else if !s.gatherOk q l then .next (s.modCmd c ch q.id CopyCmd.gatherFail)
    else
      let p := s.kvBlock (hIndex q.handle) l
      match tRmode q.tmpl with
      | 0 => .next (s.gatherLand c ch q p none)
      | 1 =>
        if !q.lands.isEmpty then .next s
        else if q.slot.isSome then .next (s.gatherLand c ch q p q.slot)
        else
          match s.chanAsk c ch q with
          | (none, t) => .next (t.modCmd c ch q.id fun q => { q with waited := true })
          | (some k, t) => .next (t.gatherLand c ch q p (some k))
      | _ => .next (s.gatherLand c ch q p (some ((tRslot q.tmpl + q.gnext) % (s.ring (.local c (tRid q.tmpl))).count)))

/-! ### Landings (R291, R297, R302) -/

/-- The value of 0x6B and 0x6C (R311). -/
def landVal (rid slot recv issuer : Nat) : W64 :=
  w64 (rid % 256 + 2 ^ 8 * (slot % 256) + 2 ^ 16 * (recv % 16) + 2 ^ 20 * (issuer % 1024))

/-- Why a landing is refused when it begins: 0x6C or 0x6B; none where it begins. The receiver's ring is looked at only where the landing
has a slot (R297, R302; log entry 119). -/
def State.landRefusal (s : State) (q : CopyCmd) (l : Landing) : Option Nat :=
  let r := s.ring (.local l.core (tRid q.tmpl))
  if q.kind = 1 && !s.holdsNode l.core q.node then some 0x6C
  else
    match l.slot with
    | none => none
    | some k =>
      if !r.valid || (q.kind = 1 && !boxFits q.tmpl r) then some 0x6C
      else
        match r.slot k with
        | 1 => if k < r.count then none else some 0x6C
        | 4 => if q.kind = 1 then some 0x6B else some 0x6C
        | _ => some 0x6C

/-- A 0x6B is raised to the strand that holds the slot in use; its node ends when it has exited (R311). -/
def State.refuseInUse (s : State) (q : CopyCmd) (issuer : Nat) (l : Landing) (k : Nat) : State :=
  let r := s.ring (.local l.core (tRid q.tmpl))
  let h := Map.get 0 r.holders k
  let st := s.strand l.core h
  s.reportTo l.core h q.node 0x6B st.nextAddr (landVal (tRid q.tmpl) k l.core issuer) st.seq

/-- Drop a landing from a command, with the refusal it met: of several, that of the lowest position is reported. -/
def CopyCmd.dropLanding (q : CopyCmd) (l : Landing) (refusal : Option (Nat × W64)) : CopyCmd :=
  let q1 := { q with lands := q.lands.filter fun x => x != l }
  match refusal with
  | none => q1
  | some (k, v) =>
    { q1 with
      flags := q1.flags ||| 16
      refused := match q1.refused with
        | none => some (l.core, k, v)
        | some r => if l.core < r.1 then some (l.core, k, v) else some r }

/-- LANDING_BEGIN: a landing of a begun command begins at its receiver, once not-before is reached, the blocks of a gather in order:
its slot goes from claimed to filling, or the landing is refused; the command goes on, and posts its signals and its arrival all the
same (R215, R297, R302, R303, R311; log entry 119). -/
def execLandingBegin (s : State) : Res :=
  let c := s.arg.core
  let ch := s.arg.ch
  match s.cmd? c ch s.arg.n with
  | none => .next s
  | some q =>
    match q.lands.find? fun l => l.core == s.arg.m && l.block == s.arg.k with
    | none => .next s
    | some l =>
      if (q.kind = 1 && s.cyc < q.nb.toNat) || l.begun || q.detached ||
          (q.kind = 2 && q.lands.any fun x => !x.begun && decide (x.block < l.block)) then .next s
      else
        let slot := l.slot.getD 0
        let v := landVal (tRid q.tmpl) slot l.core c
        match s.landRefusal q l with
        | some 0x6B =>
          .next ((s.modCmd c ch q.id fun q => { q.dropLanding l none with flags := q.flags ||| 16 }).refuseInUse q c l slot)
        | some k => .next (s.modCmd c ch q.id fun q => q.dropLanding l (some (k, v)))
        | none =>
          let s1 := match l.slot with
            | none => s
            | some k => s.setRing (.local l.core (tRid q.tmpl)) ((s.ring (.local l.core (tRid q.tmpl))).setSlot k 2)
          let base := landBase q.tmpl (s1.ring (.local l.core (tRid q.tmpl))) l.slot
          let now := { l with begun := true, base := if q.kind = 1 then base else l.base }
          .next (s1.modCmd c ch q.id fun q =>
            { q with lands := (q.lands.filter fun x => x.begun) ++ now :: q.lands.filter fun x => !x.begun && x != l })

/-- The fetched bytes of a landing, by scratchpad offset: the whole box, or those of its block of a gather. -/
def CopyCmd.bytesOf (q : CopyCmd) (l : Landing) : List (Nat × List Byte) :=
  (if q.kind = 2 then q.box.filter fun b => b.1 / 2 ^ 53 = l.block else q.box).map fun b => (b.1 % 2 ^ 21, b.2)

/-- The landing's slot after it has completed or has been cancelled. -/
def State.landSlot (s : State) (q : CopyCmd) (l : Landing) (v : Nat) : State :=
  match l.slot with
  | none => s
  | some k =>
    let n : RingName := .local l.core (tRid q.tmpl)
    s.setRing n ((s.ring n).setSlot k v)

/-- LANDING_COMPLETE: the first landing of a command that has begun at its receiver writes its bytes, all that are left or a part
of them, and fills its slot once all are written (R110, R215, R291). Elements that are still to be read are read first. A detached
command's landing leaves each element old or new, and its slot returns to claimed. -/
def execLandingComplete (s : State) : Res :=
  let c := s.arg.core
  let ch := s.arg.ch
  match s.cmd? c ch s.arg.n with
  | none => .next s
  | some q =>
    match q.lands.find? fun l => l.begun with
    | none => .next s
    | some l =>
      if !q.todo.isEmpty then
        let t := s.fetching c q (turnPart s.free [])
        .next (t.modCmd c ch q.id fun q => t.fetched q (turnPart s.free []))
      else if !wholeTurn s.free then
        let s1 := s.boxLand l.core l.base (q.bytesOf l) (turnPart s.free l.half)
        .next (s1.modCmd c ch q.id fun q =>
          { q with lands := q.lands.map fun x => if x = l then { l with half := s.free :: l.half } else x })
      else
        let s1 := s.boxLand l.core l.base (q.bytesOf l) (if q.detached then cutPart s.free l.half else stillTo l.half)
        let s2 := s1.landSlot q l (if q.detached then 1 else 3)
        .next (s2.modCmd c ch q.id fun q => q.dropLanding l none)

/-! ### Completion (R291, R298, R299, R311) -/

/-- Whether a command of a channel has no landing or block still to come. -/
def CopyCmd.landedAll (q : CopyCmd) : Bool :=
  q.begun && !q.waited && q.lands.isEmpty && (q.kind ≠ 2 || decide (q.count ≤ q.gnext) || q.detached)

/-- Post the signal mask to the issuing strand (R298). -/
def State.postSignals (s : State) (c h mask : Nat) : State :=
  s.modStrand c h fun st =>
    ((List.range 16).filter fun n => mask.testBit n).foldl (fun st n => (st.bump n 1).wake s.cyc n) st

/-- Deliver the barrier arrival; a refused one leaves a record with 0x6D (R259, R299). -/
def State.postArrival (s : State) (c ch : Nat) (q : CopyCmd) : State :=
  if tf q.tmpl 616 1 = 1 then
    match s.remoteArrival (tf q.tmpl 608 8) q.node with
    | (true, t) => t
    | (false, t) => t.placeRec (srcChan c ch) (recData 6 0x6D q.node c (s.placement c).late 0 0 0)
  else s

/-- The moves of a store or of a copy between tensors, made when the command completes; `last` says that none are left (R295, R296). -/
def State.lastMoves (s : State) (c : Nat) (q : CopyCmd) (keep : Loc → Bool) (last : Bool) : Moved × State :=
  let m : Moved := { flags := q.flags, fault := q.fault }
  match tDir q.tmpl with
  | 1 => s.boxStore c q (landBase q.tmpl (s.ring (.local c (tRid q.tmpl))) q.slot) keep last m
  | 2 => s.boxMove c q keep last m
  | _ => (m, s)

/-- A store's slot is released as rrel does after its reads (R297). -/
def State.storeRelease (s : State) (c : Nat) (q : CopyCmd) : State :=
  if tRmode q.tmpl = 2 then
    match q.slot with
    | none => s
    | some k =>
      let n : RingName := .local c (tRid q.tmpl)
      match (s.ring n).release k with
      | some r => s.setRing n r
      | none => s
  else s

/-- Remove a command from its channel, with its scoreboard entry. -/
def State.removeCmd (s : State) (c ch : Nat) (q : CopyCmd) : State :=
  (s.modChan c ch fun k => { k with queue := k.queue.filter fun x => x.id ≠ q.id }).sbDrop c q.sb

/-- The drain of a channel that waits at the head of a strand's EA, with the commands that it covers (R304). -/
def Strand.draining (st : Strand) (ch : Nat) : Option (List Nat) :=
  match st.ea with
  | e :: _ => if fld e.word.toNat 0 6 = 0x07 && fld e.word.toNat 12 2 = ch && e.marker.isNone then e.cover else none
  | [] => none

/-- The flags of a command that has completed go to its strand: to the drain that waits for it, or to a later one (R304). -/
def Strand.addFlags (st : Strand) (ch id : Nat) (f : W64) : Strand :=
  match st.draining ch with
  | some l =>
    if l.contains id then { st with drains := Map.put st.drains ch (Map.get 0 st.drains ch ||| f) }
    else { st with drainsNext := Map.put st.drainsNext ch (Map.get 0 st.drainsNext ch ||| f) }
  | none => { st with drains := Map.put st.drains ch (Map.get 0 st.drains ch ||| f) }

/-- COPY_COMPLETE: the first command of a channel makes its stores to memory, all that are left or a part of them, and completes
once its writes are made. It posts its signals and its arrival, or reports its fault; its flags go to its strand. A detached one
leaves with its record (R29, R110, R291, R296, R298, R299, R304, R311). -/
def execCopyComplete (s : State) : Res :=
  let c := s.arg.core
  let ch := s.arg.ch
  match (s.chan c ch).queue.head? with
  | none => .next s
  | some q =>
    if !q.landedAll || (tRmode q.tmpl = 2 && q.slot.isNone && !q.detached) || (tf q.tmpl 616 1 = 1 && s.remoteHeld) then .next s
    else if q.detached && tRmode q.tmpl = 2 && q.slot.isNone then
      .next ((s.removeCmd c ch q).detachedRec (srcChan c ch) q.node c q.late)
    else
      let whole := tDir q.tmpl = 0 || wholeTurn s.free
      let (m, t) := s.lastMoves c q (if whole && q.detached then cutPart s.free q.half else turnPart s.free q.half) (whole && !q.detached)
      if m.held then .next s
      else if !whole then
        .next (t.modCmd c ch q.id fun q => { q with half := s.free :: q.half, flags := m.flags, fault := m.fault })
      else if q.detached then .next ((t.removeCmd c ch q).detachedRec (srcChan c ch) q.node c q.late)
      else
      let t1 := (t.storeRelease c q).removeCmd c ch q
      let t2 := t1.modStrand c q.strand fun st => st.addFlags ch q.id m.flags
      match m.fault, q.refused with
      | some (k, v), _ => .next (t2.reportTo c q.strand q.node k q.bundle v q.seq)
      | none, some (_, k, v) => .next (t2.reportTo c q.strand q.node k q.bundle v q.seq)
      | none, none => .next ((t2.postSignals c q.strand (tSmask q.tmpl)).postArrival c ch q)

/-! ### Chains (R309, R310) -/

/-- chlink's operands, checked at issue (R309, R314). -/
def chlinkOk (a b : W64) : Bool := decide (a.toNat % 128 = 0) && decide (b.toNat < 16) && decide (a.toNat + 128 * (b.toNat + 1) ≤ spSize)

/-- chkick's operand, checked at issue (R309, R314). -/
def chkickOk (b : W64) : Bool := decide (b.toNat < 2 ^ 32)

/-- Whether a channel holds an entry of a chain. -/
def Channel.chained (k : Channel) : Bool := k.queue.any fun q => q.chain.isSome

/-- chlink (R309). -/
def execChlink (ch : BitVec 2) (_a : XReg) (b : SrcB) (s : State) : Res :=
  let c := s.cur.core
  let e := s.cur.entry
  let A := s.cap 0
  let B := s.qb 1 b
  if !chlinkOk A B then .next (s.raiseHead 0x64 0)
  else if (s.chan c ch.toNat).chained || !s.performed c s.cur.strand (fun x => x.before e) then .next s
  else
    .next ((s.modChan c ch.toNat fun k =>
      { k with linked := true, next := 0, credit := 0, k := [], strand := s.cur.strand
               base := A.toNat, n := B.toNat, bundle := e.bundle, seq := e.seq }).finish)

/-- chkick (R309). -/
def execChkick (ch : BitVec 2) (b : SrcB) (s : State) : Res :=
  let B := s.qb 0 b
  if !chkickOk B then .next (s.raiseHead 0x64 0)
  else
    .next ((s.modChan s.cur.core ch.toNat fun k => { k with credit := min (k.credit + B.toNat) (2 ^ 32 - 1) }).finish)

/-- CHAIN_ENTRY_FETCH: a linked channel with credit takes its next entry, or unlinks and reports 0x69, which sets no flag of drain. An
entry whose ring is not valid, or whose box does not fit, fails too; stn and dtn are those of the strand that linked, as they stand at
the fetch (R304, R310; log entry 119). -/
def execChainEntryFetch (s : State) : Res :=
  let c := s.arg.core
  let ch := s.arg.ch
  let k := s.chan c ch
  if !k.linked || k.credit = 0 || k.queue.any (fun q => q.chain.isSome && !q.begun) || 16 ≤ k.queue.length then .next s
  else
    let t := BitVec.ofNat 1024 (leNat (s.spRead c (k.base + 128 * k.next) 128))
    let node := (s.placement c).node
    let adim := tf t 768 3
    let lo := 128 + 32 * adim
    let t1 := setTf t lo 32 (tf t lo 32 + Map.get 0 k.k k.next * tf t 772 32)
    let ok := templateOk t && (tRmode t = 1 || tRmode t = 2) && decide (adim ≤ 4) && (s.boxCheck c t 1 0).isNone
    if !ok then
      .next ((s.modChan c ch fun k => { k with linked := false, credit := 0 }).reportTo c k.strand node 0x69 k.bundle (w64 k.next) k.seq)
    else
      let st := s.strand c k.strand
      let q : CopyCmd := { strand := k.strand, bundle := k.bundle, seq := k.seq, chain := some k.next, tmpl := t1
                           src := st.rt (tStn t), dst := st.rt (tf t 8 4), tenant := (s.placement c).tenant, node := node }
      .next (s.modChan c ch fun k =>
        { k.enter q with credit := k.credit - 1, k := Map.put k.k k.next (Map.get 0 k.k k.next + 1), next := (k.next + 1) % (k.n + 1) })

/-! ### drain, ccan and sbq (R304 to R306) -/

/-- The flags of commands that completed while an earlier drain, since stopped, did not cover them count with the others. -/
def Strand.joinFlags (st : Strand) (ch : Nat) : Strand :=
  { st with
    drains := Map.put st.drains ch (Map.get 0 st.drains ch ||| Map.get 0 st.drainsNext ch)
    drainsNext := Map.erase st.drainsNext ch }

/-- A drain takes the flags of the commands that it covers; those of others stay for a later one (R304). -/
def Strand.takeFlags (st : Strand) (ch : Nat) : Strand :=
  { st with
    drains := if Map.has st.drainsNext ch then Map.put st.drains ch (Map.get 0 st.drainsNext ch) else Map.erase st.drains ch
    drainsNext := Map.erase st.drainsNext ch }

/-- drain: it waits until every command that had entered the channel when it reached the head has completed (R304). -/
def execDrain (d : XReg) (ch : BitVec 2) (s0 : State) : Res :=
  let s := if s0.cur.entry.cover.isNone && Map.has s0.me.drainsNext ch.toNat then s0.modMe fun st => st.joinFlags ch.toNat else s0
  let c := s.cur.core
  let k := s.chan c ch.toNat
  let cover := s.cur.entry.cover.getD ((k.queue.filter fun q => q.chain.isNone || q.begun).map fun q => q.id)
  if k.queue.any fun q => cover.contains q.id then .next (s.modHead fun e => { e with cover := some cover })
  else
    let v := Map.get 0 s.me.drains ch.toNat
    let t := s.modMe fun st => st.takeFlags ch.toNat
    .next ((t.wx d v).finish)

/-- Cancel a command that has begun: each element old or new, its filling slots claimed again; its flags go to its strand (R115, R304,
R305). -/
def State.cancelCmd (s0 : State) (c ch : Nat) (q0 : CopyCmd) : State :=
  let s := s0.fetching c q0 fun _ => true
  let q := s.fetched q0 fun _ => true
  let s1 := q.lands.foldl (fun t l =>
    if l.begun then (t.boxLand l.core l.base (q.bytesOf l) (cutPart s.free l.half)).landSlot q l 1 else t) s
  let s2 := if q.waited then s1.withdraw c (4 + ch) else s1
  let (m, s3) := if q.begun && tDir q.tmpl ≠ 0 && !q.waited then s2.lastMoves c q (cutPart s.free q.half) false else ({ flags := q.flags }, s2)
  (s3.removeCmd c ch q).modStrand c q.strand fun st => st.addFlags ch q.id m.flags

/-- ccan (R305). -/
def State.ccan (s : State) (ch : Nat) : Res :=
  let c := s.cur.core
  let h := s.cur.strand
  let mine := (s.chan c ch).queue.filter fun q => q.strand == h && !q.detached
  let t := mine.foldl (fun s q => s.cancelCmd c ch q) s
  let t1 := t.modChan c ch fun k => if k.linked && k.strand = h then { k with linked := false, credit := 0 } else k
  let t2 := if mine.isEmpty then t1
    else t1.modMe fun st => { st with drains := Map.put st.drains ch (Map.get 0 st.drains ch ||| 4) }
  .next t2.finish

/-- ccan #0 (R305). -/
def execCcan0 (s : State) : Res := s.ccan 0
/-- ccan #1 (R305). -/
def execCcan1 (s : State) : Res := s.ccan 1
/-- ccan #2 (R305). -/
def execCcan2 (s : State) : Res := s.ccan 2
/-- ccan #3 (R305). -/
def execCcan3 (s : State) : Res := s.ccan 3

/-- sbq (R306). -/
def execSbq (d : XReg) (b : SrcB) (s : State) : Res :=
  let a := bitsAt (s.qb 0 b).toNat 0 20
  let sb := s.myCore.sb
  let used := ((List.range 8).map fun i => if Map.has sb i then 2 ^ i else 0).sum
  let hit := sb.any fun p => decide (p.2.lo ≤ a) && decide (a ≤ p.2.hi)
  .next ((s.wx d (w64 (used + 256 * natOf hit))).finish)

end Sys2Proof.Machine
end

