-- ==== Sys2Proof/Machine/Tasks.lean ====
section
/-!
DEFINITION. Tasks: records, frames, spawn, join, yield and exit; the start and retirement of placements
(R118 to R127, R140 to R147, R155 to R158, R241).
-/

namespace Sys2Proof.Machine

/-! ### Strand frames (R241) -/

/-- `n` little-endian numbers of `w` bytes, one after another. -/
def packBytes (w n : Nat) (f : Nat → Nat) : List Byte := (List.range n).flatMap fun i => leBytes w (f i)

/-- The registers of a frame before its event counters. -/
def Strand.frameRegs (st : Strand) : List Byte :=
  packBytes 256 32 (fun i => (st.rv i).toNat) ++ packBytes 8 64 (fun i => (st.rx i).toNat) ++
    packBytes 8 8 (fun i => (st.rm i).toNat) ++ packBytes 8 16 (fun i => (st.rt i).toNat) ++
    packBytes 8 4 fun i => (st.rl i).toNat

/-- The event counters of a frame. -/
def Strand.frameEvents (st : Strand) : List Byte := packBytes 2 16 fun i => (st.re i).toNat

/-- A frame from its resume address on; the rest is written 0. -/
def Strand.frameTail (st : Strand) (resume : W64) : List Byte :=
  leBytes 8 resume.toNat ++ leBytes 8 st.tokcnt.toNat ++ leBytes 8 st.join ++ List.replicate 232 0

/-- A whole frame. -/
def Strand.frame (st : Strand) (resume : W64) : List Byte := st.frameRegs ++ st.frameEvents ++ st.frameTail resume

/-- The registers and token counters that a frame holds; `f` reads a number at an offset. -/
def Strand.loadFrame (st : Strand) (f : Nat → Nat → Nat) : Strand :=
  let tok := f 0x2308 8
  { st with
    v := (List.range 32).map fun i => (i, BitVec.ofNat 2048 (f (256 * i) 256))
    x := (List.range 63).map fun i => (i + 1, w64 (f (0x2008 + 8 * i) 8))
    m := (List.range 7).map fun i => (i + 1, w64 (f (0x2208 + 8 * i) 8))
    t := (List.range 16).map fun i => (i, w64 (f (0x2240 + 8 * i) 8))
    l := (List.range 4).map fun i => (i, w64 (f (0x22C0 + 8 * i) 8))
    lc := bitsAt tok 0 4, cl := bitsAt tok 4 4, cs := bitsAt tok 8 4, sc := bitsAt tok 12 4 }

/-- The event counters that a frame holds. -/
def Strand.loadEvents (st : Strand) (f : Nat → Nat → Nat) : Strand :=
  { st with e := (List.range 16).map fun i => (i, BitVec.ofNat 16 (f (0x22E0 + 2 * i) 2)) }

/-- Frame slot `f` of a hardware strand (R140). -/
def Placement.frameAt (p : Placement) (h f : Nat) : Nat := p.taskbase + 2048 + 9216 * (h * p.depth + f)

/-! ### Task records (R140, R141) -/

/-- A field of a record. -/
def recEntry (r : Nat) : Nat := bitsAt r 0 21
/-- Linear index of the spawning placement. -/
def recPlace (r : Nat) : Nat := bitsAt r 32 32
/-- Core position of the spawning strand. -/
def recPpos (r : Nat) : Nat := bitsAt r 64 4
/-- Hardware strand of the spawning strand. -/
def recPstrand (r : Nat) : Nat := bitsAt r 68 2
/-- Frame depth of the spawning strand. -/
def recPdepth (r : Nat) : Nat := bitsAt r 70 3
/-- Signal word of a record. -/
def recSignal (r : Nat) : W32 := w32 (bitsAt r 96 32)
/-- Argument `i`, 1 to 6. -/
def recArg (r i : Nat) : W64 := w64 (bitsAt r (64 + 64 * i) 64)

/-- The records of a core's task queue, oldest first: those of its 32 slots up to the first with entry 0, which no
record has. -/
def State.taskRecs (s : State) (c : Nat) : List Nat :=
  ((List.range 32).map fun i => (s.core c).spNat ((s.placement c).taskbase + 64 * i) 64).takeWhile fun r => recEntry r ≠ 0

/-- Replace the records of a core's task queue, and the marks of their spawners. -/
def State.setTaskRecs (s : State) (c : Nat) (l : List Nat) (marks : List Nat) : State :=
  let t := s.spWrite c (s.placement c).taskbase (packBytes 64 32 fun i => l.getD i 0)
  t.modCore c fun k => { k with taskMarks := marks }

/-- What holds the first bundle of the task of a record of a core: the position and the strand of its spawner, and the spawner's
mark of program order (R145, R482). -/
def State.recGate (s : State) (c i r : Nat) : Option (Nat × Nat × Nat) := some (c % 16, recPstrand r, (s.core c).taskMarks.getD i 0)

/-- spawn: the target is bits [20:0] of x[a], and the bits above it are reserved (R155, R171, R482). -/
def execSpawn (d a : XReg) (b : SrcB) (s : State) : Res :=
  let T := s.x a
  let sig := (s.b b).toNat
  if s.me.handler || 57 < a.toNat then .next (s.raiseAtIssue 0x01 0)
  else
    match s.target s.cur.core s.cur.strand true (T &&& 0x1FFFFF) with
    | (some (k, v), t) => .next (t.raiseAtIssue k v)
    | (none, t) =>
      if bitsAt sig 13 51 ≠ 0 || bitsAt sig 10 2 = 3 || bitsAt T.toNat 21 43 ≠ 0 then .next (t.raiseAtIssue 0x43 0)
      else
        let c := s.cur.core
        let q := t.taskRecs c
        if 32 ≤ q.length then .next (t.issued.wx d 0)
        else
          let r := T.toNat % 2 ^ 21 + 2 ^ 32 * (s.linIndex % 2 ^ 32) + 2 ^ 64 * (c % 16) + 2 ^ 68 * (s.cur.strand % 4) +
            2 ^ 70 * (s.me.depth % 8) + 2 ^ 96 * (sig % 2 ^ 32) +
            ((List.range 6).map fun i => 2 ^ (128 + 64 * i) * (s.me.rx (a.toNat + 1 + i)).toNat).sum
          let mark := s.me.seq + 1
          let me := s.self c s.cur.strand
          let u := (t.issued.release c s.cur.strand (.task me.1 me.2.1 me.2.2 mark)).setTaskRecs c (q ++ [r])
            ((t.core c).taskMarks.take q.length ++ [mark])
          .next ((u.modMe fun st => { st with joins := Map.put st.joins st.depth (st.join + 1) }).wx d 1)

/-! ### Taking a record (R142, R143) -/

/-- The launch references of the placement that a record names: that of its linear index in the group of a core (R143). -/
def State.spawnRefs (s : State) (c r : Nat) : List W64 :=
  let p := s.placement c
  let l := (List.range 16).map fun i => 16 * groupOf c + i
  match l.find? fun d => s.holdsNode d p.node && decide ((s.placement d).lin % 2 ^ 32 = recPlace r) with
  | some d => (s.placement d).trefs
  | none => p.trefs

/-- A strand enters a task: the registers it starts with, and the task that it runs. -/
def Strand.enterTask (st : Strand) (trefs : List W64) (time : W64) (r depth : Nat) (outer : Wait) (gate : Option (Nat × Nat × Nat)) : Strand :=
  let task : Task := { depth := depth, place := recPlace r, ppos := recPpos r, pstrand := recPstrand r
                       pdepth := recPdepth r, signal := recSignal r, start := time, outer := outer, seq0 := st.seq
                       kept := st.rec_.keep ≠ 0 && !st.handler }
  { st with
    x := (List.range 6).map fun i => (i + 1, recArg r (i + 1))
    v := [], m := [], l := []
    t := (List.range 16).map fun i => (i, trefs.getD i 0)
    lc := 0, cl := 0, cs := 0, sc := 0
    joins := Map.put st.joins depth 0
    tasks := task :: st.tasks
    gate := gate
    pc := w64 (recEntry r), run := .running, wait := .none }

/-- The join counter of a strand at a depth as one that stores can be known to (R145). -/
def State.joinMark (s : State) (c h depth : Nat) : Knower := .joined (s.placement c).node (s.placement c).lin h depth

/-- What a spawner made known before the spawn is known to the task from its first instruction on (R145). -/
def State.openGate (s : State) (c h : Nat) : State :=
  match (s.strand c h).gate with
  | some (pos, g, mark) =>
    if (s.strand c h).handler then s
    else
      let who := s.self (16 * groupOf c + pos) g
      (s.pass (.task who.1 who.2.1 g mark) (s.knower c h)).modStrand c h fun st => { st with gate := none }
  | none => s

/-- Whether nothing of a strand is under way: its queues are empty, and no request and no late form of it is out. -/
def State.quiet (s : State) (c h : Nat) : Bool := (s.strand c h).drained && (s.strand c h).late.isEmpty && !s.outstanding c h

/-- Whether a strand in join, yield or exit may take a record of its own core (R142, R156). -/
def State.nestEligible (s : State) (c h : Nat) : Bool :=
  let st := s.strand c h
  decide (st.depth < (s.placement c).depth) && (s.core c).haspHolder ≠ some h && !(s.taskRecs c).isEmpty

/-- A strand in join, yield or exit takes the newest record of its own core, once its queues are empty: it saves its
frame and runs the task one level deeper (R142, R143, R156). `outer`: the wait to go on with afterwards. -/
def State.nest (s : State) (c h : Nat) (outer : Wait) : State :=
  let st := s.strand c h
  let p := s.placement c
  let q := s.taskRecs c
  let i := q.length - 1
  let r := q.getLastD 0
  if !s.nestEligible c h || !s.quiet c h then s
  else
    let a := p.frameAt h st.depth
    let t := (s.spWrite c a st.frameRegs).spWrite c (a + 0x2300) (st.frameTail st.pc)
    ((t.forget (s.joinMark c h (st.depth + 1))).setTaskRecs c q.dropLast ((s.core c).taskMarks.take i)).modStrand c h fun st =>
      st.enterTask (s.spawnRefs c r) s.time r (st.depth + 1) outer (s.recGate c i r)

/-- Whether a strand is idle: not running placement code or a task (R125, R158). -/
def Strand.idle (st : Strand) : Bool := st.run != .running

/-- The core whose queue an idle strand takes from: its own, else the first at pos+1, pos+2, … that holds a placement
of the same node and has a record (R142). -/
def State.takeFrom (s : State) (c : Nat) : Option Nat :=
  let node := (s.placement c).node
  ((List.range 16).map fun k => 16 * groupOf c + (c + k) % 16).find? fun d =>
    s.holdsNode d node && !(s.taskRecs d).isEmpty

/-- TASK_TAKE: an idle strand of a core that holds a placement takes a record and runs it at depth 1 (R142, R143). -/
def execTaskTake (s : State) : Res :=
  let c := s.arg.core
  let h := s.arg.strand
  let st := s.strand c h
  if 4 ≤ h || !st.idle || st.trapped || s.preempting c || !s.holdsNode c (s.placement c).node then .next s
  else
    match s.takeFrom c with
    | none => .next s
    | some d =>
      let q := s.taskRecs d
      let i := if d = c then q.length - 1 else 0
      let r := q.getD i 0
      let t := (s.forgetStrand c h).setTaskRecs d (q.eraseIdx i) ((s.core d).taskMarks.eraseIdx i)
      .next (t.modStrand c h fun st =>
        { st.enterTask (s.spawnRefs c r) s.time r 1 .none (s.recGate d i r) with e := [], e0 := [], holdUntil := s.cyc + 1 })

/-! ### join and yield -/

/-- tkeep is cleared with the wait that it records; in handler mode, and in a task taken under that wait, it stays (R229). -/
def Strand.unkeep (st : Strand) : Strand :=
  if st.handler || st.tasks.any (fun t => t.kept) then st else { st with rec_ := { st.rec_ with keep := 0 } }

/-- A join of a strand at zero observes the decrements of its counter (R145). -/
def State.joined (s : State) (c h : Nat) : State := s.acquire (s.joinMark c h (s.strand c h).depth) c h

/-- A strand in join: it completes at zero, else takes a record (R156). -/
def State.joinTry (s : State) (c h : Nat) : State :=
  if (s.strand c h).join = 0 then (s.joined c h).modStrand c h fun st => { st with wait := .none }
  else s.nest c h .join

/-- join (R156). -/
def execJoin (s : State) : Res :=
  if s.me.join = 0 then .next (s.issued.joined s.cur.core s.cur.strand) else .next (s.issued.modMe fun st => { st with wait := .join })

/-- A strand in yield: it takes a record, and with none eligible it goes on (R157). -/
def State.yieldTry (s : State) (c h : Nat) : State :=
  if s.nestEligible c h then s.nest c h .yield else s.modStrand c h fun st => { st with wait := .none }

/-- yield (R157). -/
def execYield (s : State) : Res :=
  if s.nestEligible s.cur.core s.cur.strand then .next (s.issued.modMe fun st => { st with wait := .yield })
  else .next s.issued

/-! ### exit -/

/-- Whether an engine command of a strand, issued in bundle order from `seq0` on, is neither complete nor detached
(R29, R144, R147). -/
def State.openCommands (s : State) (c h seq0 : Nat) : Bool :=
  ((s.core c).chans.any fun p =>
      (p.2.linked && p.2.strand == h && decide (0 < p.2.credit) && decide (seq0 ≤ p.2.seq)) ||
        p.2.queue.any fun q => q.strand == h && !q.detached && decide (seq0 ≤ q.seq)) ||
    (let g := s.group (groupOf c)
     let mine : EngCmd → Bool := fun q => q.core == c && q.strand == h && !q.detached && decide (seq0 ≤ q.seq)
     g.attnIn.any mine || g.mboxIn.any mine || (match g.attnRun with
       | some r => mine r.cmd
       | none => false)) ||
    (s.tmbs.any fun t => t.core == c && t.strand == h && !t.dead && decide (seq0 ≤ t.seq)) ||
    s.fab.reqs.any fun r => r.core == c && r.strand == h && !r.dead && decide (seq0 ≤ r.seq)

/-- The completion post of a task's signal word, of the task that strand `h0` of core `c` runs: an increment of 1, discarded where the
named strand is not one of a placement of the node (R137, R138, R144, R145). -/
def State.taskPost (s : State) (c h0 : Nat) (w : Nat) : State :=
  let p := s.placement c
  let d := 16 * groupOf c + bitsAt w 6 4
  let h := bitsAt w 4 2
  if bitsAt w 12 1 = 0 || (s.placement d).nstrands ≤ h then s
  else (s.tell (s.knower c h0) (s.counter d h (bitsAt w 0 4))).applyIncr
    { core := d, strand := h, ctr := bitsAt w 0 4, amt := 1, node := p.node, srcCore := c, srcStrand := 4, tag := s.free }

/-- Decrement a join counter: that of a strand's current depth, or one in a frame, of a placement of the node (R140, R144). -/
def State.decJoin (s : State) (c h depth node : Nat) : State :=
  let st := s.strand c h
  if !s.holdsNode c node || (s.placement c).depth ≤ depth && st.depth ≠ depth then s
  else if st.depth = depth then s.modStrand c h fun st => { st with joins := Map.put st.joins depth (st.join - 1) }
  else
    let a := (s.placement c).frameAt h depth + 0x2310
    s.spWrite c a (leBytes 8 ((s.core c).spNat a 8 - 1))

/-- Leave a task: a strand that took it while idle becomes idle again and clears its event counters; another restores
its frame and goes on with the wait that it left (R134, R143). -/
def State.leaveTask (s : State) (c h : Nat) : State :=
  let st := s.strand c h
  let p := s.placement c
  match st.tasks with
  | [] => s
  | t :: outer =>
    if t.outer = .none then
      (s.forgetStrand c h).modStrand c h fun st =>
        { st with tasks := outer, run := if h < p.nstrands then .exited else .idle, wait := .none, e := [], e0 := []
                  lc := 0, cl := 0, cs := 0, sc := 0 }
    else
      let a := p.frameAt h (t.depth - 1)
      let f := fun off n => (s.core c).spNat (a + off) n
      s.modStrand c h fun st =>
        { st.loadFrame f with
          tasks := outer, pc := w64 (f 0x2300 8), joins := Map.put st.joins (t.depth - 1) (f 0x2310 8)
          wait := if t.outer = .yield then .none else t.outer }

/-- A strand in exit: the implicit join, the drain of its queues, the hasp, and then, in a task, the post and the
decrement of R144; in placement code the strand becomes idle (R144, R158, R251, R327). -/
def State.exitTry (s0 : State) (c h : Nat) : State :=
  let st := s0.strand c h
  if st.join ≠ 0 then s0.nest c h .exit
  else if !s0.quiet c h then s0
  else
    let s := s0.joined c h
    match st.tasks with
    | [] =>
      (s.haspExit c h).modStrand c h fun st =>
        { st.unkeep with run := .exited, wait := .none, e := [], e0 := [], lc := 0, cl := 0, cs := 0, sc := 0, bars := [] }
    | t :: _ =>
      if s.openCommands c h t.seq0 || s.increments.any (fun i => i.srcCore == c && i.srcStrand == h) then s0
      else
        let g := 16 * groupOf c
        let s1 := (s.haspExit c h).modStrand c h Strand.unkeep
        let s2 := (s1.taskPost c h t.signal.toNat).tell (s1.knower c h) (s1.joinMark (g + t.ppos) t.pstrand t.pdepth)
        (s2.decJoin (g + t.ppos) t.pstrand t.pdepth (s.placement c).node).leaveTask c h

/-- exit: nothing after it issues (R158). -/
def execExit (s : State) : Res := .next (s.issued.modMe fun st => { st with wait := .exit })

/-! ### The start of a placement -/

/-- A read of `n` bytes at an offset of the code tensor at launch, through the core's group cache (R121). -/
def State.launchRead (s : State) (c : Nat) (off n : Nat) : Except Nat (List Byte) × State :=
  let p := s.placement c
  match s.desc p.tenant p.codeten with
  | .error k => (.error k, s)
  | .ok d =>
    if !d.flat then (.error 0x26, s)
    else
      match s.flatBytes (tcOf c) p.tenant p.codeten (off : Int) n false with
      | (.error k, t) => (.error k, t)
      | (.ok ls, t) => (.ok (ls.map t.locGet), t.touch ls)

/-- Reads at launch, one after another; the first cause ends them. -/
def State.launchReads (s : State) (c : Nat) : List (Nat × Nat) → Except (Nat × Nat) (List (List Byte)) × State
  | [] => (.ok [], s)
  | (off, n) :: rest =>
    match s.launchRead c off n with
    | (.error k, t) => (.error (off, k), t)
    | (.ok bs, t) =>
      match State.launchReads t c rest with
      | (.error k, u) => (.error k, u)
      | (.ok l, u) => (.ok (bs :: l), u)

/-- A tensor reference register at launch: an argument or the table's reference (R119). -/
def tensorAt (p : Placement) (table i : Nat) : W64 :=
  let e := bitsAt table (128 * i) 128
  if bitsAt e 67 1 = 1 then p.args.getD (bitsAt e 64 3) 0 else w64 (bitsAt e 0 64)

/-- A local ring at launch (R211). -/
def ringAt (table i : Nat) : Ring :=
  let e := bitsAt table (128 * i) 128
  if bitsAt e 96 1 = 1 then { valid := true, base := bitsAt e 0 20, cnt := bitsAt e 64 6, stride := bitsAt e 72 24 } else {}

/-- The loop registers at launch: the temporal levels in order, each with its extent (R124). -/
def Placement.loopRegs (p : Placement) : Map W64 :=
  let ext := ((List.range 6).filter fun k => p.kind k == some 0).map fun k => p.extent k
  (List.range 4).map fun i => (i, w64 (2 ^ 32 * ext.getD i 0))

/-- A strand as its placement starts it (R126, R127). -/
def startStrand (p : Placement) (trefs : List W64) (cyc h : Nat) : Strand :=
  { x := (List.range 8).map fun i => (i + 1, p.args.getD i 0)
    t := (List.range 16).map fun i => (i, trefs.getD i 0)
    l := p.loopRegs
    pc := w64 (p.entry h), run := .running, checkPc := true, holdUntil := cyc + 1, lastIssue := cyc, lastDisp := cyc }

/-- PLACEMENT_START: the core zeroes its stores, makes the reads of the launch, and enters the strands; a read that
meets a cause terminates the node with 0x2C and value 0 (log entry 100) (R22, R116, R119, R121, R124 to R127, R211, R251, R292, R318, R366). -/
def execPlacementStart (s : State) : Res :=
  let c := s.arg.core
  match (s.core c).place with
  | none => .next s
  | some p =>
    if p.started || s.coreBusy c then .next s
    else
      let pre := p.kf 480 16
      let reads := [(p.kf 128 32, 1024), (p.kf 160 32, 256), (p.kf 192 32, 256), (p.kf 224 32, 8192)] ++
        (if pre = 0 then [] else [(p.kf 448 32, 64 * pre)])
      match s.launchReads c reads with
      | (.error _, t) => .next (t.terminate p.node 0x2C 0 none)
      | (.ok bs, t) =>
        let part := fun i => leNat (bs.getD i [])
        let trefs := (List.range 16).map fun i => tensorAt p (part 1) i
        let k := t.core c
        let back := if k.kvTenant = p.tenant then 0 else k.kvCache.length
        let u := t.kvReturn k.kvTenant back
        .next (u.modCore c fun k => { k with
          place := some { p with started := true, start := s.time, trefs := trefs, life := s.free }
          sp := Mem.write [] (64 * p.kf 496 16) (bs.getD 4 [])
          acc := [], cst := []
          consts := (List.range 256).map fun i => (i, w32 (bitsAt (part 0) (32 * i) 32))
          templates := (List.range 64).map fun i => (i, BitVec.ofNat 1024 (bitsAt (part 3) (1024 * i) 1024))
          rings := (List.range 16).map fun i => (i, ringAt (part 2) i)
          strands := (List.range p.nstrands).map fun h => (h, startStrand p trefs s.cyc h)
          taskMarks := [], haspHolder := none, haspLeft := 0, haspLast := 3, spWin := [], ro := [], chans := [], sb := []
          kvCache := if k.kvTenant = p.tenant then k.kvCache else []
          kvTenant := p.tenant, kvAsked := k.kvAsked && k.kvTenant == p.tenant })

/-! ### Retirement -/

/-- Whether a task that a placement spawned, directly or through its tasks, is queued or running in its group (R147). -/
def State.tasksOf (s : State) (c : Nat) : Bool :=
  let p := s.placement c
  (List.range 16).any fun i =>
    let d := 16 * groupOf c + i
    s.holdsNode d p.node && ((s.taskRecs d).any (fun r => recPlace r == p.lin) ||
      [0, 1, 2, 3].any fun h => (s.strand d h).tasks.any fun t => t.place == p.lin)

/-- Whether a placement can retire (R147): every strand has exited and runs no task, no engine command of the core is
open, and no task of the placement is left. -/
def State.canRetire (s : State) (c : Nat) : Bool :=
  let p := s.placement c
  s.holdsNode c p.node && ((List.range 4).all fun h => (s.strand c h).idle && !(s.strand c h).trapped && !(s.strand c h).stopped) &&
    ((List.range p.nstrands).all fun h => (s.strand c h).run == .exited) &&
    !([0, 1, 2, 3].any fun h => s.openCommands c h 0) && !s.tasksOf c

/-- PLACEMENT_RETIRE: the core holds no placement any more, and the completion record is placed after its writes
(R24, R29, R147). -/
def execPlacementRetire (s : State) : Res :=
  let c := s.arg.core
  if !s.canRetire c then .next s
  else
    let p := s.placement c
    let t := (s.detach c).emptyCore c
    .next (t.placeRec (srcCore c) (recData 1 0 p.node c p.late 0 0 0))

end Sys2Proof.Machine
end

