-- ==== Sys2Proof/Machine/Nodes.lean ====
section
/-!
DEFINITION. The front end's tables: queue control blocks and queue errors, launch nodes and their states, deadline keys,
and what the front end reads and writes through its memory port (R417, R420, R425 to R434).
-/

namespace Sys2Proof.Machine

/-- The count of sclk edges (R6). -/
def State.sclk (s : State) : Nat := s.tick

/-- A field of a 512-bit packet or record. -/
def pf (p : BitVec 512) (lo len : Nat) : Nat := bitsAt p.toNat lo len

/-! ### Queues (R417) -/

/-- A queue. -/
def State.fq (s : State) (q : Nat) : Queue := Map.get {} s.fe.queues q

/-- Change a queue. -/
def State.modQ (s : State) (q : Nat) (f : Queue → Queue) : State :=
  { s with fe := { s.fe with queues := Map.put s.fe.queues q (f (s.fq q)) } }

/-- A field of a control block. -/
def Queue.f (q : Queue) (lo len : Nat) : Nat := tf q.cb lo len
/-- Write a field of a control block. -/
def Queue.set (q : Queue) (lo len v : Nat) : Queue := { q with cb := setTf q.cb lo len v }
/-- enable. -/
def Queue.enabled (q : Queue) : Bool := decide (q.f 0 1 = 1)
/-- error. -/
def Queue.stopped (q : Queue) : Bool := decide (q.f 1 1 = 1)
/-- Slots of the ring. -/
def Queue.slots (q : Queue) : Nat := 2 ^ (6 + q.f 16 4)
/-- Owning function. -/
def Queue.fn (q : Queue) : Nat := q.f 20 6
/-- Tenant. -/
def Queue.tenant (q : Queue) : Nat := q.f 32 10
/-- Reference of the ring's tensor. -/
def Queue.ringref (q : Queue) : W64 := w64 (q.f 64 64)
/-- Count of packets executed. -/
def Queue.consume (q : Queue) : Nat := q.f 224 32
/-- Latched producer index. -/
def Queue.latched (q : Queue) : Nat := q.f 256 32
/-- The byte offset of packet `i` (R418). -/
def Queue.at (q : Queue) (i : Nat) : Nat := q.f 128 32 + 64 * (i % q.slots)
/-- Whether a queue has no packet to execute that firmware has taken. -/
def Queue.empty (q : Queue) : Bool := decide (q.consume = q.taken.toNat)

/-- Raise an MSI-X vector of a function. A virtual function has 64 of them; a queue of it that names another raises none (R417, R475; log
entry 115). -/
def State.interrupt (s : State) (fn vec : Nat) : State := if fn ≠ 0 && 64 ≤ vec then s else { s with fe := { s.fe with vectors := s.fe.vectors ++ [(fn, vec)] } }

/-- The active stream that is bound to a queue (R445). -/
def State.boundStream (s : State) (q : Nat) : Option Nat :=
  (s.streams.find? fun p => p.2.active && decide (bitsAt p.2.desc.toNat 0 10 = q)).map Prod.fst

/-- Withdraw the FRAME of a queue from the frame ring at which it waits (R452). -/
def State.dropFrame (s : State) (q : Nat) : State :=
  match s.boundStream q with
  | none => s
  | some n => { s with gwait := s.gwait.map fun p => (p.1, p.2.filter fun w => !(w.core == n && w.agent == 9)) }

/-- A queue error stops a queue, which keeps the first one (R425). -/
def State.queueError (s : State) (q code pkt node : Nat) : State :=
  let k := s.fq q
  if k.stopped then s
  else
    ((s.dropFrame q).modQ q fun k => { (((k.set 1 1 1).set 8 8 code).set 288 32 pkt).set 320 12 node with
      blocked := false, run := none, framing := 0, since := s.sclk }).interrupt k.fn (k.f 192 11)

/-! ### The front end's memory port -/

/-- The bytes of a span of a flat tensor through a memory port: a failure of its translation, or of its path. A link that is
stopped holds the access (R397). -/
def State.portSpan (s : State) (tenant : Nat) (ref : W64) (off n : Nat) (store : Bool) : Except Nat (List Loc) × State :=
  match s.flatBytes .memory tenant ref (off : Int) n store with
  | (.error k, t) => (.error k, t)
  | (.ok ls, t) =>
    match ls.findSome? fun l => t.peerFault tenant l with
    | some (k, _) => (.error k, t)
    | none => (.ok ls, if ls.any t.placeHeld then { t with fe := { t.fe with linkHeld := true } } else t)

/-- What the front end does in a step, unless an access of it waits for a stopped link (R397). -/
def State.unlessHeld (s t : State) : State := if t.fe.linkHeld then s else t

/-- Read a span through the memory port. -/
def State.portRead (s : State) (tenant : Nat) (ref : W64) (off n : Nat) : Except Nat (List Byte) × State :=
  match s.portSpan tenant ref off n false with
  | (.error k, t) => (.error k, t)
  | (.ok ls, t) => (.ok (ls.map t.locGet), ((t.verify ls).touch ls).engineServed ls)

/-- Write a span through the memory port, whole or not at all. -/
def State.portWrite (s : State) (tenant : Nat) (ref : W64) (off : Nat) (bs : List Byte) : Except Nat Unit × State :=
  match s.portSpan tenant ref off bs.length true with
  | (.error k, t) => (.error k, t)
  | (.ok ls, t) => (.ok (), ((t.flatStored .memory tenant ref (off : Int) bs.length).locWrites (ls.zip bs)).engineServed ls)

/-! ### Launch nodes (R423, R426, R427) -/

/-- A node's entry. -/
def State.node (s : State) (n : Nat) : Node := Map.get {} s.fe.nodes n

/-- Change a node's entry. -/
def State.modNode (s : State) (n : Nat) (f : Node → Node) : State :=
  { s with fe := { s.fe with nodes := Map.put s.fe.nodes n (f (s.node n)) } }

/-- Return a node to free (R427). -/
def State.freeNode (s : State) (n : Nat) : State := s.modNode n fun _ => {}

/-- A field of the packet that a node was made from. -/
def Node.f (n : Node) (lo len : Nat) : Nat := pf n.pkt lo len
/-- Partition. -/
def Node.part (n : Node) : Nat := n.f 8 4
/-- Whether the node ages instead of having a deadline. -/
def Node.nodl (n : Node) : Bool := decide (n.f 12 1 = 1)
/-- Reference of the launch structures. -/
def Node.kref (n : Node) : W64 := w64 (n.f 64 64)
/-- Successors, in order: each names a node, or none. -/
def Node.succs (n : Node) : List Nat := ((List.range 4).map fun k => n.f (320 + 16 * k) 16).filter fun x => x ≠ 0xFFFF

/-- The record of a function (R476). -/
def State.fnRec (s : State) (fn : Nat) : BitVec 512 := Map.get 0 s.fe.fns fn

/-- Whether a node lies in the window of a function (R426). -/
def State.inWindow (s : State) (fn node : Nat) : Bool :=
  let r := s.fnRec fn
  decide (pf r 0 1 = 1) && decide (pf r 16 12 ≤ node) && decide (node < pf r 16 12 + pf r 28 13)

/-- Whether an empty node is ready, which completes in this sclk, ahead of what qlaunch and DEC decrement in it (R423, R428). -/
def State.emptyReady (s : State) : Bool := s.fe.nodes.any fun p => p.2.st == .ready && decide (p.2.kref = 0)

/-- Whether a node made from a packet must be created in the next sclk: it is empty and ready at once, and its decrements come ahead of
one that qlaunch or DEC has made in this (R423, R428). -/
def State.emptyHeld (s : State) (pkt : BitVec 512) : Bool :=
  decide (pf pkt 64 64 = 0) && decide (pf pkt 32 16 = 0) && !s.mayServe unitNodes 0

/-- A node becomes ready: its arrival is the TIME of this sclk (R427). -/
def State.makeReady (s : State) (n : Nat) : State := s.modNode n fun e => { e with st := .ready, arrival := s.time }

/-- A decrement of a waiting node's counter (R427). -/
def State.decrement (s : State) (n : Nat) : State :=
  let t := s.modNode n fun e => { e with pred := e.pred - 1 }
  if (t.node n).pred = 0 then t.makeReady n else t

/-- What a chip keeps for a node until it completes there: its barrier ids, contributions that met no coll of its placements, and
tumbler routines installed for it (R147, R249, R347, R408). -/
def State.nodeDone (s : State) (n : Nat) : State :=
  let t := s.releaseIds n
  { t with
    fab := { t.fab with colls := t.fab.colls.filter fun q => q.node != n }
    slices := t.slices.map fun p => (p.1, p.2.filter fun r => r.node != n) }

/-- A node completes: it decrements its successors and returns to free; a successor that is not waiting stops the
node's queue (R428). A forwarded entry and a node whose queue was reset decrement nothing (R417, R431). -/
def State.completeNode (s : State) (n : Nat) : State :=
  let e := s.node n
  let t := (s.freeNode n).nodeDone n
  (if e.remote || e.orphan then [] else e.succs).foldl (fun s k =>
    if (s.node k).st = .waiting then s.decrement k else s.queueError e.queue 0x05 (e.packet.getD 0xFFFFFFFF) k) t

/-- What a created node takes from memory: descriptor, loop table and arguments (R423). An empty node has none. -/
def State.launchData (s : State) (tenant : Nat) (pkt : BitVec 512) : Except Nat (BitVec 512 × List W64 × List W64) × State :=
  let ref := w64 (pf pkt 64 64)
  let words : List Byte → List W64 := fun bs => (List.range (bs.length / 8)).map fun i => w64 (leNat ((bs.drop (8 * i)).take 8))
  if ref = 0 then (.ok (0, [], []), s)
  else
    match s.portRead tenant ref (pf pkt 128 32) 64 with
    | (.error k, t) => (.error k, t)
    | (.ok d, t) =>
      match t.portRead tenant ref (pf pkt 160 32) 48 with
      | (.error k, u) => (.error k, u)
      | (.ok l, u) =>
        match u.portRead tenant ref (pf pkt 192 32) 64 with
        | (.error k, v) => (.error k, v)
        | (.ok a, v) => (.ok (BitVec.ofNat 512 (leNat d), words l, words a), v)

/-- Enter a node: waiting while predecessors are left, else ready (R423, R427). -/
def State.enterNode (s : State) (n : Nat) (e : Node) : State :=
  let t := s.modNode n fun _ => { e with st := .waiting, pred := pf e.pkt 32 16 }
  if pf e.pkt 32 16 = 0 then t.makeReady n else t

/-- The loop levels of a node, as its placements hold them (R122, R123). -/
def Node.shape (e : Node) : Placement := { loops := e.loops, kd := e.kd }

/-- The extent of the chips level; none where the node has no such level (R122). -/
def Placement.chips (p : Placement) : Option Nat :=
  (([0, 1, 2, 3, 4, 5] : List Nat).find? fun k => p.kind k == some 2).map p.extent

/-- Placements of a node on this chip: none on a rank at or beyond its chips level (R123, R431). -/
def State.placementsOf (s : State) (e : Node) : Nat :=
  match e.shape.chips with
  | some n => if s.rank < n then e.shape.count else 0
  | none => e.shape.count

/-! ### Deadlines (R432 to R434) -/

/-- D of a node: its deadline, or arrival plus the queue's ageing budget; that of an entry forwarded from another chip
came with it. -/
def State.deadline (s : State) (e : Node) : Nat :=
  if e.nodl && !e.remote then e.arrival.toNat + (s.fq e.queue).f 160 32
  else if e.nodl then e.arrival.toNat + e.dline.toNat
  else e.dline.toNat

/-- Slack of a node in this sclk, exact. -/
def State.slack (s : State) (e : Node) : Int := (s.deadline e : Int) - (s.time.toNat : Int) - (e.f 224 32 : Nat)

/-- Arbiter keys: slack, D, queue and node. -/
abbrev Key := List Int

/-- The order of keys. -/
def keyLt : Key → Key → Bool
  | [], _ => false
  | _ :: _, [] => false
  | a :: as, b :: bs => decide (a < b) || (decide (a = b) && keyLt as bs)

/-- The key of a node. -/
def State.key (s : State) (n : Nat) : Key :=
  let e := s.node n
  [s.slack e, (s.deadline e : Int), (e.queue : Int), (n : Int)]

/-- Whether a node has placements that the arbiter may place (R427, R430, R435). -/
def State.placeable (s : State) (e : Node) : Bool :=
  (e.st == .ready || e.st == .placing) && e.checked && !e.failed && decide (e.placed < s.placementsOf e)

/-- The nodes that the arbiter orders, in key order (R432). -/
def State.keyOrder (s : State) : List Nat :=
  sortBy (fun a b => keyLt (s.key a) (s.key b)) ((s.fe.nodes.filter fun p => s.placeable p.2).map Prod.fst)

/-! ### Partitions (R436) -/

/-- A field of a partition record. -/
def State.partF (s : State) (p lo len : Nat) : Nat := bitsAt (Map.get 0 s.fe.parts p).toNat lo len

/-- Whether a partition contains a group. -/
def State.partHas (s : State) (p g : Nat) : Bool := decide (s.partF p g 1 = 1)

/-- Whether a group is held for another partition than `p` (R437). -/
def State.heldFrom (s : State) (p g : Nat) : Bool :=
  match s.fe.held.find? fun h => h.1 == g with
  | some h => h.2 != p
  | none => false

end Sys2Proof.Machine
end

