-- ==== Sys2Proof/Machine/Lsq.lean ====
section
/-!
DEFINITION. The load and store queues' forms over scratchpad and translated memory, and the atomics (R97, R108, R198 to R208).
-/

namespace Sys2Proof.Machine

/-! ### Scratchpad forms -/

/-- A scratchpad effective address, checked for the bytes at the given offsets from it: the core and the offset, or
the cause (R198, R199, R202). `align` is the alignment that the form asks for. -/
def State.spTarget (s : State) (E : W64) (align : Nat) (offs : List Nat) (n : Nat) : Except Nat (Nat × Nat) :=
  let o := E.toNat % 2 ^ 20
  if !spFieldsOk E || offs.any fun d => decide (spSize < o + d + n) then .error 0x20
  else if E.toNat % align ≠ 0 then .error 0x21
  else match s.spCore E with
    | .error k => .error k
    | .ok c => .ok (c, o)

/-- Whether a scratchpad access waits on its core's scoreboard: local accesses only (R199, R308). -/
def State.spStall (s : State) (E : W64) (write : Bool) (ranges : List (Nat × Nat)) : Bool :=
  !E.getLsbD 24 && ranges.any fun r => s.stalled s.cur.core s.cur.entry write r.1 r.2

/-! ### Accesses element by element (R97, R108) -/

/-- Part elements of a store into those performed now and those that come later, as a free choice has it; an element does not pass an
earlier one to the same bytes. `held` holds the bytes of those that come later. -/
def pickElems (free : Nat) : Nat → List Loc → List (List (Loc × Byte)) → List (List (Loc × Byte)) × List (List (Loc × Byte))
  | _, _, [] => ([], [])
  | i, held, e :: es =>
    if Config.freeElem free i && !e.any fun p => held.contains p.1 then
      let (a, b) := pickElems free (i + 1) held es
      (e :: a, b)
    else
      let (a, b) := pickElems free (i + 1) (held ++ e.map Prod.fst) es
      (a, e :: b)

/-- Bytes that the executing strand stores. -/
def State.strandWrites (s : State) (ws : List (Loc × Byte)) : State :=
  s.locWrites ws (some (s.self s.cur.core s.cur.strand))

/-- Why an access to an element fails at a peer chip: its path is down, or it has no key there (R395, R399). -/
def State.elemFails (s : State) (ls : List Loc) : Option (Nat × W64) := ls.findSome? fun l => s.peerFault s.myPlace.tenant l

/-- The executing access ends: where a part of it has failed at a peer chip, that is reported to its strand (R399, R416). -/
def State.accessEnds (s : State) (fails : Option (Nat × W64)) : State :=
  match fails with
  | none => s.finish
  | some k => s.finish.report s.cur.core s.cur.strand k.1 5 s.cur.entry.bundle k.2 s.cur.entry.seq

/-- A store is performed for elements that a free choice picks, and the form completes with the last of them; `some_` asks for at
least one. What fails at a peer chip writes nothing (R399). -/
def State.storeTurn (s : State) (some_ : Bool) (es : List (List (Loc × Byte))) : State :=
  let good := es.filter fun e => (s.elemFails (e.map Prod.fst)).isNone
  let bad := s.cur.entry.fails.or (es.findSome? fun e => s.elemFails (e.map Prod.fst))
  let (now, rest) := pickElems s.free (2 ^ 65) [] good
  if rest.isEmpty || (some_ && now.isEmpty) then (s.strandWrites good.flatten).accessEnds bad
  else (s.strandWrites now.flatten).modHead fun e => { e with later := rest, fails := bad }

/-- Read the bytes of an element. -/
def State.srcRead (s : State) (l : Loc) (n : Nat) : List Byte :=
  match l with
  | .sp c a => s.spRead c a n
  | _ => s.locRead l n

/-- The bytes of an element as lanes see them: none while it is still to be read, `some none` where it is not there. -/
def Src.cells : Src → List (Option (Option Byte))
  | .got bs => bs.map fun b => some (some b)
  | .at _ n => List.replicate n none
  | .gone n => List.replicate n (some none)

/-- The bytes of lane `i`. -/
def laneCells (l : List Src) (i : Nat) : List (Option (Option Byte)) := ((l.flatMap Src.cells).drop (4 * i)).take 4

/-- The lanes whose bytes have all been read, or are not there. -/
def readLanes (l : List Src) : W64 := maskOf ((List.range 64).map fun i => (laneCells l i).all Option.isSome)

/-- The lanes with a byte that is not there (R205, R273). -/
def goneLanes (l : List Src) : W64 := maskOf ((List.range 64).map fun i => (laneCells l i).contains (some none))

/-- The lanes as loaded; a lane with a byte that is not there reads zeros (R205, R273). -/
def srcVec (l : List Src) : BitVec 2048 :=
  ofLanes ((List.range 64).map fun i =>
    if (laneCells l i).contains (some none) then 0 else w32 (leNat ((laneCells l i).map fun c => (c.getD none).getD 0)))

/-- Why the read of an element that is still to be read fails at a peer chip. -/
def State.srcFails (s : State) (x : Src) : Option (Nat × W64) := s.elemFails x.locs

/-- The elements of a load without those that fail at a peer chip, of which nothing is read. -/
def State.goodSrcs (s : State) (l : List Src) : List Src :=
  l.map fun x => if (s.srcFails x).isSome then .got (List.replicate x.cells.length 0) else x

/-- The lanes of a load with a byte that fails at a peer chip: they keep their old values (R399). -/
def State.failLanes (s : State) (l : List Src) : W64 :=
  let bad := l.flatMap fun x => List.replicate x.cells.length (s.srcFails x).isSome
  maskOf ((List.range 64).map fun i => ((bad.drop (4 * i)).take 4).any id)

/-- Whether a turn of a vector load reads all that is left of it: where it must read something and its free choices pick no lane. -/
def State.readsAll (s : State) (some_ : Bool) (rd : Loc → Nat → List Byte) (m : W64) (srcs : List Src) : Bool :=
  some_ && (Config.freeLanes s.free 128 &&& m &&& readLanes (sampleSrcs s.free rd srcs)) == 0

/-- A vector load reads elements and writes lanes of those that `m` still lacks, as free choices have it, and completes with the last
of them; `some_` asks for at least one. The mask register `k`, if not m0, loses the lanes that are not there, bit by bit, the last of
them at completion. Lanes with a part that fails at a peer chip keep their values (R97, R175, R205, R399). -/
def State.loadTurn (s : State) (some_ : Bool) (rd : Loc → Nat → List Byte) (v k : Nat) (m0 : W64) (srcs0 : List Src) : State :=
  let m := m0 &&& ~~~s.failLanes srcs0
  let srcs := s.goodSrcs srcs0
  let bad := s.cur.entry.fails.or (srcs0.findSome? s.srcFails)
  let got := sampleSrcs s.free rd srcs
  let all := s.readsAll some_ rd m srcs
  let f := if all then m else Config.freeLanes s.free 128 &&& m &&& readLanes got
  let now := if all then srcs.map (Src.take rd) else got
  let gone := if f = m then goneLanes now else goneLanes now &&& Config.freeLanes s.free 129
  let t := s.modMe fun st =>
    let st1 := st.wvLq s.free s.cyc v f (srcVec now)
    if k = 0 then st1 else st1.wmLq s.free s.cyc k (~~~gone)
  if f = m then t.accessEnds bad
  else t.modHead fun e => { e with left := some (m &&& ~~~f), srcs := now, fails := bad }

/-- A scalar load reads elements, as a free choice has it, and completes with the last of them; `all` asks for all. -/
def State.scalarTurn (s : State) (all : Bool) (d : BitVec 6) (srcs : List Src) : State :=
  let now := if all then srcs.map (Src.take s.srcRead) else sampleSrcs s.free s.srcRead srcs
  let cells := now.flatMap Src.cells
  if cells.all Option.isSome then (s.wx d (w64 (leNat (cells.map fun c => (c.getD none).getD 0)))).finish
  else s.modHead fun e => { e with left := some 0, srcs := now }

/-- An access at a translated place may begin, and be performed in a later turn (R101, R108). -/
def State.perform (s : State) (f : State → Res) : Res :=
  if s.cur.entry.left.isNone && Config.freeElem s.free (2 ^ 64 + 1) then .next (s.modHead fun e => { e with left := some 0 })
  else f s

/-! ### Scratchpad forms, performed -/

/-- The elements of a scalar access: one where it is naturally aligned, else one for each byte (R97, R201). -/
def scalarSrcs (c o n : Nat) : List Src :=
  if o % n = 0 then [.at (.sp c o) n] else (List.range n).map fun i => .at (.sp c (o + i)) 1

/-- Bytes for places from one up, as elements of `k` bytes. -/
def elemsAt (l : Loc) (k : Nat) (bs : List Byte) : List (List (Loc × Byte)) :=
  (List.range (bs.length / k)).map fun j => (List.range k).map fun b => (l.plus (k * j + b), bs.getD (k * j + b) 0)

/-- lds (R201). -/
def execLds (d _a : XReg) (size : BitVec 2) (off : Off) (_tok : Tok) (s : State) : Res :=
  let n := 2 ^ size.toNat
  let E := s.cap 0 + offBytes n off
  if s.cur.entry.left.isSome then .next (s.scalarTurn true d s.cur.entry.srcs)
  else
    match s.spTarget E 1 [0] n with
    | .error k => .next (s.raiseHead k E)
    | .ok (c, o) =>
      let srcs := scalarSrcs c o n
      if s.spStall E false [(o, n)] || s.behind (srcs.flatMap Src.locs) then .next s
      else .next (s.scalarTurn false d srcs)

/-- sts (R201). -/
def execSts (_d _a : XReg) (size : BitVec 2) (off : Off) (_tok : Tok) (s : State) : Res :=
  let n := 2 ^ size.toNat
  let E := s.cap 1 + offBytes n off
  if !s.cur.entry.later.isEmpty then .next (s.storeTurn true s.cur.entry.later)
  else
    match s.spTarget E 1 [0] n with
    | .error k => .next (s.raiseHead k E)
    | .ok (c, o) =>
      let es := elemsAt (.sp c o) (if o % n = 0 then n else 1) (leBytes n (s.cap 0).toNat)
      if s.spStall E true [(o, n)] || s.behind (es.flatten.map Prod.fst) then .next s
      else .next (s.storeTurn false es)

/-- The lanes that a mask enables. -/
def enabled (m : W64) : List Nat := (List.range 64).filter fun i => m.getLsbD i

/-- The elements that a scratchpad load reads: 4 bytes for each enabled lane, from where `at_` says. -/
def laneSrcs (c : Nat) (m : W64) (at_ : Nat → Nat) : List Src :=
  (List.range 64).map fun i => if m.getLsbD i then .at (.sp c (at_ i)) 4 else .got [0, 0, 0, 0]

/-- The elements that a scratchpad store writes: 4 bytes of each enabled lane of a vector. -/
def laneElems (c : Nat) (m : W64) (at_ : Nat → Nat) (d : BitVec 2048) : List (List (Loc × Byte)) :=
  (enabled m).flatMap fun i => elemsAt (.sp c (at_ i)) 4 (leBytes 4 (lane d i).toNat)

/-- A strand's load meets a poisoned sector: 0xA6, and the black-box event (R471). -/
def State.integrity (s : State) : State :=
  (s.raiseHead 0xA6 0).bbEvent 0x04 0xA6 s.myPlace.tenant s.cur.core 0

/-- The places that a turn of a load under way reads. -/
def State.readsNow (s : State) (rd : Loc → Nat → List Byte) : List Loc :=
  let m := s.cur.entry.left.getD 0 &&& ~~~s.failLanes s.cur.entry.srcs
  let srcs := s.goodSrcs s.cur.entry.srcs
  let all := s.readsAll true rd m srcs
  (srcs.zipIdx.filter fun p => all || Config.freeElem s.free (2 ^ 66 + p.2)).flatMap fun p => p.1.locs

/-- A vector load under way goes on, unless what it reads in this turn has been poisoned since (R471). -/
def State.loadOn (s : State) (rd : Loc → Nat → List Byte) (v k : Nat) : State :=
  if (s.readsNow rd).any s.locPoisoned then s.integrity
  else s.loadTurn true rd v k (s.cur.entry.left.getD 0) s.cur.entry.srcs

/-- vlds (R202). -/
def execVlds (v : VReg) (_a : XReg) (m : MReg) (off : Off) (_tok : Tok) (s : State) : Res :=
  let E := s.cap 0 + offBytes 256 off
  if s.cur.entry.left.isSome then .next (s.loadOn s.srcRead v.toNat 0)
  else
    let mk := s.mreg m.toNat 0
    let ls := enabled mk
    match s.spTarget E 4 (ls.map fun i => 4 * i) 4 with
    | .error k => .next (s.raiseHead k E)
    | .ok (c, o) =>
      let srcs := laneSrcs c mk fun i => o + 4 * i
      if s.spStall E false (ls.map fun i => (o + 4 * i, 4)) || s.behind (srcs.flatMap Src.locs) then .next s
      else .next (s.loadTurn false s.srcRead v.toNat 0 mk srcs)

/-- vsts (R202). -/
def execVsts (v : VReg) (_a : XReg) (m : MReg) (off : Off) (_tok : Tok) (s : State) : Res :=
  let E := s.cap 0 + offBytes 256 off
  if !s.cur.entry.later.isEmpty then .next (s.storeTurn true s.cur.entry.later)
  else
    let mk := s.mreg m.toNat 0
    let ls := enabled mk
    match s.spTarget E 4 (ls.map fun i => 4 * i) 4 with
    | .error k => .next (s.raiseHead k E)
    | .ok (c, o) =>
      let es := laneElems c mk (fun i => o + 4 * i) (s.vreg v.toNat 1)
      if s.spStall E true (ls.map fun i => (o + 4 * i, 4)) || s.behind (es.flatten.map Prod.fst) then .next s
      else .next (s.storeTurn false es)

/-- The address of lane `i` of a gather or scatter, wrapped in the own scratchpad (R203). -/
def gatherAddr (a : W64) (vi : BitVec 2048) (i : Nat) : Nat := ((a + (lane vi i).zeroExtend 64) &&& 0xFFFFC).toNat

/-- vldsg (R203). -/
def execVldsg (v : VReg) (_a : XReg) (vi : VReg) (m : MReg) (_tok : Tok) (s : State) : Res :=
  if s.cur.entry.left.isSome then .next (s.loadOn s.srcRead v.toNat 0)
  else
    let mk := s.mreg m.toNat 0
    let ix := s.vreg vi.toNat 1
    let c := s.cur.core
    let srcs := laneSrcs c mk (gatherAddr (s.cap 0) ix)
    if ((enabled mk).any fun i => s.stalled c s.cur.entry false (gatherAddr (s.cap 0) ix i) 4) || s.behind (srcs.flatMap Src.locs) then .next s
    else .next (s.loadTurn false s.srcRead v.toNat 0 mk srcs)

/-- vstss: in lane order, so the highest lane of one address remains (R203). -/
def execVstss (v : VReg) (_a : XReg) (vi : VReg) (m : MReg) (_tok : Tok) (s : State) : Res :=
  if !s.cur.entry.later.isEmpty then .next (s.storeTurn true s.cur.entry.later)
  else
    let mk := s.mreg m.toNat 0
    let ix := s.vreg vi.toNat 1
    let c := s.cur.core
    let es := laneElems c mk (gatherAddr (s.cap 0) ix) (s.vreg v.toNat 2)
    if ((enabled mk).any fun i => s.stalled c s.cur.entry true (gatherAddr (s.cap 0) ix i) 4) || s.behind (es.flatten.map Prod.fst) then .next s
    else .next (s.storeTurn false es)

/-! ### Translated vector forms -/

/-- The tensor that the head names. -/
def State.myDesc (s : State) : Except Nat Desc := s.desc s.myPlace.tenant s.cur.entry.tref

/-- The places of hits. -/
def hitLocs (hs : List Hit) : List Loc := hs.filterMap fun h => match h with
  | .at l => some l
  | _ => none

/-- The elements that a translated load reads into lanes: a wanted one that was found, else, lane by lane, nothing where the lane is
enabled (R205). -/
def hitSrcs (n : Nat) (m : W64) (hs : List Hit) : List Src :=
  hs.zipIdx.flatMap fun p =>
    let blank := fun (k i : Nat) => if m.getLsbD (i / 4) then Src.gone k else .got (List.replicate k 0)
    match p.1 with
    | .at l => [.at l n]
    | _ => if n = 8 then [blank 4 (8 * p.2), blank 4 (8 * p.2 + 4)] else [blank n (n * p.2)]

/-- ldg (R205, R272, R273, R278). -/
def execLdg (v : VReg) (_t : BitVec 4) (_xc : XReg) (m : MReg) (_tok : Tok) (s : State) : Res :=
  if !s.cur.entry.srcs.isEmpty then .next (s.loadOn s.srcRead v.toNat m.toNat)
  else s.perform fun s =>
    match s.myDesc with
    | .error k => .next (s.raiseHead k 0)
    | .ok d =>
      let mk := s.mreg m.toNat 0
      let (hs, t) := s.elems (tcOf s.cur.core) d false (wantElems d mk) s.coords none
      match firstFault hs with
      | some k => .next (t.raiseHead k 0)
      | none =>
        let u := t.touch (hitLocs hs)
        if (hitLocs hs).any u.locPoisoned then .next u.integrity
        else
          .next (u.loadTurn true u.srcRead v.toNat m.toNat mk (hitSrcs d.ebytes mk hs))

/-- The elements that a translated store writes: the bytes of enabled lanes. -/
def hitElems (n : Nat) (m : W64) (bs : List Byte) (hs : List Hit) : List (List (Loc × Byte)) :=
  hs.zipIdx.filterMap fun p =>
    match p.1 with
    | .at l => some ((List.range n).filterMap fun b =>
      let i := p.2 * n + b
      if m.getLsbD (i / 4) then some (l.plus b, bs.getD i 0) else none)
    | _ => none

/-- The coordinates of the elements of a vector access that were found, and do not fail at a peer chip. -/
def State.hitCoords (s : State) (cs : List Int) (hs : List Hit) : List (List Int) :=
  hs.zipIdx.filterMap fun p => match p.1 with
    | .at l => if (s.elemFails [l]).isSome then none else some ((cs.headD 0 + (p.2 : Int)) :: cs.tail)
    | _ => none

/-- stg (R205, R273, R277 to R279). -/
def execStg (v : VReg) (_t : BitVec 4) (_xc : XReg) (m : MReg) (_tok : Tok) (s : State) : Res :=
  if !s.cur.entry.later.isEmpty then .next (s.storeTurn true s.cur.entry.later)
  else s.perform fun s =>
    match s.myDesc with
    | .error k => .next (s.raiseHead k 0)
    | .ok d =>
      let mk := s.mreg m.toNat 0
      let bs := bytesOf (s.vreg v.toNat 1)
      let (hs, t) := s.elems (tcOf s.cur.core) d true (wantElems d mk) s.coords none
      match firstFault (hs.map fun h => if h = .absent then .fault 0x28 else h) with
      | some k => .next (t.raiseHead k 0)
      | none => .next ((t.stored (tcOf s.cur.core) d (t.hitCoords s.coords hs)).storeTurn true (hitElems d.ebytes mk bs hs))

/-! ### The read-only cache -/

/-- The key of the 256-byte line of a place in a read-only cache. -/
def Loc.roKey : Loc → Nat
  | .dev a => 3 * (a / 256)
  | .host a => 3 * (a / 256) + 1
  | .peer c a => 3 * (a / 256 * 64 + c) + 2
  | .sp _ _ => 0

/-- The first byte of the line of a place. -/
def Loc.lineBase : Loc → Loc
  | .dev a => .dev (a / 256 * 256)
  | .host a => .host (a / 256 * 256)
  | .peer c a => .peer c (a / 256 * 256)
  | .sp c a => .sp c (a / 256 * 256)

/-- Bring the line of a place into the core's read-only cache, unless it is held and not evicted (R116). -/
def State.roFill (s : State) (l : Loc) : State :=
  let k := l.roKey
  if Map.has s.myCore.ro k && Config.freeHit s.free k then s
  else
    let v := ofBytes (s.locRead l.lineBase 256)
    s.modMyCore fun c => { c with ro := Map.put c.ro k v }

/-- The values that an ldro of an element may return beside the present one: those that it has held since the node launched, but
none that is older than the value before the newest store of the kernel's strands that, with a fence at device scope behind it, happens
before the ldro (R116). -/
def State.roPasts (s : State) (l : Loc) : List W32 :=
  let ps := s.pasts l s.myPlace.since
  (ps.take ((ps.findIdx (s.knows s.cur.core s.cur.strand)) + 1)).map Past.old

/-- A 4-byte element through the core's read-only cache: as its line holds it, where it is held, not evicted, and such a value is
open, else one of the values that are (R116). -/
def State.roRead (s : State) (l : Loc) (n : Nat) : List Byte :=
  let now := w32 (leNat (s.locRead l n))
  let olds := s.roPasts l
  let held := lane (Map.get 0 s.myCore.ro l.roKey) (l.addr % 256 / 4)
  let v :=
    if Map.has s.myCore.ro l.roKey && Config.freeHit s.free (l.addr / 4) && (now :: olds).contains held then held
    else pickPast (Config.freePast s.free (l.addr / 4)) now olds
  leBytes n v.toNat

/-- The 4-byte elements that ldro reads into lanes: those whose bytes were all found, else nothing where the lane is enabled. -/
def roSrcs (m : W64) (hs : List Hit) : List Src :=
  (List.range 64).map fun i =>
    if !m.getLsbD i then .got [0, 0, 0, 0]
    else match hs.getD (4 * i) .oob with
      | .at l => if ((hs.drop (4 * i)).take 4).all fun h => match h with
          | .at _ => true
          | _ => false then .at l 4 else .gone 4
      | _ => .gone 4

/-- ldro (R206, R116). -/
def execLdro (v : VReg) (_a : XReg) (m : MReg) (off : Off) (_tok : Tok) (s : State) : Res :=
  let p := s.cap 0
  let a := (ptrCoord p : Int) + (offBytes 256 off).toInt
  if !s.cur.entry.srcs.isEmpty then .next (s.loadOn s.roRead v.toNat 0)
  else if bitsAt p.toNat 52 12 ≠ 0 then .next (s.raiseHead 0x23 p)
  else if a % 4 ≠ 0 then .next (s.raiseHead 0x21 p)
  else s.perform fun s =>
    match s.myDesc with
    | .error k => .next (s.raiseHead k p)
    | .ok d =>
      if !d.flat then .next (s.raiseHead 0x23 p)
      else
        let mk := s.mreg m.toNat 0
        let (hs, t) := s.elems (tcOf s.cur.core) d false (wantElems d mk) [a] none
        match firstFault hs with
        | some k => .next (t.raiseHead k p)
        | none =>
          let ls := hitLocs hs
          let t1 := t.touch ls
          if ls.any t1.locPoisoned then .next t1.integrity
          else
            let good := ls.filter fun l => (t.elemFails [l]).isNone
            let u := ((good.map Loc.lineBase).eraseDups).foldl State.roFill t1
            .next (u.loadTurn true u.roRead v.toNat 0 mk (roSrcs mk hs))

/-- pref: the lines that an ldg would read come into L2, or also into the read-only cache; no fault, no register
(R207). -/
def execPref (ro : Bool) (_t : BitVec 4) (_xc : XReg) (_tok : Tok) (s : State) : Res :=
  match s.myDesc with
  | .error _ => .next s.finish
  | .ok d =>
    let (hs, t) := s.elems (tcOf s.cur.core) d false (wantElems d (BitVec.allOnes 64)) s.coords none
    let ls := (hitLocs hs).filter fun l => !t.locPoisoned l
    let u := t.touch ls
    .next (if ro then ((ls.map Loc.lineBase).eraseDups.foldl State.roFill u).finish else u.finish)

/-! ### Atomics -/

/-- An atomic at this chip's home slice: `op` gives the new bytes' number from the width in bits, the old value, the
operand and the comparand (R208). -/
def State.amo (s : State) (d : BitVec 6) (wide : Bool) (l : Lit) (op : Nat → Nat → Nat → Nat → Nat) : Res :=
  let n := if wide then 8 else 4
  let off : Int := match l with
    | none => 0
    | some w => w.toInt
  let p := s.cap 0
  s.perform fun s =>
    match s.flatAt s.cur.core s.myPlace.tenant p s.cur.entry.tref off n n true true with
    | (.error k, t) => .next (t.raiseHead k p)
    | (.ok ls, t) =>
      let t1 := t.touch ls
      if ls.any t1.locPoisoned then .next t1.integrity
      else
        let u := t1.flatStored (tcOf s.cur.core) s.myPlace.tenant s.cur.entry.tref ((ptrCoord p : Int) + off) n
        let old := leNat (ls.map u.locGet)
        let v := (s.cap 1).toNat % 2 ^ (8 * n)
        let c := (s.cap 2).toNat % 2 ^ (8 * n)
        let bs := leBytes n (op (8 * n) old v c)
        .next (((u.strandWrites (ls.zip bs)).wx d (w64 old)).finish)

/-- amo.add (R208). -/
def execAmoAdd (d _a : XReg) (wide : Bool) (l : Lit) (_tok : Tok) (s : State) : Res :=
  s.amo d wide l fun _ o v _ => o + v

/-- amo.min (R208). -/
def execAmoMin (d _a : XReg) (wide : Bool) (l : Lit) (_tok : Tok) (s : State) : Res :=
  s.amo d wide l fun n o v _ => if sval n v < sval n o then v else o

/-- amo.max (R208). -/
def execAmoMax (d _a : XReg) (wide : Bool) (l : Lit) (_tok : Tok) (s : State) : Res :=
  s.amo d wide l fun n o v _ => if sval n o < sval n v then v else o

/-- amo.minn (R208). -/
def execAmoMinn (d _a : XReg) (wide : Bool) (l : Lit) (_tok : Tok) (s : State) : Res :=
  s.amo d wide l fun _ o v _ => Nat.min o v

/-- amo.maxn (R208). -/
def execAmoMaxn (d _a : XReg) (wide : Bool) (l : Lit) (_tok : Tok) (s : State) : Res :=
  s.amo d wide l fun _ o v _ => Nat.max o v

/-- amo.and (R208). -/
def execAmoAnd (d _a : XReg) (wide : Bool) (l : Lit) (_tok : Tok) (s : State) : Res :=
  s.amo d wide l fun _ o v _ => o &&& v

/-- amo.or (R208). -/
def execAmoOr (d _a : XReg) (wide : Bool) (l : Lit) (_tok : Tok) (s : State) : Res :=
  s.amo d wide l fun _ o v _ => o ||| v

/-- amo.xor (R208). -/
def execAmoXor (d _a : XReg) (wide : Bool) (l : Lit) (_tok : Tok) (s : State) : Res :=
  s.amo d wide l fun _ o v _ => o ^^^ v

/-- amo.swap (R208). -/
def execAmoSwap (d _a : XReg) (wide : Bool) (l : Lit) (_tok : Tok) (s : State) : Res :=
  s.amo d wide l fun _ _ v _ => v

/-- amo.cas (R208). -/
def execAmoCas (d _a : XReg) (wide : Bool) (l : Lit) (_tok : Tok) (s : State) : Res :=
  s.amo d wide l fun _ o v c => if o = c then v else o

end Sys2Proof.Machine
end

