-- ==== Sys2Proof/Machine/Traps.lean ====
section
/-!
DEFINITION. Handler entry, halt, the context frame instructions, and causes that the system raises against a strand
(R222, R231, R236, R245, R246, R248).
-/

namespace Sys2Proof.Machine

/-! ### Handler entry -/

/-- Write down the queues of a stopped strand: the hasp form and the parked waiters that the stop withdraws, and the
form that issued with the cause and waits (R219, R225, R326, R340). -/
def State.prepareSettle (s : State) (c h : Nat) : State :=
  ((s.settleHasp c h).withdraw c h).modStrand c h fun st =>
    let st1 := st.stopIssue
    { st1 with rec_ := { st1.rec_ with keep := keepWord st1.keep } }

/-- HANDLER_ENTRY: a trapped strand whose queues have settled enters handler mode, unless its cause ends the node or a
pre-emption has stopped it (R230, R231, R236). -/
def execHandlerEntry (s : State) : Res :=
  let c := s.arg.core
  let h := s.arg.strand
  let st := s.strand c h
  let p := s.placement c
  if !st.trapped || st.stopped || st.inQop || (st.endCause p.trapentry).isSome || !st.settled s.cyc || s.outstanding c h then .next s
  else .next ((s.prepareSettle c h).modStrand c h fun st => st.enterHandler p.trapentry)

/-! ### halt and the system's causes -/

/-- halt: its bundle issues, and the cause 0xA3 with tval := B ends the node (R248, R483). -/
def execHalt (b : SrcB) (s : State) : Res :=
  let B := s.b b
  .next (s.issued.raiseAfter 0xA3 B)

/-- STRAND_ECC_ERROR: cause 0xA4 against a strand, in place of one that is settling (R222). -/
def execStrandEccError (s : State) : Res :=
  let c := s.arg.core
  let h := s.arg.strand
  if 4 ≤ h || (s.core c).place.isNone || (s.strand c h).idle then .next s
  else
    .next (s.modStrand c h fun st =>
      let at_ := st.nextAddr
      if st.trapped then
        { st.unmarked with rec_ := { st.rec_ with cause := causeWord 0xA4 0 6 st.handler, bundle := at_, val := 0, cyc := w64 s.cyc } }
      else st.raise s.cyc 0xA4 0 6 at_ 0 at_ st.seq)

/-- HANDLER_OVERRUN_TIMEOUT: a strand still in handler mode 65 536 clk after the request ends its node with 0xA2
(R236). -/
def execHandlerOverrunTimeout (s : State) : Res :=
  let c := s.arg.core
  let late := s.fe.preempts.any fun p => p.asked && p.group == groupOf c && decide (p.at_ + 65536 ≤ s.cyc)
  if late && (s.strand c s.arg.strand).handler && (s.core c).place.isSome then
    .next (s.terminate (s.placement c).node 0xA2 0 none)
  else .next s

/-! ### Context frames -/

/-- Whether ctxs or ctxr refuses a frame address (R245). -/
def Strand.frameBad (st : Strand) (a : W64) : Bool :=
  decide (a.toNat % 64 ≠ 0) || decide (0xFDC00 < a.toNat) || decide (st.join ≠ 0)

/-- Raise a cause of the waiting form of the executing strand: its bundle has issued (R483). -/
def State.raiseWaiting (s : State) (c h cause : Nat) (val : W64) : State :=
  s.modStrand c h fun st => Strand.raise { st with wait := .none } s.cyc cause st.waitWidx 0 st.waitBundle val st.pc st.waitSeq

/-- ctxs once the strand's queues are empty: the frame, with the next sequential bundle as its resume address
(R245). -/
def State.ctxsTry (s : State) (c h : Nat) (a : W64) : State :=
  let st := s.strand c h
  if !s.quiet c h then s
  else if st.frameBad a then s.raiseWaiting c h 0x09 0
  else (s.spWrite c a.toNat (st.frame st.pc)).modStrand c h fun st => { st with wait := .none }

/-- ctxs (R245). -/
def execCtxs (a : XReg) (s : State) : Res :=
  let A := s.x a
  if s.me.frameBad A then .next (s.raiseAtIssue 0x09 0) else .next (s.issued.modMe fun st => { st with wait := .ctxs A })

/-- Event counters that take what has been added to those of `old` in this clk (R136). -/
def Strand.addEvents (st old : Strand) : Strand := { st with e := st.e.map fun p => (p.1, p.2 + (old.re p.1 - old.re0 p.1)) }

/-- ctxr once the strand's queues are empty: the registers, event counters and token counters of the frame, then the
transfer to its resume address; the bundle there issues from the next clk on, and sees the counters as they start it (R136, R246). -/
def State.ctxrTry (s : State) (c h : Nat) (a : W64) : State :=
  let st := s.strand c h
  let f := fun off n => (s.core c).spNat (a.toNat + off) n
  if !s.quiet c h then s
  else if st.frameBad a || f 0x2310 8 ≠ 0 then s.raiseWaiting c h 0x09 0
  else
    let T := w64 (f 0x2300 8)
    let t := (s.forgetCounters c h).modStrand c h fun st => ((st.loadFrame f).loadEvents f).addEvents st
    match t.target c h false T with
    | (some (k, v), u) => u.raiseWaiting c h k v
    | (none, u) => u.modStrand c h fun st => { st with pc := T, wait := .none, holdUntil := s.cyc + 1 }

/-- ctxr (R246). -/
def execCtxr (a : XReg) (s : State) : Res :=
  let A := s.x a
  if s.me.frameBad A then .next (s.raiseAtIssue 0x09 0) else .next (s.issued.modMe fun st => { st with wait := .ctxr A })

end Sys2Proof.Machine
end

