-- ==== Sys2Proof/Machine/Translate.lean ====
section
/-!
DEFINITION. The translation forms and the walks of translation caches (R270, R275, R280 to R288).
-/

namespace Sys2Proof.Machine

/-! ### probe, pgreq and tdesc -/

/-- The coordinates that probe and pgreq read at issue (R283). -/
def State.seqCoords (s : State) (b : BitVec 6) (n : Nat) : List Int :=
  (List.range n).map fun i => (s.me.rx (b.toNat + i)).toInt

/-- The word that probe writes (R284). -/
def State.probeWord (s : State) (d : Desc) (cs : List Int) : W64 :=
  match d.map cs with
  | none => 0
  | some (tile, _) =>
    let e := s.entry d tile
    w64 (e.toNat % 16 + 16 + 32 * natOf (s.keyOk d e) + 2 ^ 32 * tile)

/-- probe and pgreq: the reference and the layout are checked at issue, and that the coordinate registers lie at or below x59; x[d]
is pending from then on (R283 to R285). -/
def State.issueLate (s : State) (request : Bool) (d : BitVec 6) (t : BitVec 4) (b : BitVec 6) (w : W64) : Res :=
  let ref := s.me.rt t.toNat
  match s.desc s.myPlace.tenant ref with
  | .error k => .next (s.raiseAtIssue k 0)
  | .ok q =>
    if 60 < b.toNat + q.dims.length then .next (s.raiseAtIssue 0x01 0)
    else
      let r : LateReq :=
        { request := request, d := (s.lateDst d).toNat, ref := ref, tref := s.me.rt (ptrReg w), coords := s.seqCoords b q.dims.length
          bundle := s.cur.entry.bundle, widx := s.cur.entry.widx, seq := s.me.seq, due := s.cyc + 512 }
      .next (s.issued.modMe fun st => { st with late := st.late ++ [r] })

/-- probe (R284). -/
def execProbe (d : XReg) (t : BitVec 4) (b : XReg) (s : State) : Res := s.issueLate false d t b 0

/-- The global ring that the tenant's record names for page requests (R478). -/
def State.pageRing (s : State) : W64 := w64 (s.tenantField s.myPlace.tenant 24 8)

/-- pgreq (R285). -/
def execPgreq (d : XReg) (t : BitVec 4) (b : XReg) (s : State) : Res := s.issueLate true d t b s.pageRing

/-- The request that pgreq places (R285): the reference, the tile, the core and CYC. -/
def State.pageRequest (s : State) (ref : W64) (tile : Nat) : List Byte :=
  leBytes 8 ref.toNat ++ leBytes 8 tile ++ leBytes 8 s.cur.core ++ leBytes 8 s.cyc

/-- The places of the payload of a global ring's slot (R213), and its first coordinate and reference. -/
def State.slotPlaces (s : State) (r : Ring) (k n : Nat) : Except Nat (List Loc) × State :=
  let p := w64 r.base
  s.flatAt s.cur.core s.myPlace.tenant p (s.me.rt (ptrReg p)) ((k * r.stride : Nat) : Int) 1 n true false

/-- A late request leaves its strand. -/
def Strand.lateDone (st : Strand) (r : LateReq) : Strand := { st with late := st.late.erase r }

/-- A probe or pgreq completes: x[d] takes its value (R283). -/
def State.lateSet (s : State) (r : LateReq) (v : W64) : State := s.modMe fun st => (st.lateDone r).wx r.d v

/-- A cause that pgreq meets at its ring (log entry 27). -/
def State.lateRaise (s : State) (r : LateReq) (k : Nat) : State :=
  s.modMe fun st => (st.lateDone r).raise s.cyc k r.widx 0 r.bundle 0 st.nextAddr r.seq

/-- Whether the release of a pgreq may take effect: every access of the strand before it has been performed, or, once the strand's
issue has stopped, every one that has begun (R218, R283, R285). -/
def State.lateReleased (s : State) (r : LateReq) : Bool :=
  let c := s.cur.core
  let h := s.cur.strand
  let st := s.me
  if st.trapped || st.stopped then
    !(queues.any fun q => (st.queue q).any fun e => decide (e.seq ≤ r.seq) && e.busy s.cyc) && !s.outstanding c h
  else s.performedTo c h (r.seq + 1)

/-- What a pgreq does: its result, or a request in the tenant's ring, claimed and filled by the strand; none while its release
waits. An element out of bounds and a resident tile answer 2 where the tenant has no ring too: the rule's table before its text (R285;
log entry 117). -/
def State.pageAsk (s : State) (r : LateReq) : Option State :=
  let tenant := s.myPlace.tenant
  match s.desc tenant r.ref with
  | .error _ => some (s.lateSet r 2)
  | .ok q =>
    match q.map r.coords with
    | none => some (s.lateSet r 2)
    | some (tile, _) =>
      let w := s.pageRing
      if entResident (s.entry q tile) then some (s.lateSet r 2)
      else if w = 0 then some (s.lateSet r 0)
      else
        match s.ringOf s.cur.core tenant w r.tref true with
        | (.error k, u) => some (u.lateRaise r k)
        | (.ok n, u) =>
          let g := u.ring n
          if !g.valid then some (u.lateRaise r 0x49)
          else
            match (if (g.first true).isSome then none else g.claim) with
            | none => some (u.lateSet r 0)
            | some (k, g') =>
              if !s.lateReleased r then none
              else
                match u.slotPlaces g k 32 with
                | (.error e, v) => some (v.lateRaise r e)
                | (.ok ls, v) =>
                  let p := w64 g.base
                  let full := (g'.fill k).getD g'
                  let v1 := (v.flatStored (tcOf s.cur.core) tenant (s.me.rt (ptrReg p)) ((ptrCoord p : Int) + (k * g.stride : Nat)) 32).strandWrites
                    (ls.zip (v.pageRequest r.ref tile))
                  some ((((v1.ringStored s.cur.core tenant w r.tref).setRing n full).slotFilled n k s.cur.core s.cur.strand).lateSet r 1)

/-- What a probe or pgreq does when it completes; none while a pgreq waits for its release. A reference that passed at issue and fails by
then gives 0 to probe and 2 to pgreq, of which the spec names nothing (R284, R285; log entry 117). -/
def State.lateStep (s : State) (r : LateReq) : Option State :=
  if r.request then s.pageAsk r
  else
    some (s.lateSet r (match s.desc s.myPlace.tenant r.ref with
      | .error _ => 0
      | .ok q => s.probeWord q r.coords))

/-- The machine as a late request of a strand completes in it. -/
def State.lateCtx (s : State) (c h : Nat) (r : LateReq) : State :=
  { s with cur := { core := c, strand := h, entry := { bundle := r.bundle, widx := r.widx, seq := r.seq } } }

/-- The turn of a strand's late requests: one that a free choice picks completes, else the first that can. -/
def State.lateTurn (s : State) (c h : Nat) : State :=
  let l := (s.strand c h).late
  let one := fun (r : LateReq) => (s.lateCtx c h r).lateStep r
  (((l.filter fun r => Config.freeElem s.free (2 ^ 67 + r.seq)).findSome? one).or (l.findSome? one)).getD s

/-- Whether a late request that can complete has had its 512 clk (R283; log entry 106). -/
def State.lateDue (s : State) (c h : Nat) : Bool :=
  (s.strand c h).late.any fun r => decide (r.due ≤ s.cyc) && ((s.lateCtx c h r).lateStep r).isSome

/-- tdesc: the reference is checked, then t[N] takes it (R288). -/
def execTdesc (t : BitVec 4) (b : SrcB) (s : State) : Res :=
  let B := s.b b
  let ok : State → Res := fun s => .next (s.issued.modMe fun st => st.wt t.toNat B)
  match s.desc s.myPlace.tenant B with
  | .ok _ => ok s
  | .error 0x26 => ok s
  | .error k => .next (s.raiseAtIssue k 0)

/-! ### Invalidation -/

/-- Take one tile's invalidation into flight: its companion word is swapped with 0 at its home (R286). -/
def State.invalidateTile (s : State) (d : Desc) (tile : Nat) : State :=
  let a := d.cwbase + 8 * tile
  let groups := s.devRead a 8
  let e := s.entry d tile
  let i : TInv := { core := s.cur.core, strand := s.cur.strand, tenant := d.tenant, index := d.index, gen := d.gen, tile := tile
                    groups := groups, entry := e, bytes := 2 ^ (12 + d.fsize) }
  let t := (s.devTouch a 8).devWrite a (leBytes 8 0)
  { t with tinvs := t.tinvs ++ [i] }

/-- tinv: it completes at issue, with its invalidations in flight (R286). -/
def execTinv (t : BitVec 4) (b : SrcB) (s : State) : Res :=
  let B := (s.b b).toNat
  let n := bitsAt B 32 16
  if n = 0 || bitsAt B 48 16 ≠ 0 then .next (s.raiseAtIssue 0x01 0)
  else
    match s.desc s.myPlace.tenant (s.me.rt t.toNat) with
    | .error k => .next (s.raiseAtIssue k 0)
    | .ok d =>
      let tiles := ((List.range n).map fun i => B % 2 ^ 32 + i).filter fun i => decide (i < d.ntiles)
      .next (tiles.foldl (fun s i => s.invalidateTile d i) s.issued)

/-- Whether a cached translation is that of an invalidation. -/
def TInv.hits (i : TInv) (t : TEntry) : Bool :=
  t.tenant == i.tenant && t.index == i.index && t.gen == i.gen && t.tile == i.tile

/-- Whether a line of a read-only cache lies in the frame that an entry names. -/
def State.lineIn (s : State) (e : W64) (bytes key : Nat) : Bool :=
  let first := (s.place e 0).roKey
  let last := ((s.place e 0).plus (bytes - 1)).roKey
  decide (first ≤ key) && decide (key ≤ last) && decide ((key - first) % (match s.place e 0 with
    | .peer _ _ => 192
    | _ => 3) = 0)

/-- An invalidation reaches every cache that it names, and in those groups' cores the read-only lines of the tile's frame,
by the entry in memory and by each cached translation that goes (R286, R287). -/
def State.applyTinv (s : State) (i : TInv) : State :=
  let gone : Nat → List W64 := fun g => i.entry :: ((s.tcache (.group g)).filter i.hits).map fun t => t.entry
  { s with
    ports := s.ports.map fun p => (p.1, p.2.filter fun t => !i.hits t)
    groups := s.groups.map fun p => if i.groups.testBit p.1 then (p.1, { p.2 with tcache := p.2.tcache.filter fun t => !i.hits t }) else p
    cores := s.cores.map fun p =>
      let es := (gone (groupOf p.1)).filter entResident
      if i.groups.testBit (groupOf p.1) then
        (p.1, { p.2 with ro := p.2.ro.filter fun q => !es.any fun e => s.lineIn e i.bytes q.1 })
      else p }

/-- Whether a reference names the tensor of an invalidation. -/
def TInv.names (i : TInv) (tenant : Nat) (ref : W64) : Bool :=
  i.tenant == tenant && i.index == bitsAt ref.toNat 0 20 && i.gen == bitsAt ref.toNat 30 14

/-- Whether an access that may have used an invalidated translation is still to be performed: one under way in a queue, a copy that
still has elements to read, or a request sent from EA (R287). -/
def State.usesTile (s : State) (i : TInv) : Bool :=
  (s.cores.any fun p => p.2.strands.any fun st => queues.any fun q => (st.2.queue q).any fun e =>
    e.underWay && i.names (s.placement p.1).tenant e.tref) ||
    (s.cores.any fun p => p.2.chans.any fun k => k.2.queue.any fun q => !q.todo.isEmpty && i.names q.tenant q.src) ||
    (s.tmbs.any fun t => t.ran.isNone && i.names t.tenant t.tref) || s.fab.reqs.any fun r => !r.isSig && i.names r.tenant r.tref

/-- Every earlier tinv of a strand reaches the caches that it names; tsync completes when no access that used an invalidated
translation is still to be performed (R287). -/
def State.tsyncTry (s : State) (c h : Nat) : State :=
  let mine : TInv → Bool := fun i => i.core == c && i.strand == h
  let t := (s.tinvs.filter mine).foldl State.applyTinv s
  if (s.tinvs.filter mine).any t.usesTile then t
  else { t with tinvs := t.tinvs.filter fun i => !mine i }.modStrand c h fun st => { st with wait := .none }

/-- tsync (R287). -/
def execTsync (s : State) : Res := .next (s.issued.modMe fun st => { st with wait := .tsync })

/-! ### Walks -/

/-- Whether some strand of a group still has an access queued under a reference, or a placement of the group fetches
through it. -/
def State.groupUses (s : State) (g tenant : Nat) (ref : W64) : Bool :=
  s.cores.any fun p => groupOf p.1 == g && match p.2.place with
    | none => false
    | some q => q.tenant == tenant && (q.codeten == ref ||
        p.2.strands.any fun st => queues.any fun u => (st.2.queue u).any fun e => !e.done && e.tref == ref)

/-- TRANSLATION_WALK: a cache that holds no translation of a tile walks its entry on behalf of an access to come
(R275, R281, R282). A cause that it meets is left to the access. -/
def execTranslationWalk (s : State) : Res :=
  let a := s.arg
  match s.desc a.m a.word with
  | .error _ => .next s
  | .ok d =>
    let used := match a.cache with
      | .group g => s.groupUses g a.m a.word
      | .port n => decide (n < 50)
      | .memory => false
    if !used || d.ntiles ≤ a.n || (s.tcache a.cache).any (fun t => t.is d a.n) then .next s
    else .next (s.walk a.cache d a.n).2

end Sys2Proof.Machine
end

