-- ==== Sys2Proof/Machine/Context.lean ====
section
/-!
DEFINITION. Pre-emption: the stop of a group, the save areas and what they hold, and resumption (R114, R115, R219, R226,
R236 to R241, R267, R312, R313, R340, R389, R414, R438).
-/

namespace Sys2Proof.Machine

/-! ### The save pool (R239, R240) -/

/-- The byte coordinate of a core's save area in the save pool. -/
def areaAt (slot pos : Nat) : Nat := 1024 * (34816 * slot + 2176 * pos)

/-- Pages of 4 KiB in a save area. -/
def areaPages : Nat := 544

/-- The device address of a 4 KiB page of a save pool, with neither the tenant check nor the key check; it must lie in a
resident GDDR7 tile of this chip. A store that finds no permission walks its tile once more (R240, R279). -/
def State.savePage (s : State) (ref : W64) (coord : Nat) (store : Bool) : Except Nat Nat × State :=
  match s.desc (bitsAt ref.toNat 20 10) ref with
  | .error k => (.error k, s)
  | .ok d =>
    if !d.flat then (.error 0x23, s)
    else
      match d.map [(coord : Int)] with
      | none => (.error 0x27, s)
      | some (tile, off) =>
        let ca := s.cacheOf d tile .memory
        let page : State → W64 → Except Nat Nat × State := fun t e =>
          if !t.entHere e then (.error 0x28, t)
          else if store && !entWritable e then (.error 0x29, t)
          else (.ok (entFrame e + off), t)
        match s.cached ca d tile with
        | (.error k, t) => (.error k, t)
        | (.ok none, t) => (.error 0x28, t)
        | (.ok (some e), t) =>
          if !store || entWritable e then page t e
          else
            match (t.dropT ca d tile).walk ca d tile with
            | (.error k, u) => (.error k, u)
            | (.ok none, u) => (.error 0x28, u)
            | (.ok (some e'), u) => page u e'

/-- The pages from a coordinate up, or the first cause. -/
def State.savePages (s : State) (ref : W64) (coord : Nat) (store : Bool) : Nat → Except Nat (List Nat) × State
  | 0 => (.ok [], s)
  | n + 1 =>
    match s.savePage ref coord store with
    | (.error k, t) => (.error k, t)
    | (.ok a, t) =>
      match State.savePages t ref (coord + 4096) store n with
      | (.error k, u) => (.error k, u)
      | (.ok l, u) => (.ok (a :: l), u)

/-- The pages of a core's save area under a partition's save pool. -/
def State.areaOf (s : State) (part slot pos : Nat) (store : Bool) : Except Nat (List Nat) × State :=
  s.savePages (w64 (s.partF part 128 64)) (areaAt slot pos) store areaPages

/-- A number of `n` bytes at an offset of a save area. -/
def State.areaNat (s : State) (pages : List Nat) (off n : Nat) : Nat :=
  leNat ((List.range n).map fun i => s.devGet (pages.getD ((off + i) / 4096) 0 + (off + i) % 4096))

/-- Write whole lines at an offset of a save area that starts a line, as many as `n`; what was there may still be fetched as code
(R40, R343, R471). -/
def State.areaWrite (s : State) (pages : List Nat) (off : Nat) (bs : List Byte) : Nat → State
  | 0 => s
  | n + 1 =>
    let l := (pages.getD (off / 4096) 0 + off % 4096) / 256
    let t := s.putLine l { s.line l with
      data := BitVec.ofNat 2048 (leNat (bs.take 256)), valid := BitVec.allOnes 4, mask := BitVec.allOnes 256 }
    State.areaWrite { t with poison := t.poison.filter (fun q => q / 4 != l), past := s.pastOfLine l (bs.take 256) ++ t.past } pages (off + 256) (bs.drop 256) n

/-- The stores of a save are performed: their tiles are dirty (R277). -/
def State.areaStored (s : State) (part slot pos : Nat) : State :=
  let ref := w64 (s.partF part 128 64)
  match s.desc (bitsAt ref.toNat 20 10) ref with
  | .error _ => s
  | .ok d => s.stored .memory d ((List.range areaPages).map fun i => [((areaAt slot pos + 4096 * i : Nat) : Int)])

/-! ### What an area holds (R239) -/

/-- A list of bytes, zeros up to a size. -/
def padTo (n : Nat) (l : List Byte) : List Byte := l ++ List.replicate (n - l.length) 0

/-- Trap records: CSRs 0x10 to 0x1C, the flags, the depth and the token counts. -/
def Strand.trapArea (st : Strand) : List Byte :=
  let r := st.rec_
  padTo 512 (([r.cause, r.bundle, r.val, r.resume, r.stLq, r.stCq, r.stSq, r.stEa, r.ctl, r.cyc, r.scratch, r.nrec, r.keep] :
      List W64).flatMap (fun x => leBytes 8 x.toNat) ++
    leBytes 1 (natOf st.handler + 2 * natOf st.pendTrap) ++ leBytes 1 st.depth ++ leBytes 1 st.lc ++ leBytes 1 st.cl ++ leBytes 1 st.cs ++ leBytes 1 st.sc)

/-- A replay record (R226). -/
def Entry.record (e : Entry) (q : Unit5) : List Byte :=
  leBytes 64 (e.bundle.toNat % 2 ^ 21 + 2 ^ 21 * (e.widx % 16) + 2 ^ 25 * unitNo q + 2 ^ 28 * natOf e.lit.isSome + 2 ^ 29 * natOf e.faulted +
    2 ^ 30 * natOf e.done + 2 ^ 32 * e.word.toNat + 2 ^ 64 * (e.lit.getD 0).toNat +
    (if q = .cq then 2 ^ 96 * min e.gap (2 ^ 32 - 1) else 0) +
    ((List.range 5).map fun i => 2 ^ (128 + 64 * i) * (e.caps.getD i 0).toNat).sum +
    2 ^ 448 * (if e.done then natOf e.pushN + 2 * natOf e.pushP else 0))

/-- The replay records of a strand, in queue order. -/
def Strand.replayArea (st : Strand) : List Byte :=
  padTo 6656 (queues.flatMap fun q => (st.replay q).flatMap fun e => e.record q)

/-- A local ring: base, stride, count, head, tail, claimed, the slot states and the holders (R239; log entry 12). -/
def Ring.area (r : Ring) : List Byte :=
  leBytes 4 r.base ++ leBytes 4 r.stride ++ leBytes 1 r.cnt ++ leBytes 1 r.head ++ leBytes 1 r.tail ++ leBytes 1 r.claimed ++
    leBytes 4 (natOf r.valid) ++ leBytes 32 ((List.range 64).map fun k => 16 ^ k * r.slot k).sum ++
    leBytes 16 ((List.range 64).map fun k => 4 ^ k * Map.get 0 r.holders k).sum

/-- The hasp record (R340). -/
def Core.haspArea (k : Core) : List Byte :=
  let st := fun h => k.strand h
  leBytes 16 (natOf k.haspHolder.isSome + 2 * (k.haspHolder.getD 0 % 4) + 2 ^ 4 * (k.haspLeft % 128) + 2 ^ 12 * (k.haspLast % 4) +
    ((List.range 4).map fun h => 2 ^ (16 + h) * natOf ((st h).hasp == .rejoining) + 2 ^ (24 + 6 * h) * (((st h).haspBudget - 1) % 64) +
      2 ^ (48 + 2 * h) * ((st h).haspPrio % 4)).sum)

/-- A barrier slot record (R267). -/
def BarSlot.record (b : BarSlot) : List Byte :=
  leBytes 16 (b.setw % 2 ^ 28 + 2 ^ 28 * (b.rot % 16) + 2 ^ 32 * bitsAt b.relw 0 3 + 2 ^ 35 * bitsAt b.relw 8 8 + 2 ^ 48 * b.arr.toNat +
    2 ^ 64 * b.del.toNat + 2 ^ 80 * natOf b.valid + 2 ^ 81 * natOf b.kept + 2 ^ 82 * (b.keptJ % 16))

/-- A restart record of a copy (R313). -/
def CopyCmd.record (q : CopyCmd) (ch : Nat) : List Byte :=
  leBytes 192 (q.tmpl.toNat + 2 ^ 1024 * ch + 2 ^ 1026 * natOf q.chain.isSome + 2 ^ 1027 * natOf (q.begun || q.again) +
    2 ^ 1028 * natOf q.slot.isSome + 2 ^ 1029 * (q.slot.getD 0 % 64) + 2 ^ 1035 * q.strand + 2 ^ 1040 * q.mask.toNat +
    2 ^ 1056 * (q.gnext % 64) + 2 ^ 1088 * q.nb.toNat + 2 ^ 1152 * q.handle.toNat + 2 ^ 1216 * q.list.toNat)

/-- A channel's chain record and its restart records (R313). -/
def Channel.area (k : Channel) (ch : Nat) : List Byte :=
  padTo 3200 (leBytes 128 (k.base % 2 ^ 20 + 2 ^ 20 * (k.n % 16) + 2 ^ 24 * (k.next % 16) + 2 ^ 28 * natOf k.linked + 2 ^ 29 * (k.strand % 4) +
      2 ^ 32 * k.credit + ((List.range 16).map fun j => 2 ^ (64 + 32 * j) * Map.get 0 k.k j).sum) ++
    k.queue.flatMap fun q => q.record ch)

/-- A restart record of an attention request (R389). -/
def EngCmd.record (q : EngCmd) : List Byte :=
  leBytes 192 (q.data.toNat + 2 ^ 1024 * (q.tag % 65536) + 2 ^ 1040 * q.strand + 2 ^ 1042 * natOf q.slot.isSome + 2 ^ 1043 * (q.slot.getD 0 % 64))

/-- The control block (R239, R267, R313, R340, R389, R414). -/
def Core.control (k : Core) (reqs : List EngCmd) (attn mbox : List ResElem) : List Byte :=
  let strands := (List.range 4).map fun h => k.strand h
  let chans := (List.range 4).map fun ch => k.chan ch
  padTo 64 k.haspArea ++ strands.flatMap (fun st => (List.range 4).flatMap fun i => (st.bar i).record) ++ List.replicate 128 0 ++
    padTo 64 (leBytes 8 (strands.zipIdx.map fun p => 2 ^ (16 * p.2) * p.1.refills.toNat).sum ++ leBytes 1 reqs.length ++ leBytes 1 attn.length ++
      leBytes 1 mbox.length ++ chans.flatMap fun c => leBytes 1 c.queue.length) ++
    chans.zipIdx.flatMap (fun p => p.1.area p.2) ++ padTo (64 * 192) (reqs.flatMap EngCmd.record) ++
    padTo (64 * 128) (attn.flatMap fun r => leBytes 128 r.data.toNat) ++ padTo (16 * 128) (mbox.flatMap fun r => leBytes 128 r.data.toNat)

/-- The whole area of a core, in its order (R239). -/
def Core.area (k : Core) (reqs : List EngCmd) (attn mbox : List ResElem) : List Byte :=
  let strands := (List.range 4).map fun h => k.strand h
  padTo 0x220000 (Mem.read k.sp 0 0x100000 ++ Mem.read k.acc 0 0x40000 ++ Mem.read k.cst 0 0xC0000 ++
    strands.flatMap (fun st => st.frame st.rec_.resume) ++ strands.flatMap Strand.trapArea ++ strands.flatMap Strand.replayArea ++
    (List.range 16).flatMap (fun i => (Map.get {} k.rings i).area) ++ k.control reqs attn mbox)

/-! ### The request (R236) -/

/-- The cores of a group that hold a placement. -/
def State.placedCores (s : State) (g : Nat) : List Nat :=
  ((List.range 16).map fun i => 16 * g + i).filter fun c => (s.core c).place.isSome

/-- A strand stops for pre-emption: its settled queues will be replay records, and tresume its next bundle; a strand in
handler mode goes on to its eret (R236). -/
def Strand.preempt (st : Strand) : Strand :=
  if st.run ≠ .running || st.handler || st.stopped then st
  else
    let st1 := st.stopIssue
    { st1 with stopped := true, rec_ := if st.trapped then st1.rec_ else { st1.rec_ with resume := st.nextAddr } }

/-- Whether a save slot of a partition's pool is free (R436, R437). -/
def State.slotFree (s : State) (p k : Nat) : Bool :=
  decide (k < s.partF p 192 16) && !(s.saved.any fun g => g.part == p && g.slot == k) &&
    !(s.fe.preempts.any fun q => q.part == p && q.slot == k)

/-- PREEMPTION_REQUEST: the cores of a group get the request, from the arbiter or from system software through the front
end: every strand stops issue (R236). -/
def execPreemptionRequest (s : State) : Res :=
  let g := s.arg.n
  let asked := s.fe.preempts.any fun p => p.group == g
  let t := if s.arg.flag && !asked && s.slotFree s.arg.m s.arg.k && g < 64 then
      { s with fe := { s.fe with preempts := s.fe.preempts ++ [{ part := s.arg.m, group := g, slot := s.arg.k }] } }
    else s
  if !(t.fe.preempts.any fun p => p.group == g && !p.asked) || (t.placedCores g).any (fun c => !(t.placement c).started) then .next s
  else
    let u := (t.placedCores g).foldl (fun s c => ([0, 1, 2, 3] : List Nat).foldl (fun s h => s.modStrand c h Strand.preempt) s) t
    .next { u with fe := { u.fe with preempts := u.fe.preempts.map fun p => if p.group = g then { p with asked := true, at_ := s.cyc } else p } }

/-! ### Cancelled engine work (R115, R238, R312, R389) -/

/-- What a copy command restarts from: receivers and blocks that have landed stay landed, slots are kept; a gather restarts at its
first block that has not landed (R312). -/
def CopyCmd.restart (q : CopyCmd) : CopyCmd :=
  let slot := if q.kind = 2 then (if tRmode q.tmpl = 1 then (match q.lands with
      | l :: _ => l.slot
      | [] => q.slot) else none) else q.slot
  { q with
    begun := false, again := true, waited := false, lands := [], box := [], todo := [], half := [], sb := none, slot := slot
    mask := if q.kind = 1 && !q.waited then BitVec.ofNat 16 ((q.lands.map fun l => 2 ^ (l.core % 16)).sum) else q.mask
    gnext := ((q.lands.map fun l => l.block).min?).getD q.gnext
    fault := if q.kind = 2 then q.fault else none }

/-- Cancel the commands of a channel: a command that has not begun stays as it is, and one whose landings are all complete has no
receiver and no slot left; another leaves each element of its destination old or new, and its filling slots claimed (R115, R312). -/
def State.cancelCopies (s : State) (c ch : Nat) : State :=
  (s.chan c ch).queue.foldl (fun t0 q0 =>
    let t := t0.fetching c q0 fun _ => true
    if !q0.begun then t.modCmd c ch q0.id fun q => { q with sb := none }
    else if tDir q0.tmpl = 0 && q0.landedAll then t.modCmd c ch q0.id fun q => { q with sb := none, slot := none, mask := 0 }
    else
      let q := t.fetched q0 fun _ => true
      let s1 := q.lands.foldl (fun t l =>
        if l.begun then (t.boxLand l.core l.base (q.bytesOf l) (cutPart s.free l.half)).landSlot q l 1 else t) t
      let s2 := if q.waited then s1.withdraw c (4 + ch) else s1
      let s3 := if tDir q.tmpl ≠ 0 && !q.waited then (s2.lastMoves c q (cutPart s.free q.half) false).2 else s2
      s3.modCmd c ch q.id CopyCmd.restart) s

/-- Cancel the request in a group's engine: its output, where it may land, is old or new, a filling slot is claimed again, and the
request goes back to the front of the FIFO (R115, R387, R389). -/
def State.cancelAttn (s : State) (g : Nat) : State :=
  match (s.group g).attnRun with
  | none => s
  | some run =>
    if run.cmd.detached then s
    else
      let q := run.cmd.data
      let r := s.ring run.ring
      let slot := if qf0 q 20 2 = 3 then some (qf0 q 26 6) else run.cmd.slot
      let open_ := match slot with
        | none => decide (qf0 q 20 2 = 0)
        | some k => decide (r.slot k = 2) || (decide (r.slot k = 1) && decide (k < r.count))
      let t := if run.fault.isNone && open_ then
          let u := s.attnWrite run (s.attnBase run slot) (cutPart s.free run.half)
          if run.half.isEmpty then u else u.attnSlot run slot 1
        else s
      (t.withdraw run.cmd.core 8).modGroup g fun k => { k with attnRun := none, attnIn := run.cmd :: k.attnIn }

/-! ### The save (R236 to R240) -/

/-- Whether a placed core is ready to be saved: every strand that runs has stopped and settled, and what completes before
a save has completed (R236, R238, R267; log entry 103). -/
def State.saveReady (s : State) (c : Nat) : Bool :=
  (s.placement c).started &&
    (([0, 1, 2, 3] : List Nat).all fun h =>
      let st := s.strand c h
      (st.run ≠ .running || (st.stopped && !st.handler && st.settled s.cyc && !st.inQop)) && !s.outstanding c h) &&
    !(s.fab.reqs.any fun r => r.core == c && !r.dead) && !((s.group (groupOf c)).mboxIn.any fun q => q.core == c) &&
    !(s.barDue.any fun d => d.core == c) && !(s.increments.any fun i => i.core == c && i.fence.isNone)

/-- Settle the strands of a core that is saved, and cancel its engine work. -/
def State.settleCore (s : State) (c : Nat) : State :=
  let t := ([0, 1, 2, 3] : List Nat).foldl (fun s h =>
    if (s.strand c h).run = .running then
      (s.prepareSettle c h).modStrand c h fun st => { st.settle with pendTrap := st.trapped, win := [] }
    else s) s
  let u := ([0, 1, 2, 3] : List Nat).foldl (fun s ch => s.cancelCopies c ch) t
  u.modCore c fun k => { k with sb := [] }

/-- Add a saved core to the group that is saved in a slot. -/
def State.addSaved (s : State) (part slot : Nat) (sc : SavedCore) : State :=
  let here : SavedGroup → Bool := fun g => g.part == part && g.slot == slot
  if s.saved.any here then
    { s with saved := s.saved.map fun g => if here g then { g with cores := g.cores ++ [sc] } else g }
  else { s with saved := s.saved ++ [{ part := part, slot := slot, cores := [sc] }] }

/-- The arrivals of a core's placement that have not reached the barrier unit: those that are not eligible, and those of the same strand
behind them (R256). -/
def State.arrivalsHeld (s : State) (c node : Nat) : List BarArr :=
  (s.barArr.zipIdx.filter fun p => p.1.core == c && p.1.node == node && (s.barArr.take (p.2 + 1)).any fun b =>
    b.core == c && b.node == node && b.strand == p.1.strand && !s.eligible b).map Prod.fst

/-- The ids of narrow scope that a core's strands have declared are tied to the placement, or the group, while it is saved (R261). -/
def State.homesAway (s : State) (c : Nat) (pre : Preempt) (sc : SavedCore) : State :=
  s.moveHomes sc.node sc.book.wantsId (fun k => if k = 0 then c else groupOf c) (fun k => savedHome k sc.place.lin pre.part pre.slot)

/-- Save one core: its area is written, the core is empty, and its record follows; a cause met by the save ends the node. Arrivals
that are eligible, with none before them that is not, stay with the barrier unit (R236, R239, R240, R252, R256). -/
def State.saveCore (s : State) (pre : Preempt) (c : Nat) : State :=
  match (s.core c).place with
  | none => s
  | some p =>
    match s.areaOf pre.part pre.slot (c % 16) true with
    | (.error _, t) => t.terminate p.node 0xA7 0 none
    | (.ok pages, t) =>
      let g := t.group (groupOf c)
      let mineT := t.tinvs.filter fun i => i.core == c
      let t1 := mineT.foldl State.applyTinv { t with tinvs := t.tinvs.filter fun i => i.core != c }
      let t2 := t1.kvEmptyCache c
      let k := t2.core c
      let reqs := g.attnIn.filter fun q => q.core == c
      let attn := g.attnOut.filter fun r => r.core == c
      let mbox := g.mboxOut.filter fun r => r.core == c
      let book := { k with
        place := none, sp := [], acc := [], cst := [], ro := [], spWin := [], kvCache := [], kvAsked := false
        strands := k.strands.map fun q => (q.1, { q.2 with rea := q.2.rea.map fun e => { e with cmd := e.cmd.map fun m => { m with sb := none } } }) }
      let held := t2.arrivalsHeld c p.node
      let sc : SavedCore :=
        { pos := c % 16, core := c, tenant := p.tenant, node := p.node, place := p, book := book, reqs := reqs, attnRes := attn
          mboxRes := mbox, incrs := t2.increments.filter fun i => i.srcCore == c
          arrs := held }
      let t3 := { (t2.areaWrite pages 0 (k.area reqs attn mbox) 8704).areaStored pre.part pre.slot (c % 16) with
        increments := t2.increments.filter fun i => i.srcCore != c
        barArr := (t2.barArr.filter fun (a : BarArr) => !held.contains a).map fun (a : BarArr) =>
          if a.core = c then { a with rel := false } else a }
      let t4 := t3.modGroup (groupOf c) fun g => { g with
        attnIn := g.attnIn.filter fun q => q.core != c, attnOut := g.attnOut.filter fun r => r.core != c
        mboxOut := g.mboxOut.filter fun r => r.core != c }
      let t5 := ((t4.homesAway c pre sc).addSaved pre.part pre.slot sc).modCore c fun k => { k with chans := [], rings := [], kvAsked := false }
      (t5.emptyCore c).placeRec (srcCore c) (recData 3 0xA0 p.node c p.late (k.strand 0).rec_.resume.toNat 0 0)

/-- Whether a collective of a strand that waits for it has not completed 65 536 clk after a pre-emption's request reached its core (R414). -/
def State.collLate (s : State) (q : Coll) : Bool :=
  (s.fe.preempts.any fun p => p.asked && p.group == groupOf q.core && decide (p.at_ + 65536 ≤ s.cyc)) &&
    (match (s.strand q.core q.hw).ea with
      | e :: _ => e.wait == some q.k
      | [] => false) &&
    s.holdsNode q.core q.node

/-- CONTEXT_SAVE: when every placed core of a group that is pre-empted is ready, each is saved in ascending order; a
group that has become wholly free needs no save. The pre-emption is over when all are (R219, R236, R237, R437). -/
def execContextSave (s : State) : Res :=
  let g := s.arg.n
  match s.fe.preempts.find? fun p => p.asked && p.group == g with
  | none => .next s
  | some pre =>
    let cs := s.placedCores g
    if !cs.all s.saveReady || s.fab.colls.any s.collLate then .next s
    else
      let t := ((cs.foldl State.settleCore s).cancelAttn g).modGroup g fun k => { k with
        attnIn := k.attnIn.mapIdx fun i q => { q with turn := i } }
      let u := cs.foldl (fun s c => s.saveCore pre c) t
      .next { u with fe := { u.fe with preempts := u.fe.preempts.filter fun p => p != pre } }

/-! ### Resumption (R237) -/

/-- An entry as its replay record gives it; what the record does not carry is as the front end kept it (R226). -/
def Entry.ofRecord (e : Entry) (r : Nat) : Entry :=
  { e with
    bundle := w64 (bitsAt r 0 21), widx := bitsAt r 21 4, lit := if bitsAt r 28 1 = 1 then some (w32 (bitsAt r 64 32)) else none
    faulted := decide (bitsAt r 29 1 = 1), done := decide (bitsAt r 30 1 = 1), word := w32 (bitsAt r 32 32)
    gap := bitsAt r 96 32, caps := (List.range e.caps.length).map fun i => w64 (bitsAt r (128 + 64 * i) 64)
    pushN := decide (bitsAt r 448 1 = 1), pushP := decide (bitsAt r 449 1 = 1) }

/-- A barrier slot from its record (R267). -/
def BarSlot.ofRecord (b : BarSlot) (r : Nat) : BarSlot :=
  { b with
    setw := bitsAt r 0 28, rot := bitsAt r 28 4, relw := bitsAt r 32 3 + 2 ^ 8 * bitsAt r 35 8, arr := BitVec.ofNat 16 (bitsAt r 48 16)
    del := BitVec.ofNat 16 (bitsAt r 64 16), valid := decide (bitsAt r 80 1 = 1), kept := decide (bitsAt r 81 1 = 1), keptJ := bitsAt r 82 4 }

/-- A ring from its saved form. -/
def Ring.ofArea (f : Nat → Nat → Nat) : Ring :=
  { base := f 0 4, stride := f 4 4, cnt := f 8 1, head := f 9 1, tail := f 10 1, claimed := f 11 1, valid := decide (f 12 4 % 2 = 1)
    slots := (List.range 64).map fun k => (k, bitsAt (f 16 32) (4 * k) 4)
    holders := (List.range 64).map fun k => (k, bitsAt (f 48 16) (2 * k) 2) }

/-- A copy command from its restart record. -/
def CopyCmd.ofRecord (q : CopyCmd) (r : Nat) : CopyCmd :=
  { q with
    tmpl := BitVec.ofNat 1024 r, again := decide (bitsAt r 1027 1 = 1), slot := if bitsAt r 1028 1 = 1 then some (bitsAt r 1029 6) else none
    strand := bitsAt r 1035 2, mask := BitVec.ofNat 16 (bitsAt r 1040 16), gnext := if q.count ≤ q.gnext then q.gnext else bitsAt r 1056 6, nb := w64 (bitsAt r 1088 64)
    handle := w64 (bitsAt r 1152 64), list := w64 (bitsAt r 1216 64) }

/-- A channel from its chain record and its restart records. -/
def Channel.ofArea (k : Channel) (f : Nat → Nat → Nat) : Channel :=
  let r := f 0 128
  { k with
    base := bitsAt r 0 20, n := bitsAt r 20 4, next := bitsAt r 24 4, linked := decide (bitsAt r 28 1 = 1), strand := bitsAt r 29 2
    credit := bitsAt r 32 32, k := (List.range 16).map fun j => (j, bitsAt r (64 + 32 * j) 32)
    queue := k.queue.mapIdx fun i q => q.ofRecord (f (128 + 192 * i) 192) }

/-- A strand from its frame, trap record and replay records: it runs catch-up next, or enters its handler for a trap that
was pending (R233, R236, R237). -/
def Strand.ofArea (st : Strand) (h : Nat) (f : Nat → Nat → Nat) (cyc : Nat) : Strand :=
  let fr := 0x200000 + 9216 * h
  let tr := 0x209000 + 512 * h
  let rp := 0x209800 + 6656 * h
  let csr := fun i => w64 (f (tr + 8 * i) 8)
  let flags := f (tr + 104) 1
  let ents := fun (skip : Nat) (l : List Entry) => l.mapIdx fun i e => e.ofRecord (f (rp + 64 * (skip + i)) 64)
  let st1 := ((st.loadFrame fun o n => f (fr + o) n).loadEvents fun o n => f (fr + o) n)
  let nl := st.rlq.length
  let nc := nl + st.rcq.length
  let nq := nc + st.rsq.length
  let run := st.run == .running
  { st1 with
    joins := Map.put st1.joins st1.depth (f (fr + 0x2310) 8)
    rec_ := { cause := csr 0, bundle := csr 1, val := csr 2, resume := csr 3, stLq := csr 4, stCq := csr 5, stSq := csr 6, stEa := csr 7
              ctl := csr 8, cyc := csr 9, scratch := csr 10, nrec := csr 11, keep := csr 12 }
    lc := f (tr + 106) 1, cl := f (tr + 107) 1, cs := f (tr + 108) 1, sc := f (tr + 109) 1
    handler := decide (flags % 2 = 1), pendTrap := decide (flags / 2 = 1), trapped := decide (flags / 2 = 1), stopped := false
    rlq := ents 0 st.rlq, rcq := ents nl st.rcq, rsq := ents nc st.rsq, rea := ents nq st.rea
    bars := (List.range 4).map fun i => (i, (st.bar i).ofRecord (f (0x210440 + 16 * (4 * h + i)) 16))
    refills := BitVec.ofNat 16 (f (0x2105C0 + 2 * h) 2)
    e := (List.range 16).map fun i => (i, st1.re i + BitVec.ofNat 16 (f (0x210540 + 32 * h + 2 * i) 2))
    pc := if run then csr 3 else st1.pc, checkPc := run, catchUp := run && decide (flags / 2 = 0), holdUntil := cyc + 1 }

/-- The hasp state from its record (R340). -/
def Core.haspOf (k : Core) (r cyc : Nat) : Core :=
  let k1 := { k with haspHolder := if r % 2 = 1 then some (bitsAt r 1 2) else none, haspLeft := bitsAt r 4 7, haspLast := bitsAt r 12 2, haspFree := cyc }
  ([0, 1, 2, 3] : List Nat).foldl (fun k h =>
    k.setStrand h { k.strand h with
      hasp := if bitsAt r (16 + h) 1 = 1 then .rejoining else .none, haspBudget := bitsAt r (24 + 6 * h) 6 + 1, haspPrio := bitsAt r (48 + 2 * h) 2 }) k1

/-- Re-arm the scoreboard for restarted copies: what issued after a copy is stalled by its entry again (R238, R308, R312). -/
def State.rearm (s : State) (c : Nat) : State :=
  ([0, 1, 2, 3] : List Nat).foldl (fun s ch => (s.chan c ch).queue.foldl (fun s q =>
    match s.sbRange c q, (s.core c).sbFree with
    | some r, some i =>
      (s.modCore c fun k => { k with sb := Map.put k.sb i { r with since := q.since } }).modCmd c ch q.id fun q => { q with sb := some i }
    | _, _ => s) s) s

/-- Deliveries that were pending for a core while it was saved become due when it resumes, in its phase (R267). -/
def State.pendingDue (s : State) (c node : Nat) (pend : List Nat) : State :=
  let ids := (s.bars.filter fun b => pend.contains b.1 && b.2.node == some node && (s.core c).wantsId b.1)
  { s with barDue := s.barDue ++ ids.map fun (b : Nat × BarId) =>
      { core := c, id := b.1, clk := s.cyc + 1 + c % 8 % relPhases b.2.relw * relDelta b.2.relw } }

/-- Whether the save area of a core can be read (R240). -/
def State.areaReads (s : State) (part slot : Nat) (sc : SavedCore) : Bool :=
  match (s.areaOf part slot sc.pos false).1 with
  | .ok _ => true
  | .error _ => false

/-- Resume one core at its position of a group (R237, R238, R389). -/
def State.resumeCore (s : State) (part slot g : Nat) (sc : SavedCore) : State :=
  let c := 16 * g + sc.pos
  match s.areaOf part slot sc.pos false with
  | (.error _, t) => t
  | (.ok pages, t) =>
    let f := fun off n => t.areaNat pages off n
    let bytes := fun off n => (List.range n).map fun i => t.devGet (pages.getD ((off + i) / 4096) 0 + (off + i) % 4096)
    let t1 := t.kvEmptyCache c
    let k : Core := { sc.book with
      place := some sc.place, sp := Mem.write [] 0 (bytes 0 0x100000), acc := Mem.write [] 0 (bytes 0x100000 0x40000)
      cst := Mem.write [] 0 (bytes 0x140000 0xC0000), haspFree := s.cyc, arrayFree := s.cyc, vuFree := s.cyc
      rings := (List.range 16).map fun i => (i, Ring.ofArea fun o n => f (0x210000 + 64 * i + o) n)
      chans := (List.range 4).map fun ch => (ch, (sc.book.chan ch).ofArea fun o n => f (0x210600 + 3200 * ch + o) n)
      strands := (List.range 4).map fun h => (h, (sc.book.strand h).ofArea h f s.cyc) }
    let k1 := k.haspOf (f 0x210400 16) s.cyc
    let asked : Bool := ([0, 1, 2, 3] : List Nat).any fun (h : Nat) => decide (0 < (k1.strand h).refills.toNat)
    let t2 := t1.setCore c { k1 with kvAsked := asked }
    let elem : Nat → List ResElem → List ResElem := fun base l => l.mapIdx fun i r => { r with core := c, data := BitVec.ofNat 1024 (f (base + 128 * i) 128) }
    let reqs : List EngCmd := sc.reqs.mapIdx fun i q =>
      let r := f (0x213800 + 192 * i) 192
      { q with core := c, data := BitVec.ofNat 1024 r, tag := bitsAt r 1024 16, strand := bitsAt r 1040 2
               slot := if bitsAt r 1042 1 = 1 then some (bitsAt r 1043 6) else none }
    let t3 := t2.modGroup g fun k => { k with
      attnIn := k.attnIn ++ reqs, attnOut := k.attnOut ++ elem 0x216800 sc.attnRes, mboxOut := k.mboxOut ++ elem 0x218800 sc.mboxRes }
    let t4 := { t3 with
      increments := t3.increments ++ sc.incrs.map fun (i : Incr) => { i with core := 16 * g + i.core % 16, srcCore := c }
      barArr := t3.barArr ++ sc.arrs.map fun (a : BarArr) => { a with core := c, due := if a.due = 0 then 0 else s.cyc + 64 } }
    let t5 := t4.moveHomes sc.node sc.book.wantsId (fun k => savedHome k sc.place.lin part slot) (fun k => if k = 0 then c else g)
    State.pendingDue (t5.rearm c) c sc.node sc.pend

/-- The key of a saved group: that of the node of least slack among its placements (R438). -/
def State.savedKey (s : State) (g : SavedGroup) : Key :=
  match sortBy keyLt (g.cores.map fun c => s.key c.node) with
  | k :: _ => k
  | [] => []

/-- Whether a core group lies in every partition whose placements a saved group holds, and is held for no other (R438). -/
def State.mayHold (s : State) (sv : SavedGroup) (g : Nat) : Bool :=
  sv.cores.all fun c => s.partHas (s.node c.node).part g && !s.heldFrom (s.node c.node).part g

/-- Whether a saved group may resume on a group: it is wholly free, it lies in every partition whose placements are held
and is held for no other, and no node and no other saved group of smaller key would get it first (R438). -/
def State.canResume (s : State) (sv : SavedGroup) (g : Nat) : Bool :=
  decide (g < 64) && ((List.range 16).all fun i => s.coreFree (16 * g + i)) &&
    s.mayHold sv g && !(s.fe.preempts.any fun p => p.group == g) &&
    !(s.saved.any fun o => keyLt (s.savedKey o) (s.savedKey sv) && s.mayHold o g) &&
    !(s.keyOrder.any fun n => keyLt (s.key n) (s.savedKey sv) && s.partHas (s.node n).part g && !s.heldFrom (s.node n).part g)

/-- GROUP_RESUME: a saved group resumes on a core group: areas are read back, engine work restarts, requests in their old order, and
every strand runs catch-up; a node with an area that cannot be read ends (R233, R237, R238, R240, R389, R438). -/
def execGroupResume (s : State) : Res :=
  match s.saved[s.arg.n]? with
  | none => .next s
  | some sv =>
    if !s.canResume sv s.arg.m then .next s
    else
      let bad := (sv.cores.filter fun c => !s.areaReads sv.part sv.slot c).map fun c => c.node
      let u := sv.cores.foldl (fun s c => if bad.contains c.node then s.dropSaved c 0xA7 0 else s.resumeCore sv.part sv.slot s.arg.m c) s
      let u := { u with saved := u.saved.eraseIdx s.arg.n }
      let u := bad.eraseDups.foldl (fun s n => s.terminate n 0xA7 0 none) u
      let u := u.modGroup s.arg.m fun k => { k with attnIn := sortBy (fun a b => decide (a.turn < b.turn)) k.attnIn }
      .next { u with bars := u.bars.map fun b => (b.1, { b.2 with pending := b.2.pending && (match b.2.node with
        | some n => u.saved.any fun g => g.cores.any fun c => c.node == n && c.pend.contains b.1
        | none => false) }) }

end Sys2Proof.Machine
end

