-- ==== Sys2Proof/Machine/Ladder.lean ====
section
/-!
DEFINITION. Streams as the front end sees them: descriptors and rungs, the evaluation of a frame, and the nodes of a bound
queue (R445, R448, R449, R452 to R455).
-/

namespace Sys2Proof.Machine

/-! ### Descriptors (R448, R449) -/

/-- A stream. -/
def State.stream (s : State) (n : Nat) : Stream := Map.get {} s.streams n

/-- Change a stream. -/
def State.modStream (s : State) (n : Nat) (f : Stream → Stream) : State :=
  { s with streams := Map.put s.streams n (f (s.stream n)) }

/-- A field of the descriptor. -/
def Stream.f (x : Stream) (lo len : Nat) : Nat := bitsAt x.desc.toNat lo len
/-- Bound queue. -/
def Stream.queue (x : Stream) : Nat := x.f 0 10
/-- Encoder. -/
def Stream.enc (x : Stream) : Nat := x.f 10 3
/-- Frames of the frame ring. -/
def Stream.frames (x : Stream) : Nat := x.f 16 3 + 1
/-- Number of rungs. -/
def Stream.nrungs (x : Stream) : Nat := x.f 19 3 + 1
/-- On-time run that climbs one rung. -/
def Stream.climbAt (x : Stream) : Nat := if x.f 25 4 = 0 then 3 else x.f 25 4
/-- The record of a rung. -/
def Stream.rungRec (x : Stream) (k : Nat) : Nat := x.f (1024 + 128 * k) 128
/-- Width of a rung. -/
def Stream.width (x : Stream) (k : Nat) : Nat := 16 * bitsAt (x.rungRec k) 16 12
/-- Height of a rung. -/
def Stream.height (x : Stream) (k : Nat) : Nat := 16 * bitsAt (x.rungRec k) 28 12
/-- Release TIME of a frame. -/
def Stream.releaseAt (x : Stream) (f : Nat) : Nat := x.f 128 64 + f * x.f 32 32

/-! ### Evaluation (R453, R454) -/

/-- The rung and the on-time run after an evaluation. -/
def Stream.ladder (x : Stream) (late : Bool) : Nat × Nat :=
  let n := min (x.run + 1) 15
  if late then (min (x.rung + 1) (x.nrungs - 1), 0)
  else if x.climbAt ≤ n && 0 < x.rung then (x.rung - 1, 0)
  else (x.rung, n)

/-- The frame that the latest FRAME began. -/
def Stream.begun (x : Stream) : Nat := x.frame - 1

/-- Evaluate frame `f` of a stream; what sstat tells of the current frame changes only where it is that one. -/
def Stream.judge (x : Stream) (f : Nat) (late : Bool) : Stream :=
  let (r, n) := x.ladder late
  let y := { x with rung := r, run := n, judged := x.judged || decide (f = x.begun) }
  if x.cur = some f then { y with frung := x.rung, late := late, drop := late && r != x.rung, climb := !late && r != x.rung } else y

/-- The record of a rung change, where the evaluation of frame `f` made one (R453, R462). -/
def State.rungRecord (s : State) (n f : Nat) (old new : Stream) : State :=
  if new.rung = old.rung then s
  else s.placeRec srcStreams (recData 9 0 n old.enc false 0 0
    (w64 (new.rung % 8 + 8 * natOf (decide (new.rung < old.rung)) + 2 ^ 32 * (f % 2 ^ 32))))

/-- Evaluate frame `f` of a stream, and place the record of a rung change. -/
def State.judge (s : State) (n f : Nat) (late : Bool) : State :=
  let x := s.stream n
  State.rungRecord (s.modStream n fun x => x.judge f late) n f x (x.judge f late)

/-- The first placement of a frame's head is placed: the frame starts, and is evaluated, one that a later FRAME has evaluated as it had
not started by then included (R452 to R454). -/
def State.frameStarts (s : State) (e : Node) (slack : Int) : State :=
  match e.bound, e.frame with
  | some n, some f =>
    let x := s.stream n
    if !x.active || !e.head || e.placed ≠ 0 then s
    else
      let t := s.judge n f (decide (slack < 0))
      if x.cur = some f then t.modStream n fun x => { x with started := true, slack := BitVec.ofInt 64 slack } else t
  | _, _ => s

/-- Whether an sstat has read a stream in this sclk. -/
def State.seenBy (s : State) (n : Nat) : Bool := s.cores.any fun p => p.2.strands.any fun q => q.2.saw == some (n, s.tick)

/-- Whether the start of a frame must wait for the next sclk: in this one, a FRAME or an sstat of its stream has already been
served, which come after it (R454). -/
def State.startHeld (s : State) (e : Node) : Bool :=
  match e.bound with
  | none => false
  | some n =>
    e.head && e.st == .ready && decide (e.placed = 0) && (!s.mayServe (unitStream n) 0 || s.seenBy n)

/-! ### Nodes of a bound queue (R445, R452) -/

/-- A node that its queue creates, bound to the queue's stream: it belongs to the current frame, is its head if it is the
first, and may take the frame's deadline. -/
def State.bindNode (s : State) (q : Nat) (e : Node) : Node × State :=
  match s.boundStream q with
  | none => (e, s)
  | some n =>
    let x := s.stream n
    let dline := if !e.nodl && e.dline = 0 && x.cur.isSome then x.deadline else e.dline
    ({ e with bound := some n, frame := x.cur, head := !x.headed, dline := dline }, s.modStream n fun x => { x with headed := true })

end Sys2Proof.Machine
end

