-- ==== Sys2Proof/Machine/Packets.lean ====
section
/-!
DEFINITION. The queues' threads and their packets: submission, mapping, fetch-ahead, NOP, NODE, DEC, WAIT, SIGNAL and
FFENCE (R417 to R425, R427, R440, R445).
-/

namespace Sys2Proof.Machine

/-! ### Taking work (R420, R440) -/

/-- Firmware takes the latched index of a queue, and clears pending. -/
def State.takeLatch (s : State) (q : Nat) : State :=
  s.modQ q fun k => { k with taken := w32 k.latched, pending := false }

/-- Whether a thread executes packets of a queue now: firmware runs, and the queue is mapped, enabled and neither stopped
nor blocked. -/
def State.threadRuns (s : State) (q : Nat) : Bool :=
  let k := s.fq q
  s.fe.up && decide (q < 1024) && k.mapped && k.enabled && !k.stopped && !k.blocked

/-! ### Reading packets (R418, R421) -/

/-- Read packet `i` of a queue from memory. -/
def State.packetRead (s : State) (q i : Nat) : Except Nat (BitVec 512) × State :=
  let k := s.fq q
  match s.portRead k.tenant k.ringref (k.at i) 64 with
  | (.error e, t) => (.error e, t)
  | (.ok bs, t) => (.ok (BitVec.ofNat 512 (leNat bs)), t)

/-- The packet `cur` after stores have turned `old` into `new` in memory: each 4-byte element that they changed stays or is the new one;
a free choice, of number `k`. -/
def mixStores (free k : Nat) (cur old new : BitVec 512) : BitVec 512 :=
  BitVec.ofNat 512 (((List.range 16).map fun j =>
    let at_ := fun (p : BitVec 512) => pf p (32 * j) 32
    2 ^ (32 * j) * (if at_ old = at_ new || Config.freeHit free (32 * k + j) then at_ cur else at_ new)).sum)

/-- The packet that executes where a copy was read ahead: of each qpatch since, the whole old or the whole new packet, and of other
stores before, between and behind them each 4-byte element old or new; `old` is what memory held from the copy or the last qpatch
on. -/
def mixPacket (free : Nat) (now : BitVec 512) : Nat → BitVec 512 → BitVec 512 → List (BitVec 512 × BitVec 512) → BitVec 512
  | k, cur, old, [] => mixStores free k cur old now
  | k, cur, old, (before, after) :: l =>
    let c := mixStores free k cur old before
    mixPacket free now (k + 1) (if Config.freeHit free (32 * k + 16) then c else after) after l

/-- Packet `i` of a queue, from its copy or from memory. -/
def State.packetAt (s : State) (q i : Nat) : Except Nat (BitVec 512) × State :=
  match s.packetRead q i, (s.fq q).pre.find? fun p => p.idx == i with
  | (.ok now, t), some p => (.ok (if p.img = now && p.patches.isEmpty then now else mixPacket s.free now 0 p.img p.img p.patches), t)
  | (.ok now, t), none => (.ok now, t)
  | (.error e, t), some p => (if Config.freeHit s.free 17 then .ok p.img else .error e, t)
  | (.error e, t), none => (.error e, t)

/-- The packet at the head of a queue whose thread runs: the one in execution, else the next one, read. `none`: the thread
has nothing to do. -/
def State.headPacket (s : State) (q : Nat) : Option (Except Nat (BitVec 512)) × State :=
  if !s.threadRuns q then (none, s)
  else
    let t := if (s.fq q).empty && (s.fq q).pending then s.takeLatch q else s
    let k := t.fq q
    if k.empty then (none, t)
    else
      match k.run with
      | some p => (some (.ok p), t)
      | none => let (r, u) := t.packetAt q k.consume; (some r, u)

/-- Read the `n` packets from index `i` on that are submitted and not held yet. -/
def State.prefetch (s : State) (q i : Nat) : Nat → State
  | 0 => s
  | n + 1 =>
    let k := s.fq q
    let left := (k.latched + 2 ^ 32 - i) % 2 ^ 32
    let t :=
      if left = 0 || 2 ^ 31 ≤ left || k.pre.any (fun p => p.idx == i) then s
      else match s.packetRead q i with
        | (.ok img, t) => t.modQ q fun k => { k with pre := k.pre ++ [{ idx := i, img := img }] }
        | (.error _, t) => t
    State.prefetch t q ((i + 1) % 2 ^ 32) n

/-- The packet at the head completes: consume advances, and the front end may read up to 64 packets ahead (R420, R421). -/
def State.consumed (s : State) (q : Nat) : State :=
  let t := s.modQ q fun k =>
    let n := (k.consume + 1) % 2 ^ 32
    { k.set 224 32 n with pre := k.pre.filter (fun p => p.idx != k.consume), run := none, framing := 0, since := s.sclk }
  t.prefetch q (t.fq q).consume (min s.arg.k 64)

/-- A step of the packet at the head of queue `arg.n`, where its type is the event's: it fails with queue error 0x09 when
it cannot be read, and else does what `f` says (R418, R425). -/
def State.onPacket (s : State) (ty : BitVec 512 → Bool) (f : State → Nat → BitVec 512 → State) : Res :=
  let q := s.arg.n
  match s.headPacket q with
  | (none, _) => .next s
  | (some (.error _), t) => .next (s.unlessHeld (t.queueError q 0x09 (t.fq q).consume 0))
  | (some (.ok p), t) => if ty p then .next (s.unlessHeld (f t q p)) else .next s

/-- The packet at the head stops its queue. -/
def State.packetError (s : State) (q code node : Nat) : State := s.queueError q code (s.fq q).consume node

/-- The packet at the head stays in execution. -/
def State.holdPacket (s : State) (q : Nat) (p : BitVec 512) : State := s.modQ q fun k => { k with run := some p }

/-- The type of a packet. -/
def pktType (p : BitVec 512) : Nat := pf p 0 8

/-! ### Creating nodes (R423, R427, R442) -/

/-- Whether a NODE packet's reserved fields and values are legal (R423, R425). -/
def nodePktOk (p : BitVec 512) : Bool :=
  decide (pf p 13 3 = 0) && decide (pf p 28 4 = 0) && decide (pf p 48 16 = 0) && decide (pf p 384 128 = 0) &&
    decide (pf p 128 32 % 64 = 0) && decide (pf p 160 32 % 8 = 0) && decide (pf p 192 32 % 64 = 0) &&
    ([0, 1, 2, 3] : List Nat).all fun k => decide (pf p (320 + 16 * k) 16 = 0xFFFF) || decide (pf p (332 + 16 * k) 4 = 0)

/-- Whether a queue may create the node of a packet: its node lies in the function's window, its partition in partmask. -/
def State.nodeAllowed (s : State) (q : Nat) (p : BitVec 512) : Bool :=
  let k := s.fq q
  s.inWindow k.fn (pf p 16 12) && decide (k.f (48 + pf p 8 4) 1 = 1)

/-- Create a node that is free for a queue: what it takes from memory is read, and it waits or is ready; the cause when a
read fails, and nothing has changed but for the walks. -/
def State.createNode (s : State) (q : Nat) (p : BitVec 512) (packet : Option Nat) : Except Nat State × State :=
  let k := s.fq q
  match s.launchData k.tenant p with
  | (.error e, t) => (.error e, t)
  | (.ok (kd, loops, args), t) =>
    let e : Node := { pkt := p, queue := q, tenant := k.tenant, dline := w64 (pf p 256 64), kd := kd, loops := loops, args := args, packet := packet }
    let (e', u) := t.bindNode q e
    (.ok (u.enterNode (pf p 16 12) e'), u)

/-! ### The packets -/

/-- NOP (R418). -/
def execNop (s : State) : Res := s.onPacket (fun p => pktType p == 0) fun s q _ => s.consumed q

/-- NODE (R423, R425). -/
def execNode (s : State) : Res :=
  s.onPacket (fun p => pktType p == 1) fun s q p =>
    let n := pf p 16 12
    if !nodePktOk p then s.packetError q 0x02 n
    else if !s.nodeAllowed q p then s.packetError q 0x04 n
    else if (s.node n).st ≠ .free then s.packetError q 0x03 n
    else if s.emptyHeld p then s
    else
      match s.createNode q p (some (s.fq q).consume) with
      | (.error _, t) => t.packetError q 0x09 n
      | (.ok t, _) => t.consumed q

/-- The nodes that a DEC names, in order. -/
def decNodes (p : BitVec 512) : List Nat := (List.range (pf p 8 4 + 1)).map fun i => pf p (64 + 16 * i) 12

/-- Whether a DEC's reserved fields are 0 (R424). -/
def decPktOk (p : BitVec 512) : Bool :=
  decide (pf p 12 52 = 0) && decide (pf p 320 192 = 0) &&
    (List.range 16).all fun i => if i ≤ pf p 8 4 then decide (pf p (76 + 16 * i) 4 = 0) else decide (pf p (64 + 16 * i) 16 = 0)

/-- DEC: checked as a whole, then every decrement at once, behind those of completions and of qlaunch in its sclk (R424, R425,
R428). -/
def execDec (s : State) : Res :=
  s.onPacket (fun p => pktType p == 2) fun s q p =>
    let ns := decNodes p
    if !decPktOk p then s.packetError q 0x02 0
    else
      match ns.find? fun n => !s.inWindow (s.fq q).fn n with
      | some n => s.packetError q 0x04 n
      | none =>
        match ns.find? fun n => (s.node n).st ≠ .waiting || decide ((s.node n).pred < (ns.filter fun m => m == n).length) with
        | some n => s.packetError q 0x05 n
        | none => if s.emptyReady then s else ((ns.foldl State.decrement s).servedAs unitNodes 2).consumed q

/-- Whether a word satisfies a WAIT (R424). -/
def waitHolds (p : BitVec 512) (word : W64) : Bool :=
  let w := (word &&& w64 (pf p 256 64)).toNat
  let v := pf p 192 64
  match pf p 8 2 with
  | 0 => decide (v ≤ w)
  | 1 => decide (w = v)
  | _ => decide (w < v)

/-- Whether a WAIT's reserved fields and values are legal (R424, R425). -/
def waitPktOk (p : BitVec 512) : Bool :=
  decide (pf p 8 2 ≠ 3) && decide (pf p 10 54 = 0) && decide (pf p 128 64 % 8 = 0) && decide (pf p 320 192 = 0)

/-- The word that a WAIT watches. -/
def State.waitWord (s : State) (q : Nat) (p : BitVec 512) : Except Nat W64 × State :=
  match s.portRead (s.fq q).tenant (w64 (pf p 64 64)) (pf p 128 64) 8 with
  | (.error e, t) => (.error e, t)
  | (.ok bs, t) => (.ok (w64 (leNat bs)), t)

/-- WAIT: the queue goes on when its word satisfies the condition, else it blocks (R424). -/
def execWait (s : State) : Res :=
  s.onPacket (fun p => pktType p == 3) fun s q p =>
    if !waitPktOk p then s.packetError q 0x02 0
    else
      match s.waitWord q p with
      | (.error _, t) => t.packetError q 0x09 0
      | (.ok w, t) =>
        if waitHolds p w then t.consumed q
        else (t.holdPacket q p).modQ q fun k => { k with blocked := true, since := s.sclk }

/-- WAIT_SATISFIED: the word of a blocked WAIT satisfies it: a mapped queue goes on, an unmapped one becomes pending
(R424, R440). -/
def execWaitSatisfied (s : State) : Res :=
  let q := s.arg.n
  let k := s.fq q
  match k.run with
  | none => .next s
  | some p =>
    if !k.blocked || !k.enabled || k.stopped || (k.mapped && !s.fe.up) then .next s
    else
      match s.waitWord q p with
      | (.error _, t) => .next (s.unlessHeld (t.packetError q 0x09 0))
      | (.ok w, t) =>
        if !waitHolds p w then .next s
        else if k.mapped then .next (s.unlessHeld (State.consumed (t.modQ q fun k => { k with blocked := false }) q))
        else if k.pending then .next s
        else .next (s.unlessHeld (t.modQ q fun k => { k with pending := true, pendAt := s.sclk }))

/-- Whether a node that a queue created, before a reset of it too, has not completed (R424). -/
def State.queueBusy (s : State) (q : Nat) : Bool :=
  s.fe.nodes.any fun p => p.2.st != .free && p.2.queue == q && !p.2.remote

/-- SIGNAL (R424). -/
def execSignal (s : State) : Res :=
  s.onPacket (fun p => pktType p == 4) fun s q p =>
    if pf p 10 54 ≠ 0 || pf p 128 64 % 8 ≠ 0 || pf p 256 256 ≠ 0 then s.packetError q 0x02 0
    else if pf p 8 1 = 1 && s.queueBusy q then s.holdPacket q p
    else
      let k := s.fq q
      match s.portWrite k.tenant (w64 (pf p 64 64)) (pf p 128 64) (leBytes 8 (pf p 192 64)) with
      | (.error _, t) => t.packetError q 0x09 0
      | (.ok _, t) => (if pf p 9 1 = 1 then t.interrupt k.fn (k.f 192 11) else t).consumed q

/-- Whether a node is in a state that FFENCE waits on (R422). -/
def Node.live (e : Node) : Bool := e.st == .waiting || e.st == .ready || e.st == .placing || e.st == .running

/-- FFENCE (R422). -/
def execFfence (s : State) : Res :=
  s.onPacket (fun p => pktType p == 5) fun s q p =>
    let n := pf p 16 12
    let w := decide (pf p 8 1 = 1)
    if pf p 9 7 ≠ 0 || pf p 28 484 ≠ 0 then s.packetError q 0x02 n
    else if w && !s.inWindow (s.fq q).fn n then s.packetError q 0x04 n
    else if w && (s.node n).live then s.holdPacket q p
    else (s.modQ q fun k => { k with pre := [] }).consumed q

/-- UNKNOWN_PACKET_TYPE (R418, R425). -/
def execUnknownPacketType (s : State) : Res := s.onPacket (fun p => decide (8 ≤ pktType p)) fun s q _ => s.packetError q 0x01 0

/-! ### Submission and mapping (R419, R440) -/

/-- The queue behind a submission register of a function (R419). -/
def State.queueOfReg (s : State) (fn j : Nat) : Option Nat := ((List.range 1024).filter fun q => (s.fq q).fn == fn)[j]?

/-- SUBMISSION_WRITE: the register `n` of function `m` is written (R419). Here and below, in the recovery state the host reaches nothing of
the queues (R467). -/
def execSubmissionWrite (s : State) : Res :=
  match if s.mg.recovery then none else s.queueOfReg s.arg.m s.arg.n with
  | none => .next s
  | some q =>
    let k := s.fq q
    let P := s.arg.word.toNat % 2 ^ 32
    let gap := (P + 2 ^ 32 - k.latched) % 2 ^ 32
    if gap = 0 || 2 ^ 31 ≤ gap then .next s
    else
      let t := s.modQ q fun k => { k.set 256 32 P with pending := true, pendAt := if k.pending then k.pendAt else s.sclk }
      if k.slots < (P + 2 ^ 32 - k.consume) % 2 ^ 32 then .next (t.queueError q 0x06 k.consume 0) else .next t

/-- The front end reads packets of a queue ahead, up to 64 from the next one on (R421). -/
def State.readAhead (s : State) (q n : Nat) : State :=
  let k := s.fq q
  if s.fe.up && k.enabled && !k.stopped then s.prefetch q k.consume (min n 64) else s

/-- Whether an order of two queues by a time puts the first ahead, the lower number at equal times. -/
def earlier (t : Nat → Nat) (a b : Nat) : Bool := decide (t a < t b) || (decide (t a = t b) && decide (a < b))

/-- Whether a mapped queue has nothing to execute. -/
def Queue.idle (k : Queue) : Bool := k.stopped || !k.enabled || (k.empty && !k.pending)

/-- The mapped queue that gives up its thread: the one empty longest, else the one blocked longest. -/
def State.mapVictim (s : State) : Option Nat :=
  let mapped := (s.fe.queues.filter fun p => p.2.mapped).map Prod.fst
  let by_ := sortBy (earlier fun q => (s.fq q).since)
  (by_ (mapped.filter fun q => (s.fq q).idle) ++ by_ (mapped.filter fun q => (s.fq q).blocked)).head?

/-- The queue that firmware maps next: enabled, unmapped and pending, the first in the order of the pending bits. -/
def State.mapNext (s : State) : Option Nat :=
  (sortBy (earlier fun q => (s.fq q).pendAt) ((s.fe.queues.filter fun p => p.2.enabled && !p.2.mapped && p.2.pending).map Prod.fst)).head?

/-- QUEUE_MAP: firmware maps the next pending queue on a thread, which an idle or blocked queue gives up when all 32 are
taken (R420, R440). With `flag`, the front end reads `k` packets of queue `n` ahead, at a time of its own (R421). -/
def execQueueMap (s : State) : Res :=
  if s.arg.flag then .next (s.unlessHeld (s.readAhead s.arg.n s.arg.k))
  else match s.mapNext with
  | none => .next s
  | some q =>
    let map : State → State := fun s => (s.takeLatch q).modQ q fun k => { k with mapped := true, blocked := false }
    if !s.fe.up then .next s
    else if (s.fe.queues.filter fun p => p.2.mapped).length < 32 then .next (map s)
    else
      match s.mapVictim with
      | none => .next s
      | some v => .next (map (s.modQ v fun k => { k with mapped := false }))

/-! ### Enabling and resetting (R417) -/

/-- QUEUE_ENABLE: enable := 1, unless the queue's tenant may own no queue (R478; log entry 115). -/
def execQueueEnable (s : State) : Res :=
  if 1024 ≤ s.arg.n || s.mg.recovery || !s.tenantValid (s.fq s.arg.n).tenant then .next s else .next (s.modQ s.arg.n fun k => k.set 0 1 1)

/-- What the reset of its queue does to a node: one that has placements out runs on, and is freed by its completion, or, where it ends
in error, by the next reset (R417, R427, R430). -/
def Node.queueReset (e : Node) : Node :=
  match e.st with
  | .waiting | .ready | .error => {}
  | .placing | .running => { e with orphan := true }
  | .free => e

/-- The reset of their queue reaches the nodes of the table that `p` picks out; contributions to collectives of those that it frees go
(R408, R417). -/
def State.resetNodes (s : State) (p : Nat → Node → Bool) : State :=
  let nodes := s.fe.nodes.map fun q => (q.1, if p q.1 q.2 then q.2.queueReset else q.2)
  let freed : Nat → Bool := fun n => s.fe.nodes.any fun q => q.1 == n && p q.1 q.2 && q.2.queueReset.st == .free
  { s with fe := { s.fe with nodes := nodes }, fab := { s.fab with colls := s.fab.colls.filter fun c => !freed c.node } }

/-- Writing enable := 0 resets a queue (R417). -/
def State.resetQueue (s : State) (q : Nat) : State :=
  let t := (s.dropFrame q).modQ q fun k =>
    { (((((k.set 0 1 0).set 1 1 0).set 8 8 0).set 224 32 0).set 256 32 0) with
      pending := false, blocked := false, since := s.sclk, taken := 0, pre := [], run := none, framing := 0 }
  t.resetNodes fun _ e => e.queue == q && !e.remote

/-- QUEUE_RESET; with `flag`, that of a queue of another chip of the window, whose nodes have the entries `nats` here (R417, R431; log
entry 78). -/
def execQueueReset (s : State) : Res :=
  if s.arg.flag then .next (s.resetNodes fun n e => e.remote && s.arg.nats.contains n)
  else if 1024 ≤ s.arg.n || s.mg.recovery then .next s else .next (s.resetQueue s.arg.n)

/-- FUNCTION_LEVEL_RESET: the queues of a virtual function are reset (R475). -/
def execFunctionLevelReset (s : State) : Res :=
  let f := s.arg.n
  if f = 0 || 64 ≤ f || s.mg.recovery then .next s
  else .next (((s.fe.queues.filter fun p => p.2.fn == f).map Prod.fst).foldl State.resetQueue s)

end Sys2Proof.Machine
end

