-- ==== Sys2Proof/Machine/Arbiter.lean ====
section
/-!
DEFINITION. Deadline issue: the check of a ready node, placement, pre-emption decisions, completion records, and nodes that
span chips (R120 to R123, R427 to R438).
-/

namespace Sys2Proof.Machine

/-! ### The end of a node (R428, R430) -/

/-- A node enters error, and its queue stops; the queue of one that was forwarded here is another chip's (R427, R430, R431). -/
def State.nodeError (s : State) (n code : Nat) : State :=
  let e := s.node n
  let t := (s.nodeDone n).modNode n fun e => { e with st := .error }
  if e.remote then t else t.queueError e.queue code (e.packet.getD 0xFFFFFFFF) n

/-- What follows when the records of a node's placements have come in: it completes, or enters error (R427, R428, R430,
R431). -/
def State.nodeProgress (s : State) (n : Nat) : State :=
  let e := s.node n
  if (e.st ≠ .placing && e.st ≠ .running) || e.retired < e.placed then s
  else if e.failed then s.nodeError n 0x08
  else if e.st ≠ .running then s
  else if e.forwards.isEmpty then s.completeNode n
  else s.nodeDone n

/-- A node that has been terminated, although no placement of it is left here to tell: it enters error (R415, R427, R430). -/
def State.failNode (s : State) (n : Nat) : State :=
  let t := s.modNode n fun e => { e with failed := true }
  if (s.node n).st = .ready then t.nodeError n 0x08 else t.nodeProgress n

/-! ### The check of a ready node (R120, R121) -/

/-- A field of the node's descriptor. -/
def Node.d (e : Node) (lo len : Nat) : Nat := bitsAt e.kd.toNat lo len

/-- Reason 0x01: a reserved field of the descriptor is nonzero. -/
def Node.reserved (e : Node) : Bool :=
  ([(47, 1), (52, 12), (308, 12), (404, 12), (437, 11)] : List (Nat × Nat)).any fun f => decide (e.d f.1 f.2 ≠ 0)

/-- Reason 0x03: an offset breaks its alignment. -/
def Node.misaligned (e : Node) : Bool :=
  ([(0, 32, 64), (128, 32, 64), (160, 32, 64), (288, 20, 64), (192, 32, 16), (224, 32, 128), (256, 32, 128)] : List (Nat × Nat × Nat)).any
      (fun f => decide (e.d f.1 f.2.1 % f.2.2 ≠ 0)) ||
    (decide (e.d 480 16 ≠ 0) && decide (e.d 448 32 % 64 ≠ 0))

/-- The loop-table rule; the reserved bits of an entry are ignored (R5, R122). -/
def Node.loopsOk (e : Node) (winSize : Nat) : Bool :=
  let es := e.loops.map BitVec.toNat
  let here := es.filter fun x => decide (bitsAt x 0 32 ≠ 0)
  let kinds := fun (k : Nat) => here.filter fun x => decide (bitsAt x 32 2 = k)
  (es.all fun x => decide (bitsAt x 32 2 ≠ 3) && (decide (bitsAt x 0 32 ≠ 0) || decide (bitsAt x 32 2 = 0))) &&
    decide ((kinds 0).length ≤ 4) && decide ((kinds 2).length ≤ 1) && ((kinds 2).all fun x => decide (bitsAt x 0 32 ≤ winSize)) &&
    decide (((kinds 1).map fun x => bitsAt x 0 32).prod ≤ 2 ^ 32 - 1)

/-- A read through codeten by the front end: the bytes, or the translation cause (R121). -/
def State.codeRead (s : State) (e : Node) (off n : Nat) : Except Nat (List Byte) × State :=
  match s.portRead e.tenant (w64 (e.d 64 64)) off n with
  | (.error k, t) => (.error (if k = 0x23 then 0x26 else k), t)
  | r => r

/-- The first cause that reads through codeten meet, in the order of the list (R120; log entry 100). -/
def State.codeReads (s : State) (e : Node) : List (Nat × Nat) → Option Nat × State
  | [] => (none, s)
  | (off, n) :: rest =>
    match s.codeRead e off n with
    | (.error k, t) => (some k, t)
    | (.ok _, t) => State.codeReads t e rest

/-- Whether a valid entry of a ring table breaks R211. -/
def ringTableBad (bs : List Byte) : Bool :=
  (List.range 16).any fun i =>
    let x := leNat ((bs.drop (16 * i)).take 16)
    decide (bitsAt x 96 1 = 1) &&
      (decide (bitsAt x 20 44 ≠ 0) || decide (bitsAt x 70 2 ≠ 0) || decide (bitsAt x 97 31 ≠ 0) ||
        decide (0x100000 < bitsAt x 0 20 + (bitsAt x 64 6 + 1) * bitsAt x 72 24))

/-- Why a node is refused: the value of its record, the lowest reason first (R120). -/
def State.nodeCheck (s : State) (e : Node) : Option Nat × State :=
  if e.reserved then (some 1, s)
  else if e.d 48 2 = 3 then (some 2, s)
  else if e.misaligned then (some 3, s)
  else if 0x100000 < e.d 288 20 + 2048 + 9216 * 4 * (e.d 50 2 + 1) then (some 4, s)
  else if e.d 480 16 ≠ 0 && 0x100000 < 64 * e.d 496 16 + 64 * e.d 480 16 then (some 5, s)
  else if !e.loopsOk s.winSize then (some 6, s)
  else
    let pre := if e.d 480 16 = 0 then [] else [(e.d 448 32, 64 * e.d 480 16)]
    let (ring, t0) := s.codeRead e (e.d 192 32) 256
    let bad := match ring with
      | .ok bs => ringTableBad bs
      | .error _ => false
    if bad then (some 7, t0)
    else
      match s.codeReads e ([(e.d 128 32, 1024), (e.d 160 32, 256), (e.d 192 32, 256), (e.d 224 32, 8192)] ++ pre ++ [(e.d 0 32, 64 * (e.d 32 15 + 1))]) with
      | (some k, t) => (some (8 + 256 * k), t)
      | (none, t) => (none, t)

/-- The other ranks that a node's entry is forwarded to (R431). -/
def State.forwardsOf (s : State) (e : Node) : List Nat :=
  if e.remote then []
  else match e.shape.chips with
    | none => []
    | some n => (List.range n).filter fun k => k != s.rank

/-- NODE_READY_CHECK: a node that is ready is checked; an empty one completes, a refused one enters error with its record,
and another takes part in arbitration (R120, R423, R427, R430, R431). -/
def execNodeReadyCheck (s : State) : Res :=
  let n := s.arg.n
  let e := s.node n
  if e.st ≠ .ready || e.checked then .next s
  else if e.kref = 0 then .next (s.completeNode n)
  else
    match s.nodeCheck e with
    | (some v, t) => .next (s.unlessHeld ((t.placeRec srcFront (recData 5 0 n 0 false 0 0 (w64 v))).nodeError n 0x07))
    | (none, t) =>
      let total := t.placementsOf e
      .next (s.unlessHeld (t.modNode n fun e => { e with
        checked := true, total := total, forwards := t.forwardsOf e, st := if total = 0 then .running else .ready }))

/-! ### Placement (R434, R435) -/

/-- Place the lowest unplaced placement of a node on a core. -/
def State.place1 (s : State) (n c : Nat) : State :=
  let e := s.node n
  let sl := s.slack e
  let late := if e.placed = 0 then decide (sl < 0) else e.late
  let since := if e.placed = 0 then s.free else e.since
  let p : Placement :=
    { node := n, queue := e.queue, tenant := e.tenant, part := e.part, lin := e.placed, total := e.shape.count, kref := e.kref
      kdoff := e.f 128 32, kd := e.kd, loops := e.loops, args := e.args, dline := w64 (s.deadline e), late := late, since := since }
  let t := (s.modCore c fun k => { k with place := some p }).modNode n fun e => { e with
    st := if e.placed + 1 = s.placementsOf e then .running else .placing, placed := e.placed + 1, late := late, since := since }
  if e.placed = 0 then t.frameStarts e sl else t

/-- End the holds of partitions that have no ready unplaced placement (R437). -/
def State.dropHolds (s : State) : State :=
  { s with fe := { s.fe with held := s.fe.held.filter fun h => s.keyOrder.any fun n => (s.node n).part == h.2 } }

/-- What the arbiter places on a free core: the first node in key order whose partition has the core, unless the group is
held for another partition, is being pre-empted, or is due to a saved group of no greater key (R435, R437, R438). A head whose frame
cannot start in this sclk is passed over in it (R454). -/
def State.choice (s : State) (c : Nat) : Option Nat :=
  let g := groupOf c
  if s.fe.preempts.any (fun p => p.group == g) || s.saved.any (fun sv => s.canResume sv g) then none
  else s.keyOrder.find? fun n => s.partHas (s.node n).part g && !s.heldFrom (s.node n).part g && !s.startHeld (s.node n)

/-- Placements made in the present sclk. -/
def State.placedNow (s : State) : Nat := if s.fe.clk = s.sclk then s.fe.placed else 0

/-- The free cores, in ascending order; of no interest where no node has a placement to place. -/
def State.freeCores (s : State) : List Nat := if s.keyOrder.isEmpty then [] else (List.range 1024).filter fun c => s.coreFree c

/-- The decision for one free core: its placement, where one is left to make in this sclk (R435). -/
def placeNext (acc : State × Nat) (c : Nat) : State × Nat :=
  if 8 ≤ acc.2 then acc
  else match acc.1.choice c with
    | none => acc
    | some n => (acc.1.place1 n c, acc.2 + 1)

/-- Whether the decision of this sclk is still to be made (R435). -/
def State.placeDue (s : State) : Bool :=
  let t := s.dropHolds
  s.mg.dataUp && decide (s.placedNow < 8) && s.freeCores.any fun c => (t.choice c).isSome

/-- Whether some free core waits for the decision of the next sclk (R435, R454). -/
def State.placeLater (s : State) : Bool :=
  s.mg.dataUp && decide (8 ≤ s.placedNow ∨ (s.fe.nodes.any fun p => s.startHeld p.2) = true) && !s.freeCores.isEmpty

/-- ARBITER_PLACE: the decision of one sclk: at most 8 placements, on the free cores in ascending order (R432, R435). -/
def execArbiterPlace (s : State) : Res :=
  if !s.mg.dataUp then .next s
  else
    let (t, n) := s.freeCores.foldl placeNext (s.dropHolds, s.placedNow)
    .next (State.dropHolds { t with fe := { t.fe with clk := s.sclk, placed := n } })

/-! ### Pre-emption decisions (R437) -/

/-- Priority of a partition. -/
def State.prio (s : State) (p : Nat) : Nat := s.partF p 64 3

/-- Whether a group is a candidate victim for a partition: every core is free, or runs a placement of a lower priority that
may be pre-empted. -/
def State.victimOk (s : State) (p g : Nat) : Bool :=
  s.partHas p g && !(s.fe.preempts.any fun q => q.group == g) &&
    (List.range 16).all fun i =>
      let c := 16 * g + i
      match (s.core c).place with
      | none => s.coreFree c
      | some q => decide (s.prio q.part < s.prio p) && decide (s.partF q.part 68 1 = 0)

/-- The highest running priority in a group, plus one; 0 where no core runs. -/
def State.topPrio (s : State) (g : Nat) : Nat :=
  (List.range 16).foldl (fun m i => match (s.core (16 * g + i)).place with
    | none => m
    | some q => max m (s.prio q.part + 1)) 0

/-- The victim: the lowest of the highest running priorities, then the highest group number. -/
def State.victim (s : State) (p : Nat) : Option Nat :=
  let gs := (List.range 64).filter fun g => s.victimOk p g
  (sortBy (fun a b => decide (s.topPrio a < s.topPrio b) || (decide (s.topPrio a = s.topPrio b) && decide (b < a))) gs).head?

/-- PREEMPTION_DECISION: the arbiter requests the pre-emption of a group for partition `arg.n` (R437). -/
def execPreemptionDecision (s : State) : Res :=
  let p := s.arg.n
  let first := s.keyOrder.find? fun n => (s.node n).part == p
  let free := (List.range 1024).any fun c => s.partHas p (groupOf c) && s.coreFree c
  let slot := (List.range (s.partF p 192 16)).find? fun k => s.slotFree p k
  match first, slot, s.victim p with
  | some n, some k, some g =>
    if !s.mg.dataUp || 16 ≤ p || s.partF p 67 1 = 0 || sval 32 (s.partF p 96 32) ≤ s.slack (s.node n) || free ||
        s.fe.preempts.any (fun q => q.part == p) then .next s
    else
      .next { s with fe := { s.fe with preempts := s.fe.preempts ++ [{ part := p, group := g, slot := k }], held := Map.put s.fe.held g p } }
  | _, _, _ => .next s

/-! ### Completion records (R25, R428, R429) -/

/-- The front end processes a record; the first record of a terminated placement is its retirement, and those behind it change nothing:
the node may be gone by then (R232, R427). -/
def State.takeRecord (s : State) (r : CompRec) : State :=
  let d := r.data.toNat
  let n := bitsAt d 12 12
  match bitsAt d 0 4 with
  | 1 => (s.modNode n fun e => { e with retired := e.retired + 1 }).nodeProgress n
  | 2 => if r.first then (s.modNode n fun e => { e with failed := true, retired := e.retired + 1 }).nodeProgress n else s
  | _ => s

/-- COMPLETION_RECORD: firmware takes the record at this place of the completion path; records of one source come in
order, and in one sclk they come ahead of qlaunch and DEC (R19, R25, R428). -/
def execCompletionRecord (s : State) : Res :=
  match s.fe.recs[s.arg.n]? with
  | none => .next s
  | some r =>
    if !s.fe.up || !s.mayServe unitNodes 0 || (s.fe.recs.take s.arg.n).any (fun q => q.src == r.src) then .next s
    else .next (State.takeRecord { (s.servedAs unitNodes 0) with fe := { s.fe with recs := s.fe.recs.eraseIdx s.arg.n } } r)

/-! ### Nodes that span chips (R431) -/

/-- NODE_FORWARD: the entry of a node of queue `k` on another chip arrives, at index `n` for tenant `m`: the packet, the
descriptor, the loop table, the arguments and the ageing budget; it is entered ready where the index is free. With `flag`,
rank `k` refuses the entry of node `n` of this chip (R431). -/
def execNodeForward (s : State) : Res :=
  let a := s.arg
  let n := a.n % 4096
  if a.flag then
    let e := s.node n
    if e.checked && !e.remote && e.forwards.contains a.k then .next (s.queueError e.queue 0x03 (e.packet.getD 0xFFFFFFFF) n) else .next s
  else if (s.node n).st ≠ .free || !s.fe.up || s.emptyHeld (BitVec.ofNat 512 a.block.toNat) then .next s
  else
    let b := a.block.toNat
    let pkt := BitVec.ofNat 512 b
    let e : Node :=
      { pkt := pkt, queue := a.k % 1024, tenant := a.m % 1024, dline := if pf pkt 12 1 = 1 then w64 (bitsAt b 1920 32) else w64 (bitsAt b 1952 64)
        kd := BitVec.ofNat 512 (bitsAt b 512 512), loops := (List.range 6).map fun i => w64 (bitsAt b (1024 + 64 * i) 64)
        args := (List.range 8).map fun i => w64 (bitsAt b (1408 + 64 * i) 64), remote := true }
    .next ((s.modNode n fun _ => e).makeReady n)

/-- FORWARDED_ENTRY_COMPLETE: rank `k` reports that its entry of node `n` is complete; the completion that may follow comes ahead of what
qlaunch and DEC do in the sclk (R428, R431). -/
def execForwardedEntryComplete (s : State) : Res :=
  let e := s.node s.arg.n
  if !e.forwards.contains s.arg.k || !s.mayServe unitNodes 0 then .next s
  else .next (((s.servedAs unitNodes 0).modNode s.arg.n fun e => { e with forwards := e.forwards.filter fun k => k != s.arg.k }).nodeProgress s.arg.n)

/-! ### Termination (R222, R230, R232, R415) -/

/-- NODE_TERMINATION: with `flag`, a request of system software for node `arg.n`, 0xA5; else a strand whose cause ends its node, once
its queues have settled, or a termination under way on its core, once nothing that has begun is left (R222, R230, R232). -/
def execNodeTermination (s : State) : Res :=
  let c := s.arg.core
  let n := s.arg.n
  if s.arg.flag then
    let t := s.terminate n 0xA5 0 none
    .next (if (s.node n).st = .placing || (s.node n).st = .running then t.failNode n else t)
  else if s.ending.any fun e => some e.node == (s.core c).place.map fun p => p.node then .next (s.endingTurn c)
  else .next (s.causeTurn c s.arg.strand)

/-- REMOTE_TERMINATION: node `arg.n`, which has a chips level, has been terminated with cause `arg.k` on another rank of the window
(R415). -/
def execRemoteTermination (s : State) : Res :=
  let n := s.arg.n
  let e := s.node n
  if !s.fab.formed || e.shape.chips.isNone || !(e.st = .ready || e.st = .placing || e.st = .running) then .next s
  else .next ((s.terminate n s.arg.k 0 none).failNode n)

end Sys2Proof.Machine
end

