-- ==== Sys2Proof/Machine/Fabric.lean ====
section
/-!
DEFINITION. The fabric router: windows, links and flow, remote memory at home, famo, fsig and collectives
(R393 to R416, R479).
-/

namespace Sys2Proof.Machine

/-! ### fwin (R394, R401) -/

/-- n_c of a placement's node: the extent of its chips level, or 1 (R394). -/
def Placement.nc (p : Placement) : Nat := p.chips.getD 1

/-- The ranks that this chip reaches on every virtual channel, itself among them. -/
def State.reachable (s : State) : Nat :=
  ((List.range s.winSize).map fun k => if s.unreach.contains k then 0 else 2 ^ k).sum

/-- The item of fwin (R401). -/
def State.fwinItem (s : State) (n : Nat) : Option Nat :=
  match n with
  | 0 => some s.rank
  | 1 => some s.winSize
  | 2 => some (s.fab.winId.toNat + 2 ^ 16 * s.fab.epoch.toNat)
  | 3 => some s.reachable
  | 4 => some s.me.colls
  | 5 => some s.myPlace.nc
  | _ => none

/-- fwin (R401). -/
def execFwin (d : XReg) (b : SrcB) (s : State) : Res :=
  match s.fwinItem (s.qb 0 b).toNat with
  | none => .next (s.raiseHead 0x80 0)
  | some v => .next ((s.wx d (w64 v)).finish)

/-! ### famo (R402, R403) -/

/-- The new value of an n-bit atomic (R402). -/
def famoOp (op n old v : Nat) : Nat :=
  match op with
  | 0 => (old + v) % 2 ^ n
  | 1 => if sval n v < sval n old then v else old
  | 2 => if sval n old < sval n v then v else old
  | 3 => min old v
  | 4 => max old v
  | 5 => old &&& v
  | 6 => old ||| v
  | 7 => old ^^^ v
  | 8 => (fmaxDev (w32 old) (w32 v)).toNat
  | _ => (fminDev (w32 old) (w32 v)).toNat

/-- The form of a place that a request carries. -/
def Loc.req : Loc → Nat × Nat
  | .dev a => (0, a)
  | .host a => (0, a)
  | .peer c a => (c + 1, a)
  | .sp _ a => (0, a)

/-- Whether the home side can admit a request of a rank: only while it holds response space for it (R397). -/
def State.admits (s : State) (rank : Nat) : Bool := decide (Map.get 0 s.fab.resps rank ≤ Config.respSpace)

/-- The response to a request of a rank leaves on virtual channel 1, or waits in the response space while that is stopped
(R397). -/
def State.respond (s : State) (rank : Nat) : State :=
  if s.vcStopped rank 1 then { s with fab := { s.fab with resps := Map.put s.fab.resps rank (Map.get 0 s.fab.resps rank + 1) } } else s

/-- A request of this chip ends. One of a placement that is gone has its own record; a cause is reported to the strand of any other
(R29, R405, R416). -/
def State.reqEnds (s : State) (r : FabReq) (fault : Option (Nat × W64)) : State :=
  if r.dead then s.detachedRec srcRouter r.node r.core r.late
  else match fault with
    | some (k, v) => s.reportTo r.core r.strand r.node k r.bundle v r.seq
    | none => s

/-- Whether a place is in host memory. -/
def Loc.isHost : Loc → Bool
  | .host _ => true
  | _ => false

/-- famo at the head of EA: its checks, then the request goes out and leaves EA (R403). -/
def execFamo (op : BitVec 4) (wide : Bool) (_a : XReg) (b : SrcB) (s : State) : Res :=
  let e := s.cur.entry
  let n := if wide then 8 else 4
  let P := s.cap 0
  let p := s.myPlace
  match s.flatAt s.cur.core p.tenant P e.tref 0 n n true false with
  | (.error k, t) => .next (t.raiseHead k P)
  | (.ok ls, t) =>
    if ls.any Loc.isHost then .next (t.raiseHead 0x82 0)
    else
      let kind := match s.touchFlat s.cur.core p.tenant P e.tref 0 n with
        | x :: _ => x.kind
        | [] => 0
      let r : FabReq :=
        { core := s.cur.core, strand := s.cur.strand, node := p.node, tenant := p.tenant, op := op.toNat, width := n, kind := kind
          places := ls.map Loc.req, ptr := P, tref := e.tref, late := p.late, amount := w64 ((s.qb 1 b).toNat % 2 ^ (8 * n)), bundle := e.bundle, seq := e.seq }
      .next ({ t with fab := { t.fab with reqs := t.fab.reqs ++ [r] } }.finish)

/-- Whether two requests may be combined: same tenant, operation, width and bytes (R403). -/
def FabReq.combines (a b : FabReq) : Bool :=
  !a.isSig && !b.isSig && a.tenant == b.tenant && a.op == b.op && a.width == b.width && a.places == b.places

/-- Whether an earlier request of the same strand to the same bytes, outside the picked ones, is still to be applied: those of one
queue to one byte keep their order, whatever the kind of the page (R101, R403). -/
def State.famoBehind (s : State) (n : Nat) (picked : List Nat) (r : FabReq) : Bool :=
  (s.fab.reqs.zipIdx.take n).any fun p => !picked.contains p.2 && !p.1.isSig && p.1.core == r.core && p.1.strand == r.strand &&
    p.1.places.any fun x => r.places.contains x

/-- The home applies one operand to its bytes, in one access (R97, R403). -/
def State.famoHome (s : State) (ls : List Loc) (op width v : Nat) : State :=
  let t := (s.touch ls).engineServed ls
  t.locWrites (ls.zip (leBytes width (famoOp op (8 * width) (leNat (ls.map t.locGet)) v)))

/-- Whether the home finds the bytes of a famo poisoned: it writes none of them then, and the event is recorded (R471; log entry 116). -/
def State.famoSpoilt (s : State) (ls : List Loc) : Bool := ls.any (s.verify ls).locPoisoned

/-- FAMO_APPLY: a request of this chip, with those the fabric has combined it with, is applied at its home in one access;
one that fails there is reported. Or a request of the peer chip of rank `pos` is admitted and applied here, unless its tenant has
no key (R397 to R399, R403). -/
def execFamoApply (s : State) : Res :=
  if s.arg.flag then
    let a := s.arg.word.toNat
    let w := s.arg.n
    let ls := (List.range w).map fun i => Loc.dev (a + i)
    if (w ≠ 4 && w ≠ 8) || a % w ≠ 0 || gddrSize < a + w || 9 < s.arg.k || !s.admits s.arg.pos then .next s
    else if mgmtBase < a + w || !Map.has s.keys s.arg.m then .next (s.respond s.arg.pos)
    else if s.famoSpoilt ls then .next (((s.verify ls).bbEvent 4 0xA6 s.arg.m 0 0).respond s.arg.pos)
    else .next ((s.famoHome ls s.arg.k w (leNat (s.arg.bytes.take w))).respond s.arg.pos)
  else
    match s.fab.reqs[s.arg.n]? with
    | none => .next s
    | some r =>
      let picked := s.arg.n :: s.arg.nats.filter fun i => match s.fab.reqs[i]? with
        | some q => i != s.arg.n && r.combines q
        | none => false
      let all := (s.fab.reqs.zipIdx.filter fun p => picked.contains p.2).map Prod.fst
      let ls := r.places.map reqLoc
      let t := { s with fab := { s.fab with reqs := (s.fab.reqs.zipIdx.filter fun p => !picked.contains p.2).map Prod.fst } }
      if r.isSig || all.any (fun q => s.famoBehind s.arg.n picked q) || s.flowHeld r.touch then .next s
      else
        match ls.findSome? fun l => s.peerFault r.tenant l with
        | some kv => .next (all.foldl (fun s q => s.reqEnds q (some kv)) t)
        | none =>
          if s.famoSpoilt ls then .next (all.foldl (fun s q => s.reqEnds q (some (0xA6, 0))) ((t.verify ls).bbEvent 4 0xA6 r.tenant r.core 0))
          else
          let v := match all.map fun q => q.amount.toNat with
            | x :: xs => xs.foldl (famoOp r.op (8 * r.width)) x
            | [] => 0
          let u := (t.flatStored (tcOf r.core) r.tenant r.tref (ptrCoord r.ptr : Int) r.width).famoHome ls r.op r.width v
          .next (all.foldl (fun s q => s.reqEnds q none) u)

/-! ### fsig (R404 to R406) -/

/-- Whether a fabric target word and its B are valid for a node of `nc` participants (R404). -/
def sigOk (w b nc : Nat) : Bool :=
  decide (bitsAt w 7 1 = 0) && decide (bitsAt w 22 2 = 0) && decide (bitsAt w 56 8 = 0) &&
    (if bitsAt w 6 1 = 0 then decide (b < 2 ^ 16) else decide (b = 0)) && decide (bitsAt w 16 6 < nc)

/-- The target word of a signal, with this chip's rank in it for a node without a chips level, whose one participant this chip is
(R394; log entry 16). -/
def State.sigTarget (s : State) (p : Placement) (w : W64) : W64 :=
  if p.chips.isSome then w else w64 (w.toNat - bitsAt w.toNat 16 6 * 2 ^ 16 + s.rank % 64 * 2 ^ 16)

/-- fsig (R404). -/
def execFsig (_a : XReg) (b : SrcB) (s : State) : Res :=
  let w := s.cap 0
  let B := s.qb 1 b
  let p := s.myPlace
  if !sigOk w.toNat B.toNat p.nc then .next (s.raiseHead 0x80 0)
  else
    let r : FabReq :=
      { isSig := true, core := s.cur.core, strand := s.cur.strand, node := p.node, tenant := p.tenant, target := s.sigTarget p w, amount := B, late := p.late
        bundle := s.cur.entry.bundle, seq := s.cur.entry.seq }
    .next ({ s with fab := { s.fab with reqs := s.fab.reqs ++ [r] } }.finish)

/-- The core whose placement of a node has a linear index (R405). -/
def State.coreOfPlace (s : State) (node lin : Nat) : Option Nat :=
  (s.coresOf node).find? fun c => s.holdsNode c node && (s.placement c).lin == lin

/-- The saved placement of a node with a linear index: its partition, slot and position (R414). -/
def State.savedPlace (s : State) (node lin : Nat) : Option (Nat × Nat × SavedCore) :=
  s.saved.findSome? fun g => (g.cores.find? fun c => c.node == node && c.place.lin == lin).map fun c => (g.part, g.slot, c)

/-- Add an increment to the sums of a saved placement, in the control block of its save area, modulo 2^16 (R239,
R414). -/
def State.sumSaved (s : State) (part slot pos h ctr : Nat) (amt : W64) : State :=
  match s.areaOf part slot pos true with
  | (.error _, t) => t
  | (.ok pages, t) =>
    let off := 0x210540 + 32 * h + 2 * ctr
    let at_ : Nat → Loc := fun i => .dev (pages.getD ((off + i) / 4096) 0 + (off + i) % 4096)
    ((t.areaStored part slot pos).engineServed ((List.range 2).map at_)).locWrites
      (((List.range 2).map at_).zip (leBytes 2 (t.areaNat pages off 2 + amt.toNat)))

/-- A signal arrives at this chip for a node (R405): the state, and the cause of its refusal. -/
def State.signal (s : State) (node : Nat) (w amt : W64) : Option Nat × State :=
  let t := w.toNat
  let h := bitsAt t 4 2
  let lin := bitsAt t 24 32
  if bitsAt t 6 1 = 1 then
    match s.remoteArrival (bitsAt t 8 8) node with
    | (true, u) => (none, u)
    | (false, u) => (some 0x85, u)
  else
    match s.coreOfPlace node lin with
    | some c =>
      if (s.placement c).nstrands ≤ h then (some 0x84, s)
      else (none, s.modStrand c h fun st => let st' := st.bump (bitsAt t 0 4) (amt.truncate 16); if amt.toNat % 65536 = 0 then st' else st'.wake s.cyc (bitsAt t 0 4))
    | none =>
      match s.savedPlace node lin with
      | some (p, k, sc) => if sc.place.nstrands ≤ h then (some 0x84, s) else (none, s.sumSaved p k sc.pos h (bitsAt t 0 4) amt)
      | none => (some 0x84, s)

/-- A refused signal: 0x84 is reported to its strand, 0x85 in a record alone (R405, R416). -/
def State.signalRefused (s : State) (r : FabReq) (k : Nat) : State :=
  if k = 0x84 then s.reqEnds r (some (k, 0))
  else (s.placeRec srcRouter (recData 6 k r.node r.core r.late 0 0 0)).reqEnds r none

/-- FSIG_APPLY: a signal reaches its target chip, those of one strand to one chip in issue order. At this chip it is
applied; a peer answers that a kind 0 signal is refused with `flag`, while a refused arrival has its record at the target chip; `k` = 1 is
a signal of the peer of rank `pos` for node `m`, once it is admitted (R395, R397, R405, R406). -/
def execFsigApply (s : State) : Res :=
  if s.arg.k = 1 then
    if !s.admits s.arg.pos || (bitsAt s.arg.word.toNat 6 1 = 1 && s.remoteHeld) then .next s
    else match s.signal s.arg.m s.arg.word (w64 s.arg.n) with
      | (none, t) => .next (t.respond s.arg.pos)
      | (some 0x85, t) => .next ((t.placeRec srcRouter (recData 6 0x85 s.arg.m 0 false 0 0 0)).respond s.arg.pos)
      | (some _, t) => .next (t.respond s.arg.pos)
  else
    match s.fab.reqs[s.arg.n]? with
    | none => .next s
    | some r =>
      let rank := bitsAt r.target.toNat 16 6
      let before := (s.fab.reqs.take s.arg.n).any fun q => q.isSig && q.core == r.core && q.strand == r.strand && bitsAt q.target.toNat 16 6 == rank
      let t := { s with fab := { s.fab with reqs := s.fab.reqs.eraseIdx s.arg.n } }
      let held := decide (rank = s.rank ∧ bitsAt r.target.toNat 6 1 = 1) && s.remoteHeld
      if !r.isSig || before || s.vcStopped rank 0 || held then .next s
      else if rank = s.rank then
        match t.signal r.node r.target r.amount with
        | (none, u) => .next (u.reqEnds r none)
        | (some k, u) => .next (u.signalRefused r k)
      else if s.unreach.contains rank then .next (t.reqEnds r (some (0x86, 0)))
      else if s.arg.flag && bitsAt r.target.toNat 6 1 = 0 then .next (t.signalRefused r 0x84)
      else .next (t.reqEnds r none)

/-! ### Collectives: descriptors and contributions (R407, R408, R410) -/

/-- Bytes of an element of a collective. -/
def cEsize (d : BitVec 512) : Nat := if pf d 0 2 = 0 && pf d 2 2 = 2 then 8 else 4

/-- Rows and row width of an accord. -/
def cRows (d : BitVec 512) : Nat := pf d 8 6 + 1
/-- Elements of a row of an accord. -/
def cHd (d : BitVec 512) : Nat := pf d 16 8 + 1

/-- The ranges of scratchpad that a collective touches: address, bytes, alignment. -/
def cRanges (d : BitVec 512) (nc : Nat) : List (Nat × Nat × Nat) :=
  let stat := (pf d 224 20, 32, 8)
  if pf d 0 2 = 3 then
    let r := cRows d - 1
    [(pf d 64 20, r * pf d 192 16 + 4 * cHd d, 4), (pf d 96 20, r * pf d 208 16 + 4 * cHd d, 4), (pf d 128 20, 8 * r + 8, 4), stat] ++
      (if pf d 4 1 = 0 then [(pf d 160 20, 8 * r + 8, 4)] else [])
  else
    let n := pf d 32 32 * cEsize d
    [(pf d 64 20, n, cEsize d), (pf d 96 20, if pf d 0 2 = 2 then n * nc else n, cEsize d), stat]

/-- Whether a collective's descriptor is legal (R407). -/
def collOk (d : BitVec 512) (nc : Nat) : Bool :=
  let f := pf d
  let resv : List (Nat × Nat) := [(5, 3), (14, 2), (24, 8), (84, 12), (116, 12), (148, 12), (180, 12), (244, 268)]
  let accord := decide (f 0 2 = 3)
  (resv.all fun r => f r.1 r.2 = 0) && decide (f 2 2 ≤ (if f 0 2 ≤ 1 then 2 else 0)) &&
    (if accord then decide (f 32 32 = 0) && (f 4 1 = 0 || decide (f 160 20 = 0))
     else decide (f 4 1 = 0) && decide (f 8 6 = 0) && decide (f 16 8 = 0) && decide (1 ≤ f 32 32) && decide (f 32 32 ≤ 65536) && decide (f 160 20 = 0)) &&
    decide (f 192 16 % 4 = 0) && decide (f 208 16 % 4 = 0) &&
    (cRanges d nc).all fun r => decide (r.1 % r.2.2 = 0) && decide (r.1 + r.2.1 ≤ spSize)

/-- The bytes that a rank contributes: the source elements, or per row its pair and its v (R410). -/
def State.contribution (s : State) (c : Nat) (d : BitVec 512) : List Byte :=
  if pf d 0 2 = 3 then
    (List.range (cRows d)).flatMap fun r =>
      s.spRead c (pf d 128 20 + 8 * r) 8 ++ s.spRead c (pf d 64 20 + r * pf d 192 16) (4 * cHd d)
  else s.spRead c (pf d 64 20) (pf d 32 32 * cEsize d)

/-- Whether a collective has this key (R408). -/
def Coll.is (q : Coll) (node place strand k : Nat) : Bool := q.node == node && q.place == place && q.strand == strand && q.k == k

/-- Add a rank's contribution to a collective, which begins with the first (R408). -/
def State.contribute (s : State) (node place strand k rank : Nat) (d : BitVec 512) (bs : List Byte) (own : Option (Nat × Nat)) : State :=
  let put : Coll → Coll := fun q =>
    let q1 := if Map.has q.contribs rank then q else { q with contribs := Map.put q.contribs rank (d, bs) }
    match own with
    | some (c, h) => { q1 with here := true, core := c, hw := h }
    | none => q1
  if s.fab.colls.any fun q => q.is node place strand k then
    { s with fab := { s.fab with colls := s.fab.colls.map fun q => if q.is node place strand k then put q else q } }
  else { s with fab := { s.fab with colls := s.fab.colls ++ [put { node := node, place := place, strand := strand, k := k }] } }

/-- The participant number of this chip in a node: its rank, or 0 where the node has no chips level (R394). -/
def State.participant (s : State) (p : Placement) : Nat := if p.chips.isSome then s.rank else 0

/-- The ranks of the other participants of a placement's node (R394). -/
def State.others (s : State) (p : Placement) : List Nat := (List.range p.nc).filter fun k => p.chips.isSome && k != s.rank

/-- Give a cause to a collective, unless it has one, or its destination is being written. -/
def Coll.fail (q : Coll) (cause : Nat) : Coll := if q.cause = 0 && q.half.isEmpty then { q with cause := cause } else q

/-- Change the collective of a key. -/
def State.modColl (s : State) (node place strand k : Nat) (f : Coll → Coll) : State :=
  { s with fab := { s.fab with colls := s.fab.colls.map fun q => if q.is node place strand k then f q else q } }

/-- coll at the head of EA: once the earlier accesses of its strand are performed, and no link on which it sends is stopped, it
reads its descriptor and its source, sends its contribution, and stays until the collective completes. Its number is the number
of those of its strand that have left EA (R397, R401, R407, R408). A participant that this chip cannot reach ends it with 0x86
(R413). -/
def execColl (_d _a : XReg) (s : State) : Res :=
  let e := s.cur.entry
  let c := s.cur.core
  let A := s.cap 0
  let p := s.myPlace
  if e.wait.isSome || !s.performed c s.cur.strand (fun x => x.before e) then .next s
  else if A.toNat % 64 ≠ 0 || 0xFFFC0 < A.toNat then .next (s.raiseHead 0x81 0)
  else
    let d := BitVec.ofNat 512 (leNat (s.spRead c A.toNat 64))
    if !collOk d p.nc then .next (s.raiseHead 0x81 0)
    else if (s.others p).any fun k => s.vcStopped k 2 then .next s
    else
      let k := s.me.colls
      let t := s.contribute p.node p.lin s.cur.strand k (s.participant p) d (s.contribution c d) (some (c, s.cur.strand))
      let u := if (s.others p).any s.unreach.contains then t.modColl p.node p.lin s.cur.strand k fun q => { q with cause := 0x86 } else t
      .next (u.modHead fun e => { e with wait := some k })

/-! ### Merging (R409, R410) -/

/-- The fixed balanced tree: the left operand from the lower ranks. -/
def balanced {α : Type} (f : α → α → α) (d : α) : Nat → List α → α
  | 0, l => l.headD d
  | n + 1, l =>
    if l.length ≤ 1 then l.headD d
    else
      let h := (l.length + 1) / 2
      f (balanced f d n (l.take h)) (balanced f d n (l.drop h))

/-- A row of an accord: maximum, sum and vector. -/
structure Triple where
  m : W32 := 0xFF800000
  s : W32 := 0
  v : List W32 := []
  deriving DecidableEq, Repr

/-- The merge of two triples, the first from the lower ranks (R410). -/
def Triple.merge (p q : Triple) : Triple :=
  if p.m = 0xFF800000 && q.m = 0xFF800000 then { m := 0xFF800000, s := 0, v := p.v.map fun _ => 0 }
  else if p.m = 0xFF800000 then q
  else if q.m = 0xFF800000 then p
  else
    let m := fmaxDev p.m q.m
    let a1 := exp2Dev (fsub p.m m)
    let a2 := exp2Dev (fsub q.m m)
    let f := fun x y => fadd (fmul x a1) (fmul y a2)
    { m := m, s := f p.s q.s, v := List.zipWith f p.v q.v }

/-- The merge of two elements of sum and max (R409). -/
def elemMerge (op ty p q : Nat) : Nat :=
  match op, ty with
  | 0, 0 => (fadd (w32 p) (w32 q)).toNat
  | 0, 1 => (p + q) % 2 ^ 32
  | 0, _ => (p + q) % 2 ^ 64
  | _, 0 => (fmaxDev (w32 p) (w32 q)).toNat
  | _, 1 => if sval 32 p < sval 32 q then q else p
  | _, _ => max p q

/-- The elements of `w` bytes that a byte list spells. -/
def elemsOf (w : Nat) (bs : List Byte) : List Nat := (List.range (bs.length / w)).map fun i => leNat ((bs.drop (w * i)).take w)

/-- The rows of an accord contribution. -/
def triplesOf (d : BitVec 512) (bs : List Byte) : List Triple :=
  let w := elemsOf 4 bs
  (List.range (cRows d)).map fun r =>
    let row := w.drop (r * (cHd d + 2))
    { m := w32 (row.getD 0 0), s := w32 (row.getD 1 0), v := ((row.drop 2).take (cHd d)).map w32 }

/-! ### Results (R411, R412) -/

/-- Whether a root row is masked. -/
def Triple.masked (t : Triple) : Bool := decide (t.m = 0xFF800000) || decide (t.s.toNat % 2 ^ 31 = 0)
/-- Whether a root row holds a NaN, where it is not masked. -/
def Triple.isNan (t : Triple) : Bool := !t.masked && (isNan32 t.m || isNan32 t.s || t.v.any isNan32)

/-- The normalised row (R411). -/
def Triple.out (t : Triple) : List W32 :=
  if t.masked then t.v.map fun _ => 0
  else if t.isNan then t.v.map fun _ => nan32
  else t.v.map fun x => divRne (v32 x) (v32 t.s)

/-- Words as bytes. -/
def wordBytes (l : List W32) : List Byte := l.flatMap fun x => leBytes 4 x.toNat

/-- What the root of a collective writes: addresses and bytes, and the masked and nan words. -/
def rootWrites (d : BitVec 512) (cs : List (List Byte)) : List (Nat × List Byte) × Nat × Nat :=
  match pf d 0 2 with
  | 2 => ([(pf d 96 20, cs.flatten)], 0, 0)
  | 3 =>
    let rows := balanced (List.zipWith Triple.merge) [] 7 (cs.map (triplesOf d))
    let bits := fun (p : Triple → Bool) => (rows.zipIdx.map fun x => if p x.1 then 2 ^ x.2 else 0).sum
    let one := fun (x : Triple × Nat) =>
      let row := (pf d 96 20 + x.2 * pf d 208 16, wordBytes (if pf d 4 1 = 1 then x.1.out else x.1.v))
      if pf d 4 1 = 1 then [row] else [row, (pf d 160 20 + 8 * x.2, wordBytes [x.1.m, x.1.s])]
    (rows.zipIdx.flatMap one, bits Triple.masked, bits Triple.isNan)
  | op =>
    let w := cEsize d
    let root := balanced (List.zipWith (elemMerge op (pf d 2 2))) [] 7 (cs.map (elemsOf w))
    ([(pf d 96 20, root.flatMap fun x => leBytes w x)], 0, 0)

/-- The status word (R412). -/
def collStatus (cause nc k : Nat) : W64 := w64 (natOf (decide (cause ≠ 0)) + 2 ^ 8 * cause + 2 ^ 16 * nc + 2 ^ 32 * (k % 2 ^ 32))

/-- Whether two contributions agree in op, type, norm, rows, hd and count (R413). -/
def collAgree (a b : BitVec 512) : Bool := decide (pf a 0 5 = pf b 0 5) && decide (pf a 8 16 = pf b 8 16) && decide (pf a 32 32 = pf b 32 32)

/-! ### Collectives: merging and completion -/

/-- COLL_CONTRIBUTION_MERGE: a contribution of rank `n` for the collective of node `m`, placement `pos`, strand and count
`k` arrives; or, with `flag`, that participant retired having issued too few colls (R408, R413). It is of use only to a node with a
chips level that has an entry here, and that the rank takes part in (R394). -/
def execCollContributionMerge (s : State) : Res :=
  let a := s.arg
  let e := s.node a.m
  let nc := e.shape.chips.getD 0
  if nc ≤ a.n || a.n = s.rank || e.st = .free then .next s
  else if a.flag then
    let miss : Coll → Coll := fun q => if Map.has q.contribs a.n then q else q.fail 0x83
    let t := if s.fab.colls.any fun q => q.is a.m a.pos a.strand a.k then s
      else { s with fab := { s.fab with colls := s.fab.colls ++ [{ node := a.m, place := a.pos, strand := a.strand, k := a.k }] } }
    .next (t.modColl a.m a.pos a.strand a.k miss)
  else .next (s.contribute a.m a.pos a.strand a.k a.n (BitVec.ofNat 512 a.block.toNat) a.bytes none)

/-- The cause that a collective ends with, or 0; none while contributions are missing (R413). -/
def Coll.ends (q : Coll) (nc : Nat) : Option Nat :=
  let cs := (List.range nc).filterMap fun r => (q.contribs.find? fun p => p.1 == r).map fun p => p.2.1
  if q.cause ≠ 0 then some q.cause
  else if cs.length < nc then none
  else some (if cs.all fun d => collAgree d (cs.headD 0) then 0 else 0x83)

/-- What a turn of a collective's completion writes of its destination: addresses and the bytes of elements of `n` bytes (R408). -/
def partWrites (n : Nat) (keep : Nat → Bool) (ws : List (Nat × List Byte)) : List (Nat × List Byte) :=
  ws.flatMap fun w => ((List.range (w.2.length / n)).filter fun i => keep (w.1 + n * i)).map fun i => (w.1 + n * i, (w.2.drop (n * i)).take n)

/-- COLL_COMPLETE: a collective that this chip takes part in ends: its destination is written, in parts where a free choice has it
so, with the last of them its status block, then x[d]; a fault writes no destination byte, and raises its cause at the head
(R408, R411 to R414). -/
def execCollComplete (s : State) : Res :=
  match s.fab.colls[s.arg.n]? with
  | none => .next s
  | some q =>
    let p := s.placement q.core
    let me := s.participant p
    match (s.strand q.core q.hw).ea, (q.contribs.find? fun x => x.1 == me) with
    | e :: _, some (_, d, _) =>
      if s.collLate q || e.wait ≠ some q.k || !s.holdsNode q.core q.node || p.lin ≠ q.place || q.hw ≠ q.strand then .next s
      else
        match q.ends p.nc with
        | none => .next s
        | some k =>
          let status := collStatus k p.nc q.k
          let cs := (List.range p.nc).map fun r => (Map.get (0, []) q.contribs r).2
          let (ws, masked, nan) := if k = 0 then rootWrites d cs else ([], 0, 0)
          let whole := ws.isEmpty || wholeTurn s.free
          let part := if whole && q.half.isEmpty then ws else partWrites (cEsize d) (fun a => turnPart s.free q.half (.sp q.core a)) ws
          let t1 := part.foldl (fun s w => s.spWrite q.core w.1 w.2) { s with fab := { s.fab with
            colls := if whole then s.fab.colls.eraseIdx s.arg.n else s.fab.colls.set s.arg.n { q with half := s.free :: q.half } } }
          if !whole then .next t1
          else
          let t2 := t1.spWrite q.core (pf d 224 20) (leBytes 8 status.toNat ++ leBytes 8 masked ++ leBytes 8 nan ++ leBytes 8 0)
          let t3 := { t2 with cur := { core := q.core, strand := q.hw, unit := .ea, entry := { e with wait := none } } }
          let t4 := (t3.modHead fun e => { e with wait := none }).wx (BitVec.ofNat 6 (fld e.word.toNat 18 6)) status
          .next (if k = 0 then (t4.modMe fun st => { st with colls := q.k + 1 }).finish else t4.raiseHead k status)
    | _, _ => .next s

/-- COLL_PREEMPT_TIMEOUT: a collective that has not completed 65 536 clk after the request reached its core ends its node
with 0x88 (R414). -/
def execCollPreemptTimeout (s : State) : Res :=
  match s.fab.colls[s.arg.n]? with
  | none => .next s
  | some q =>
    if s.collLate q then .next (s.terminate q.node 0x88 0 none) else .next s

/-! ### Links (R395 to R398) -/

/-- LINK_FLIT_RESEND: a flit that fails its check is resent, at most eight times; the resends of a port count until one
succeeds (`flag`), and a retried flit is delivered once, in order (R398). -/
def execLinkFlitResend (s : State) : Res :=
  let n := s.arg.n
  let k := Map.get 0 s.fab.resends n
  if 64 ≤ n || s.fab.down.contains n then .next s
  else if s.arg.flag then .next { s with fab := { s.fab with resends := Map.erase s.fab.resends n } }
  else if 8 ≤ k then .next s
  else .next { s with fab := { s.fab with resends := Map.put s.fab.resends n (k + 1) } }

/-- Ranks of the window other than this chip whose path uses a port. -/
def State.ranksOn (s : State) (port : Nat) : List Nat := (List.range s.winSize).filter fun k => k ≠ s.rank && s.portOf k = port

/-- Whether an entry of a route table is usable: a cabled port that is not down, and at most one intermediate router, which the table
reaches with none between. Bits [15:12] that are not 0 make it unusable too, of which R479 names no result (R395, R479; log entry
110). -/
def State.routeOk (s : State) (size rank : Nat) (routes : List Nat) (e : Nat) : Bool :=
  let mid := bitsAt e 6 6
  decide (e < 2 ^ 12) && Config.cabled (bitsAt e 0 6) && !s.fab.down.contains (bitsAt e 0 6) &&
    (decide (mid = 0x3F) || (decide (mid < size) && mid != rank && decide (bitsAt (routes.getD mid 0) 6 6 = 0x3F)))

/-- Collectives fail with 0x86 where `hit` picks the number of their participants, but for one whose destination is being written: that
one has completed on every rank (R413; log entry 114). -/
def State.failColls (s : State) (hit : Nat → Bool) : State :=
  let end_ : Coll → Coll := fun q =>
    if hit ((s.node q.node).shape.chips.getD 0) && q.half.isEmpty then { q with cause := 0x86 } else q
  { s with fab := { s.fab with colls := s.fab.colls.map end_ } }

/-- Paths to these ranks fail: requests under way on them are reported, and the collectives of nodes that have them as participants
end (R395, R413, R416). -/
def State.failPaths (s : State) (ranks : List Nat) : State :=
  let hit : FabReq → Bool := fun r =>
    if r.isSig then ranks.contains (bitsAt r.target.toNat 16 6) else r.places.any fun p => p.1 ≠ 0 && ranks.contains (p.1 - 1)
  let lost := s.fab.reqs.filter hit
  let t := State.failColls { s with fab := { s.fab with reqs := s.fab.reqs.filter fun r => !hit r } } fun nc => ranks.any fun k => decide (k < nc)
  lost.foldl (fun s r => s.reqEnds r (some (0x86, 0))) t

/-- LINK_DOWN: a port whose flit failed eight resends goes down, or, with `flag`, a link further on the path to rank `m`
has gone down. The paths over it are replaced from the routes in `nats` where those are usable, and the epoch advances;
traffic that was on it is reported, and a rank without a path is unreachable. With `flag` and `k` = 1, the path between the other ranks
`m` and `n` has failed, which the collectives of both show here (R395, R398, R413, R416). -/
def execLinkDown (s : State) : Res :=
  let n := s.arg.n
  if s.arg.flag && s.arg.k = 1 then
    (if s.arg.m = s.rank || n = s.rank || s.arg.m = n then .next s else .next (s.failColls fun nc => decide (max s.arg.m n < nc)))
  else if !s.arg.flag && (Map.get 0 s.fab.resends n < 8 || s.fab.down.contains n) then .next s
  else
    let lost := if s.arg.flag then [s.arg.m].filter fun k => k != s.rank else s.ranksOn n
    let t := if s.arg.flag then s else { s with fab := { s.fab with down := s.fab.down ++ [n], resends := Map.erase s.fab.resends n } }
    let table := (List.range 64).map fun k => if lost.contains k then s.arg.nats.getD k 0 else t.fab.routes.getD k 0
    let new : Nat → Option Nat := fun k => (s.arg.nats[k]?).filter fun e => t.routeOk t.winSize t.rank table e
    let routes := (List.range 64).map fun k => if lost.contains k then (new k).getD (t.fab.routes.getD k 0) else t.fab.routes.getD k 0
    let u := { t with
      fab := { t.fab with routes := routes, epoch := if t.fab.formed then t.fab.epoch + 1 else t.fab.epoch }
      unreach := (t.unreach ++ lost.filter fun k => (new k).isNone).eraseDups }
    .next (u.failPaths lost)

/-- FLOW_STOP: the receiver of a port stops a virtual channel (R397). -/
def execFlowStop (s : State) : Res :=
  let p := (s.arg.n, s.arg.k)
  if 64 ≤ p.1 || 4 ≤ p.2 || s.fab.stopped.contains p then .next s
  else .next { s with fab := { s.fab with stopped := s.fab.stopped ++ [p] } }

/-- FLOW_GO: it lets the channel go on, and the responses that waited for it leave (R397). -/
def execFlowGo (s : State) : Res :=
  .next { s with fab := { s.fab with
    stopped := s.fab.stopped.filter fun p => p != (s.arg.n, s.arg.k)
    resps := if s.arg.k = 1 then s.fab.resps.filter fun p => s.portOf p.1 != s.arg.n else s.fab.resps } }

/-- TIMING_MESSAGE: the TIME of another member, at most 250 ns from this one's: TIME is slewed toward it, by what it differs (R8; log
entry 105). -/
def execTimingMessage (s : State) : Res :=
  let diff : Int := (s.arg.word.toNat : Int) - (s.time.toNat : Int)
  if s.fab.formed && decide (diff.natAbs ≤ 250) then .next { s with fab := { s.fab with slew := diff } } else .next s

/-! ### Remote memory at home (R399) -/

/-- REMOTE_ACCESS_HOME: a translated access of the peer chip of rank `pos` is admitted and performed here, under the key slot of its
tenant; it fails without a valid key, and writes nothing then; poisoned data goes out with its mark, and is recorded (R26, R397, R399,
R471). With `k` = 1 a peer chip `m` writes its own memory, or with `flag`
loads or erases its key slot `pos`. -/
def execRemoteAccessHome (s : State) : Res :=
  let a := s.arg.word.toNat
  let n := s.arg.bytes.length
  if s.arg.k = 1 then
    let slot := (s.arg.m, s.arg.pos)
    if s.arg.m = s.rank || 64 ≤ s.arg.m then .next s
    else if s.arg.flag then
      .next { s with peerNoKey := if s.peerNoKey.contains slot then s.peerNoKey.filter fun x => x != slot else s.peerNoKey ++ [slot] }
    else .next (s.locWrites (s.arg.bytes.mapIdx fun i b => (.peer s.arg.m (a + i), b)))
  else if !s.admits s.arg.pos then .next s
  else if mgmtBase < a + n || !Map.has s.keys s.arg.m then .next (s.respond s.arg.pos)
  else
    let ls := (List.range n).map fun i => Loc.dev (a + i)
    let t := s.verify ls
    let read := if ls.any t.locPoisoned then t.bbEvent 4 0xA6 s.arg.m 0 0 else t
    .next (State.respond ((if s.arg.flag then s.locWrites (ls.zip s.arg.bytes) else read.touch ls).engineServed ls) s.arg.pos)

end Sys2Proof.Machine
end

