-- ==== Sys2Proof/Machine/Launch.lean ====
section
/-!
DEFINITION. qlaunch and qpatch: their issue, and the completion that holds the next bundle (R441 to R444).
-/

namespace Sys2Proof.Machine

/-- qlaunch: it holds the next bundle until it has written x[d] (R441, R442). -/
def execQlaunch (d a : XReg) (b : SrcB) (s : State) : Res :=
  let A := s.x a
  let B := s.b b
  .next (s.issued.modMe fun st => { st with wait := .qop false (s.lateDst d).toNat A B })

/-- qpatch (R441, R443). -/
def execQpatch (d a : XReg) (b : SrcB) (s : State) : Res :=
  let A := s.x a
  let B := s.b b
  .next (s.issued.modMe fun st => { st with wait := .qop true (s.lateDst d).toNat A B })

/-- The form that holds the next bundle writes x[d] and lets the bundle go. -/
def State.qopDone (s : State) (d : Nat) (v : W64) : State := s.modMe fun st => { st.wx d v with wait := .none }

/-- The 64-byte image in the scratchpad of the executing core. -/
def State.spImage (s : State) (a : W64) : BitVec 512 := BitVec.ofNat 512 (leNat (s.spRead s.cur.core a.toNat 64))

/-- Whether an image address is legal. -/
def imageOk (a : W64) : Bool := decide (a.toNat % 64 = 0) && decide (a.toNat ≤ 0xFFFC0)

/-- A node whose structures could not be read when qlaunch entered it enters error, with a record of reason 0x08. -/
def State.createdBad (s : State) (q n k : Nat) (p : BitVec 512) : State :=
  let t := s.modNode n fun _ => { pkt := p, queue := q, tenant := (s.fq q).tenant, st := .error }
  (t.placeRec srcFront (recData 5 0 n 0 false 0 0 (w64 (8 + 256 * k)))).queueError q 0x07 0xFFFFFFFF n

/-- qlaunch, mode create (R442). -/
def State.launchCreate (s : State) (d : Nat) (a : W64) : State :=
  let q := s.myPlace.queue
  let img := s.spImage a
  let n := pf img 16 12
  if !imageOk a || pktType img ≠ 1 || !nodePktOk img || !s.nodeAllowed q img then s.raiseWaiting s.cur.core s.cur.strand 0x61 a
  else if (s.node n).st ≠ .free then s.qopDone d 0
  else if s.emptyHeld img then s
  else
    match s.createNode q img none with
    | (.ok t, _) => t.qopDone d 1
    | (.error k, t) => (t.createdBad q n k img).qopDone d 1

/-- qlaunch, mode decrement: behind the completions of its sclk, and ahead of its DEC packets (R428, R442). -/
def State.launchDec (s : State) (d : Nat) (n : W64) : State :=
  if !s.inWindow (s.fq s.myPlace.queue).fn n.toNat || 4096 ≤ n.toNat then s.raiseWaiting s.cur.core s.cur.strand 0x61 n
  else if !s.mayServe unitNodes 1 || s.emptyReady then s
  else if (s.node n.toNat).st = .waiting then ((s.decrement n.toNat).servedAs unitNodes 1).qopDone d 1
  else s.qopDone d 0

/-- qpatch writes packet `i` of the queue: one store, and the packets read ahead remember it (R421, R443). -/
def State.patchPacket (s : State) (q i : Nat) (img : BitVec 512) : Except Nat State × State :=
  let k := s.fq q
  match s.portWrite k.tenant k.ringref (k.at i) (leBytes 64 img.toNat) with
  | (.error e, t) => (.error e, t)
  | (.ok _, t) =>
    match (if k.pre.any fun p => p.idx == i then s.packetRead q i else (.error 0, s)).1 with
    | .ok old => (.ok (t.modQ q fun k => { k with
        pre := k.pre.map fun (p : Prefetched) => if p.idx = i then { p with patches := p.patches ++ [(old, img)] } else p }), t)
    | .error _ => (.ok t, t)

/-- qpatch once it may act (R443). -/
def State.patchTry (s : State) (d : Nat) (a b : W64) : State :=
  let q := s.myPlace.queue
  let k := s.fq q
  let i := b.toNat % 2 ^ 32
  let raise := fun (s : State) (c : Nat) (v : W64) => s.raiseWaiting s.cur.core s.cur.strand c v
  if !imageOk a || bitsAt b.toNat 32 10 ≠ q || bitsAt b.toNat 42 22 ≠ 0 then raise s 0x62 a
  else
    let back := (k.consume + 2 ^ 32 - i) % 2 ^ 32
    if (i + 2 ^ 32 - k.consume) % 2 ^ 32 < k.slots then
      match s.patchPacket q i (s.spImage a) with
      | (.error e, t) => raise t e (w64 i)
      | (.ok t, _) => t.qopDone d 1
    else if 1 ≤ back && back ≤ 2 ^ 31 then s.qopDone d 0
    else raise s 0x62 a

/-- qlaunch or qpatch acts once its release is performed: every access of the strand has been, or the strand is stopped by
a cause of one of them and has settled (R441 to R443). -/
def State.qopTry (s : State) (patch : Bool) (d : Nat) (a b : W64) : State :=
  let st := s.me
  let failed := st.trapped && st.settled s.cyc && queues.any fun q => (st.queue q).any fun e => e.faulted
  if !s.performed s.cur.core s.cur.strand (fun _ => true) && !failed then s
  else if patch then s.unlessHeld (s.patchTry d a b)
  else if b.toNat / 2 ≠ 0 then s.raiseWaiting s.cur.core s.cur.strand 0x61 a
  else if b.toNat = 0 then s.unlessHeld (s.launchCreate d a)
  else s.launchDec d a

end Sys2Proof.Machine
end

