-- ==== Sys2Proof/Machine/Issue.lean ====
section
/-!
DEFINITION. The issue of bundles: waits that hold the next bundle, the conditions of issue, sync pairing, kept waits,
and the token traps (R46 to R48, R58, R128 to R135, R229, R233).
-/

namespace Sys2Proof.Machine

/-! ### Waits (R131) -/

/-- The executing context of a form that waits. -/
def State.waiting (s : State) (c h : Nat) : State :=
  let st := s.strand c h
  { s with cur := { core := c, strand := h, entry := { bundle := st.waitBundle, widx := st.waitWidx, seq := st.waitSeq } } }

/-- The keep record of a strand goes with its wait (R229). -/
def Strand.unkept (st : Strand) : Strand := if st.wait = .none then st.unkeep else st

/-- A wait on a barrier slot that holds the next bundle ends if it can; the bundle issues from the next clk on (R131, R264). -/
def State.barTry (s : State) (c h i k : Nat) : State :=
  match s.barEnds c h i k with
  | some t => t.modStrand c h fun st => { st with wait := .none, holdUntil := s.cyc + 1 }
  | none => s

/-- The form that holds a strand's next bundle completes if it can (R131, R156 to R159, R229, R244 to R247, R264,
R287). -/
def State.tryWait (s : State) (c h : Nat) : State :=
  let st := s.strand c h
  let t := match st.wait with
    | .none => s
    | .join => s.joinTry c h
    | .yield => s.yieldTry c h
    | .ewait n cond b =>
      if condHolds cond (st.re0 n).toNat b then (s.observe c h n).modStrand c h fun st => { st with wait := .none } else s
    | .exit => s.exitTry c h
    | .tsync => s.tsyncTry c h
    | .ctxs a => s.ctxsTry c h a
    | .ctxr a => s.ctxrTry c h a
    | .barw i k => s.barTry c h i k
    | .bara i k => s.barTry c h i k
    | .wfe d _ _ (some w) m =>
      if w < s.cyc then s.modStrand c h fun st => { st.wx d.toNat (m.zeroExtend 64) with wait := .none } else s
    | .wfe _ _ _ none _ => s
    | .eret => (s.waiting c h).eretTry
    | .halt => s
    | .qop p d a b => (s.waiting c h).qopTry p d a b
  t.modStrand c h Strand.unkept

/-- The wait that a kept form goes on with (R229, R266). -/
def Strand.keptWait (st : Strand) : Wait :=
  match st.keep with
  | .none => .none
  | .join => .join
  | .ewait n c b => .ewait n c b
  | .exit => .exit
  | .tsync => .tsync
  | .ctxs a => .ctxs (w64 a)
  | .ctxr a => .ctxr (w64 a)
  | .bar => match ([0, 1, 2, 3] : List Nat).find? fun i => (st.bar i).kept with
    | some i => if (st.bar i).keptBara then .bara i (st.bar i).keptJ else .barw i (st.bar i).keptJ
    | none => .none

/-- KEPT_WAIT_COMPLETE: after catch-up, the strand completes the wait that tkeep records; deliveries of the clk come before it
(R229, R233, R257, R266). -/
def execKeptWaitComplete (s : State) : Res :=
  let c := s.arg.core
  let h := s.arg.strand
  let st := s.strand c h
  if st.keep = .none || st.run ≠ .running || st.handler || st.trapped || st.stopped || st.catchUp ||
      (s.mustDeliver && s.dueCores.contains c) then .next s
  else
    let t := s.modStrand c h fun st =>
      { st with wait := st.keptWait, keep := .none, waitBundle := st.keepBundle, waitWidx := st.keepWidx, waitSeq := st.keepSeq }
    .next (t.tryWait c h)

/-! ### The next bundle -/

/-- Whether an instruction is a fence (R105, R209). -/
def isFenceForm : Instr → Bool
  | .fenceStrand | .fenceCore | .fenceGroup | .fenceDev | .fenceWin | .fenceSys => true
  | _ => false

/-- The scalar registers of a strand whose write is still to come, requests sent from EA and late requests included (R130, R283). -/
def State.pendingRegs (s : State) (c h : Nat) : List Nat :=
  ((s.strand c h).pending ++ ((s.strand c h).late.map fun r => r.d) ++
    (s.tmbs.filter fun t => t.core == c && t.strand == h && !t.dead).flatMap fun t => [t.d, t.d + 1]).filter fun r => r ≠ 0

/-- Rank of the tensor whose coordinates an instruction reads. -/
def State.rankFor (s : State) (c h : Nat) (i : Instr) : Nat :=
  match tensorReg i with
  | some n => s.rank? (s.placement c).tenant ((s.strand c h).rt n)
  | none => 0

/-- The cause that an EA instruction raises at issue, or the copy command that it builds (R168, R169, R301, R309, R314);
the entry is that of `cur`. -/
def State.eaIssue (s : State) (i : Instr) : Except (Nat × W64) (Option CopyCmd) :=
  let addr : W64 → Except (Nat × W64) (Option CopyCmd) := fun a => if apertureOk a then .ok none else .error (0x60, 0)
  let copy : Nat → W64 → Except (Nat × W64) (Option CopyCmd) := fun kind cw =>
    match s.copyBuild s.cur.core s.cur.strand kind (s.cap 0) (s.cap 1) cw s.me.rt with
    | .ok q => .ok (some q)
    | .error k => .error (k, 0)
  match i with
  | .epush _ _ _ | .attn _ _ | .attnP8 _ _ | .attnP8n _ _ => addr (s.cap 0)
  | .epop _ _ b => addr (s.qb 0 b)
  | .cpy _ b => copy 0 (s.qb 0 b)
  | .cpym _ _ b => copy 1 (s.qb 2 b)
  | .cpyg _ _ b => copy 2 (s.qb 2 b)
  | .chlink _ _ b => if chlinkOk (s.cap 0) (s.qb 1 b) then .ok none else .error (0x64, 0)
  | .chkick _ b => if chkickOk (s.qb 0 b) then .ok none else .error (0x64, 0)
  | _ => .ok none

/-- The entry of an instruction of the next bundle: its scalar operands and tensor reference are read at issue
(R48, R226). -/
def State.entryOf (s : State) (c h : Nat) (pc : W64) (b : BInstr) : Entry :=
  let st := s.strand c h
  let q := unitOf b.word.toNat
  let caps := (scalarReads (s.rankFor c h b.instr) b.instr).map st.rx
  let e : Entry :=
    { word := b.word, lit := b.lit, bundle := pc, widx := b.widx, seq := st.seq, caps := caps
      dst := if q = .lq || q = .ea then scalarWrites b.instr else []
      tref := st.captureRef b.instr caps, gap := s.cyc - st.lastIssue, ready := s.cyc + 1
      spaced := decide (q = .cq) && st.afterCatch }
  if q = .ea then
    match State.eaIssue { s with cur := { core := c, strand := h, unit := .ea, entry := e } } b.instr with
    | .error k => { e with atIssue := some k }
    | .ok cmd => { e with cmd := cmd, resv := (pushesTo b.word).isSome }
  else e

/-- A bundle ready to issue. -/
structure Ready where
  pc : W64
  sync : Bool
  seqForm : Option Entry
  rest : List (Unit5 × Entry)
  next : W64
  /-- The event counter that the header's wait has observed. -/
  waited : Option Nat := none
  deriving DecidableEq, Repr

/-- What a strand's next bundle meets. Of a stalled one, `full` and `regs` tell the full queues and the pending registers
that hold it, `other` whether something else does, and `sync` whether it pairs with other strands. -/
inductive Prep where
  | err (cause widx : Nat) (val : W64)
  | padding (next : W64)
  | stall (full : List Unit5) (regs : List Nat) (other sync : Bool)
  | ready (r : Ready)
  deriving DecidableEq, Repr

/-- The copy commands of a bundle that take a scoreboard entry (R307). -/
def State.needSb (s : State) (c : Nat) (l : List (Unit5 × Entry)) : Nat :=
  (l.filter fun p => match p.2.cmd with
    | some q => (s.sbRange c q).isSome
    | none => false).length

/-- Whether a queued instruction is cpy or cpyg. -/
def boxForm (p : Unit5 × Entry) : Bool :=
  p.1 == .ea && (([0x04, 0x06] : List Nat).contains (fld p.2.word.toNat 0 6))

/-- Free entries of a core's scoreboard. -/
def Core.sbRoom (k : Core) : Nat := 8 - k.sb.length

/-- Whether the scoreboard has room for bundles: one entry is free where one of them holds cpy or cpyg, and one for every
command that takes one (R128, R307). -/
def State.sbOk (s : State) (c : Nat) (l : List (Unit5 × Entry)) : Bool :=
  decide (max (natOf (l.any boxForm)) (s.needSb c l) ≤ (s.core c).sbRoom)

/-- The engines that a bundle pushes to. -/
def enginesOf (l : List (Unit5 × Entry)) : List Nat := l.filterMap fun p => if p.2.resv then pushesTo p.2.word else none

/-- Whether the engines' FIFOs have a slot for every push of bundles of a core (R128). -/
def State.fifosOk (s : State) (c : Nat) (l : List (Unit5 × Entry)) : Bool :=
  let es := enginesOf l
  es.all fun g => decide ((es.filter fun x => x = g).length ≤ s.fifoFree (groupOf c) g)

/-- Whether the pushes of one strand's bundle stay within its 16 outstanding attention requests (R374). -/
def State.attnOk (s : State) (c h : Nat) (l : List (Unit5 × Entry)) : Bool :=
  let n := ((enginesOf l).filter fun x => x = 0).length
  n == 0 || decide (s.attnCount c h + n ≤ 16)

/-- The next bundle of a strand against the checks of R58 and the conditions of R128, sync pairing apart. -/
def State.prep (s : State) (c h : Nat) : Prep × State :=
  let st := s.strand c h
  let (bad, s1) := if st.checkPc then s.target c h false st.pc else (none, s)
  match bad with
  | some (k, v) => (.err k 0 v, s1)
  | none =>
    match s1.fetch c h st.pc with
    | (.err k w v, t) => (.err k w v, t)
    | (.padding n, t) => (.padding n, t)
    | (.bundle hw is next, t) =>
      let waits := fld hw 19 1 = 1 && !condHolds (fld hw 17 2) (st.re0 (fld hw 13 4)).toNat (fld hw 1 12)
      let sync := decide (fld hw 24 1 = 1) && st.tasks.isEmpty && !st.handler
      let es := is.map fun b => (unitOf b.word.toNat, t.entryOf c h st.pc b)
      let fence := is.any fun b => isFenceForm b.instr
      let need : Unit5 → Nat := fun q => (es.filter fun p => p.1 = q).length + natOf fence
      let full := queues.filter fun q => decide (queueSize q < (st.queue q).length + need q)
      let used := is.flatMap fun b => scalarReads (t.rankFor c h b.instr) b.instr ++ scalarWrites b.instr
      let regs := (t.pendingRegs c h).filter fun r => used.contains r
      let rest := es.filter fun p => p.1 ≠ .seq
      let other := waits || !t.sbOk c rest || !t.fifosOk c rest || !t.attnOk c h rest
      if !full.isEmpty || !regs.isEmpty || other then (.stall full regs other sync, t)
      else
        (.ready { pc := st.pc, sync := sync, seqForm := (es.find? fun p => p.1 = .seq).map Prod.snd, rest := rest, next := next
                  waited := if fld hw 19 1 = 1 then some (fld hw 13 4) else none }, t)

/-! ### Sync pairing (R132, R231) -/

/-- Whether a strand has left the pairing of its placement: it has executed exit (R132). -/
def Strand.leftPairing (st : Strand) : Bool :=
  st.hasExited || (match st.tasks.getLast? with
    | none => st.wait == .exit || st.keep == .exit
    | some t => t.outer == .exit)

/-- The strands whose bundle with sync = 1 a strand's next such bundle is paired with (R132). -/
def State.partners (s : State) (c h : Nat) : List Nat :=
  (List.range (s.placement c).nstrands).filter fun g =>
    g ≠ h && !(s.strand c g).leftPairing && decide ((s.strand c g).syncs ≤ (s.strand c h).syncs)

/-- Whether nothing but the conditions of its next bundle keeps a strand from issuing. -/
def Strand.mayIssue (st : Strand) (cyc : Nat) : Bool :=
  st.run == .running && !st.trapped && !st.stopped && !st.catchUp && st.wait == .none && (st.keep == .none || st.handler) &&
    decide (st.holdUntil ≤ cyc)

/-- The bundles that issue in this clk with a sync bundle of a strand, its own first; none while a partner is not
ready. Shared resources must suffice for all of them. -/
def State.pairing (s : State) (c h : Nat) (r : Ready) : Option (List (Nat × Ready)) × State :=
  let step : Option (List (Nat × Ready)) × State → Nat → Option (List (Nat × Ready)) × State := fun acc g =>
    match acc with
    | (none, t) => (none, t)
    | (some l, t) =>
      if !(t.strand c g).mayIssue t.cyc then (none, t)
      else match t.prep c g with
        | (.ready q, u) => if q.sync then (some (l ++ [(g, q)]), u) else (none, u)
        | (_, u) => (none, u)
  match (s.partners c h).foldl step (some [(h, r)], s) with
  | (none, t) => (none, t)
  | (some l, t) =>
    let rests := l.flatMap fun p => p.2.rest
    if t.sbOk c rests && t.fifosOk c rests then (some l, t) else (none, t)

/-! ### Issue -/

/-- Allocate scoreboard entries to the copy commands of a bundle (R307). -/
def State.takeSb (s : State) (c : Nat) : List (Unit5 × Entry) → List (Unit5 × Entry) × State
  | [] => ([], s)
  | (q, e) :: l =>
    match e.cmd with
    | none => let (l', t) := State.takeSb s c l; ((q, e) :: l', t)
    | some m =>
      match s.sbRange c m, (s.core c).sbFree with
      | some r, some i =>
        let u := s.modCore c fun k => { k with sb := Map.put k.sb i { r with since := s.cyc + 1 } }
        let (l', t) := State.takeSb u c l
        ((q, { e with cmd := some { m with sb := some i } }) :: l', t)
      | _, _ => let (l', t) := State.takeSb s c l; ((q, e) :: l', t)

/-- The context of a bundle that is ready to issue, with its scoreboard entries allocated; its header's wait is over (R42, R139). -/
def State.readyCtx (s : State) (c h : Nat) (r : Ready) : Ctx × State :=
  let (rest, t) := (match r.waited with | some n => s.observe c h n | none => s).takeSb c r.rest
  ({ core := c, strand := h, unit := .seq, entry := r.seqForm.getD { bundle := r.pc }, rest := rest
     nextPc := r.next, sync := r.sync, bare := r.seqForm.isNone }, t)

/-- A bundle issues: its SEQ instruction is handed over with the others, or they enter their queues at once (R48). -/
def State.issueReady (s : State) (c h : Nat) (r : Ready) : State :=
  let (cx, t) := s.readyCtx c h r
  let u := { t with cur := cx }
  if cx.bare then u.issued else { u with slot := true }

/-- Sync bundles that pair issue together in this step (R47, R132). -/
def State.issueTogether (s : State) (c : Nat) (l : List (Nat × Ready)) : State :=
  let (cxs, t) := l.foldl (fun acc p => let (cx, t) := acc.2.readyCtx c p.1 p.2; (acc.1 ++ [cx], t)) (([] : List Ctx), s)
  { t with slot := true, paired := cxs }

/-- The strand's next bundle issues if it can, behind at most `n` padding headers; more lead nowhere, and the strand stays where it is
(R43, R58, R128, R132). -/
def State.issueAfter (s0 : State) (c h : Nat) : Nat → State → State
  | 0, _ => s0
  | n + 1, s => match s.prep c h with
  | (.err k w v, t) => t.modStrand c h fun st => Strand.raise { st with checkPc := false } s.cyc k w 0 st.pc v st.pc st.seq
  | (.padding pc, t) => s0.issueAfter c h n (t.modStrand c h fun st => { st with pc := pc, checkPc := false })
  | (.stall _ _ _ _, t) => t
  | (.ready r, t) =>
    if !r.sync then t.issueReady c h r
    else
      match t.pairing c h r with
      | (none, u) => u
      | (some [p], u) => u.issueReady c h p.2
      | (some l, u) => u.issueTogether c l

/-- The strand's next bundle issues if it can: the padding before it takes no clk, and a cycle of padding issues nothing
(R43, R58, R128, R132). -/
def State.issueNext (s : State) (c h : Nat) : State := s.issueAfter c h ((s.placement c).nlines + 2) s

/-- Whether the accesses that a task's spawner made before the spawn are still to be performed (R145). -/
def State.gated (s : State) (c h : Nat) : Bool :=
  match (s.strand c h).gate with
  | none => false
  | some (pos, g, mark) => !s.performedTo (16 * groupOf c + pos) g mark && !(s.strand c h).handler

/-- The turn of a strand's sequencer: catch-up, the form that holds the next bundle, or the next bundle (R128, R131,
R145, R233). -/
def State.seqTurn (s : State) (c h : Nat) : State :=
  let st := s.strand c h
  if 4 ≤ h || st.run ≠ .running || (s.mustDeliver && s.dueCores.contains c) then s
  else if st.inQop then (if s.cyc < st.holdUntil then s else s.tryWait c h)
  else if st.trapped || st.stopped || s.nodeEnding c || s.cyc < st.holdUntil then s
  else if st.catchUp then s.modStrand c h fun st => st.catchUpTurn s.cyc
  else if (st.keep ≠ .none && !st.handler) || s.gated c h then s
  else if st.wait ≠ .none then s.tryWait c h
  else (s.openGate c h).issueNext c h

/-- BUNDLE_ISSUE: the turn of a strand's sequencer (R128). -/
def execBundleIssue (s : State) : Res := .next (s.seqTurn s.arg.core s.arg.strand)

/-- Whether a strand still has something to issue or to complete in this clk: a bundle issues in the first clk in which it
can, and a wait ends in the first clk in which it can (R128, R131). -/
def State.seqDue (s : State) (c h : Nat) : Bool :=
  let t := s.seqTurn c h
  t.slot || t.strand c h != s.strand c h

/-- The turn of a queue of a strand, or, for SEQ, of its probes and pgreqs that are still to complete. -/
def State.headTurn (s : State) (c h : Nat) (q : Unit5) : State :=
  match q with
  | .seq => s.lateTurn c h
  | _ => s.turn c h q

/-! ### Token traps (R135) -/

/-- Whether the head of a queue waits only on a token: a push that its counter refuses, or a pop. -/
def State.tokenWait (s : State) (c h : Nat) (q : Unit5) : Bool :=
  let st := s.strand c h
  match st.queue q with
  | [] => false
  | e :: _ =>
    if e.done then !(st.push q e).2.2
    else
      e.marker.isNone && !e.begun && e.until_.isNone && !st.canPop (popsOf q (tokOf q e.word)) &&
        decide ((if q = .cq then st.cqReady e else e.ready) ≤ s.cyc) && !(isAccess q e.word && st.acquiring q e) &&
        !s.heldBack c h q e

/-- The queues on tokens. -/
def tokenQueues : List Unit5 := [.lq, .cq, .sq]

/-- TOKEN_DEADLOCK: 0x40 (R135). -/
def execTokenDeadlock (s : State) : Res :=
  let c := s.arg.core
  let h := s.arg.strand
  let st := s.strand c h
  let live := tokenQueues.filter fun q => !(st.queue q).isEmpty
  if !st.mayIssue s.cyc || s.gated c h ||
      live.isEmpty || !live.all (s.tokenWait c h) then .next s
  else
    match (s.prep c h).1 with
    | .stall full regs other sync =>
      let behind := (st.lq.drop 1).flatMap fun e => if e.done then [] else e.dst
      let fromEa := (st.ea.filter fun e => !e.done).flatMap fun e => e.dst
      let unpaired := sync && (s.partners c h).any fun g => !(s.strand c g).mayIssue s.cyc || (match (s.prep c g).1 with
        | .ready r => !r.sync
        | _ => true)
      if other || unpaired || (full.isEmpty && regs.isEmpty) || full.contains .ea ||
          !regs.all (fun r => behind.contains r && !fromEa.contains r) then .next s
      else .next (s.modStrand c h fun st => st.raise s.cyc 0x40 0 0 st.pc 0 st.pc st.seq)
    | _ => .next s

/-- Whether a queue's head waits on a token that can never arrive or be taken (R135). -/
def State.tokenStranded (s : State) (c h : Nat) (q : Unit5) : Bool :=
  let st := s.strand c h
  match st.queue q with
  | [] => false
  | e :: _ =>
    if e.done then
      (e.pushes q).any fun k => decide (15 ≤ st.ctr k) &&
        !(st.queue (consumerOf k)).any fun x => !x.begun && !x.done && (popsOf (consumerOf k) (tokOf (consumerOf k) x.word)).contains k
    else
      e.marker.isNone && !e.begun && e.until_.isNone &&
        (popsOf q (tokOf q e.word)).any fun k => decide (st.ctr k = 0) && (st.queue (producerOf k)).isEmpty

/-- TOKEN_STRANDED: 0x41, once the strand has issued exit (R135). -/
def execTokenStranded (s : State) : Res :=
  let c := s.arg.core
  let h := s.arg.strand
  let st := s.strand c h
  if st.run ≠ .running || st.trapped || st.stopped || st.catchUp || st.wait ≠ .exit || !tokenQueues.any (s.tokenStranded c h) then .next s
  else .next (s.modStrand c h fun st => st.raise s.cyc 0x41 0 0 st.waitBundle 0 st.pc st.waitSeq)

end Sys2Proof.Machine
end

