-- ==== Sys2Proof/Machine/Sha.lean ====
section
/-!
DEFINITION. SHA-384, as FIPS 180-4 defines it: the digest of firmware images, keys and measurements (R465, R468; log entry 9).
-/

namespace Sys2Proof.Machine

/-- The largest number below `2 ^ bits` whose power `k` is at most `n`, bit by bit from `r` up. -/
def rootBits (k n : Nat) : Nat → Nat → Nat
  | 0, r => r
  | b + 1, r => rootBits k n b (if (r + 2 ^ b) ^ k ≤ n then r + 2 ^ b else r)

/-- The primes below 410, of which there are 80. -/
def shaPrimes : List Nat := (List.range 410).filter fun p => decide (2 ≤ p) && (List.range p).all fun d => decide (d < 2 ∨ p % d ≠ 0)

/-- The constants of the rounds: the first 64 bits of the fractions of the cube roots of the primes. -/
def shaK : List W64 := shaPrimes.map fun p => w64 (rootBits 3 (p * 2 ^ 192) 67 0)

/-- The first hash value: the same of the square roots of the ninth to the sixteenth prime. -/
def shaInit : List W64 := ((shaPrimes.drop 8).take 8).map fun p => w64 (rootBits 2 (p * 2 ^ 128) 68 0)

/-- A message in blocks: a one bit, zeros, and the length in bits fill the last. -/
def shaPad (bs : List Byte) : List Byte :=
  bs ++ 0x80 :: List.replicate ((239 - bs.length % 128) % 128) 0 ++ (leBytes 16 (8 * bs.length)).reverse

/-- The words of the rounds, the last first: each from four before it. -/
def shaSchedule : Nat → List W64 → List W64
  | 0, l => l
  | n + 1, l =>
    let at_ := fun i => l.getD i 0
    let s1 := fun (x : W64) => x.rotateRight 19 ^^^ x.rotateRight 61 ^^^ (x >>> 6)
    let s0 := fun (x : W64) => x.rotateRight 1 ^^^ x.rotateRight 8 ^^^ (x >>> 7)
    shaSchedule n ((s1 (at_ 1) + at_ 6 + s0 (at_ 14) + at_ 15) :: l)

/-- One round. -/
def shaRound (h : List W64) (kw : W64 × W64) : List W64 :=
  let at_ := fun i => h.getD i 0
  let a := at_ 0
  let e := at_ 4
  let t1 := at_ 7 + (e.rotateRight 14 ^^^ e.rotateRight 18 ^^^ e.rotateRight 41) + ((e &&& at_ 5) ^^^ (~~~e &&& at_ 6)) + kw.1 + kw.2
  let t2 := (a.rotateRight 28 ^^^ a.rotateRight 34 ^^^ a.rotateRight 39) + ((a &&& at_ 1) ^^^ (a &&& at_ 2) ^^^ (at_ 1 &&& at_ 2))
  [t1 + t2, a, at_ 1, at_ 2, at_ 3 + t1, e, at_ 5, at_ 6]

/-- The hash value after one block of 128 bytes. -/
def shaBlock (h : List W64) (b : List Byte) : List W64 :=
  let w := (List.range 16).map fun i => w64 (leNat ((b.drop (8 * i)).take 8).reverse)
  List.zipWith (fun x y => x + y) h ((shaK.zip (shaSchedule 64 w.reverse).reverse).foldl shaRound h)

/-- The hash value after the first blocks of a padded message. -/
def shaBlocks : Nat → List W64 → List Byte → List W64
  | 0, h, _ => h
  | n + 1, h, bs => shaBlocks n (shaBlock h (bs.take 128)) (bs.drop 128)

/-- SHA-384 of a message: its 48 bytes, the first lowest. -/
def sha384 (bs : List Byte) : BitVec 384 :=
  let p := shaPad bs
  BitVec.ofNat 384 (leNat (((shaBlocks (p.length / 128) shaInit p).take 6).flatMap fun x => (leBytes 8 x.toNat).reverse))

end Sys2Proof.Machine
end

