-- ==== Sys2Proof/Machine/Slices.lean ====
section
/-!
DEFINITION. Cache slices: tumbler routines, their installation and their runs on a held line, the tmb forms, and the
eviction of lines (R342 to R356).
-/

namespace Sys2Proof.Machine

/-! ### Slice instructions (R348, R349) -/

/-- Operation. -/
def slOp (w : Nat) : Nat := bitsAt w 27 5
/-- Destination. -/
def slD (w : Nat) : Nat := bitsAt w 24 3
/-- Source A. -/
def slA (w : Nat) : Nat := bitsAt w 20 4
/-- Source B. -/
def slB (w : Nat) : Nat := bitsAt w 16 4
/-- Whether B is the immediate. -/
def slIb (w : Nat) : Bool := decide (bitsAt w 15 1 = 1)
/-- Size or condition. -/
def slSub (w : Nat) : Nat := bitsAt w 12 3
/-- Immediate field. -/
def slImm (w : Nat) : Nat := bitsAt w 0 12

/-- Whether a word is a legal slice instruction: known operation, listed sub, sources 0 to 10, unused fields 0. -/
def slLegal (w : Nat) : Bool :=
  let a := decide (slA w ≤ 10)
  let noD := decide (slD w = 0)
  let noA := decide (slA w = 0)
  let noB := decide (slB w = 0) && !slIb w
  let noSub := decide (slSub w = 0)
  let noImm := decide (slImm w = 0)
  let regB := decide (slB w ≤ 10) && !slIb w
  let anyB := if slIb w then decide (slB w = 0) else decide (slB w ≤ 10) && noImm
  match slOp w with
  | 0x00 => a && noB && decide (slSub w ≤ 3)
  | 0x01 => a && noD && regB && decide (slSub w ≤ 3)
  | 0x0D => a && anyB && decide (slSub w ≤ 5)
  | 0x0F => a && noB && noImm && noSub
  | 0x10 => a && regB && noImm && noSub
  | 0x11 => a && regB && noImm && noSub
  | 0x12 => a && noD && noB && noSub
  | 0x13 => a && noD && noB && noSub
  | 0x14 => a && noD && noB && noSub && noImm
  | 0x15 => noA && noD && noB && noSub && decide (slImm w < 256)
  | n => decide (n ≤ 0x0E) && a && anyB && noSub

/-- Cost in sclk (R349). -/
def slCost (op : Nat) : Nat :=
  match op with
  | 0x00 => 2
  | 0x10 => 3
  | 0x11 => 3
  | _ => 1

/-- A slice instruction that forms a value from A, B and the old destination (R349). -/
def slAlu (w : Nat) (a b old : W64) : W64 :=
  match slOp w with
  | 0x02 => a + b
  | 0x03 => a - b
  | 0x04 => a &&& b
  | 0x05 => a ||| b
  | 0x06 => a ^^^ b
  | 0x07 => if b.slt a then b else a
  | 0x08 => if a.slt b then b else a
  | 0x09 => if b.ult a then b else a
  | 0x0A => if a.ult b then b else a
  | 0x0B => a <<< (b.toNat % 64)
  | 0x0C => a >>> (b.toNat % 64)
  | 0x0D => (match slSub w with
    | 0 => if a = b then 1 else 0
    | 1 => if a ≠ b then 1 else 0
    | 2 => if a.slt b then 1 else 0
    | 3 => if a.ult b then 1 else 0
    | 4 => if a.sle b then 1 else 0
    | _ => if a.ule b then 1 else 0)
  | 0x0E => if old ≠ 0 then a else b
  | 0x0F => w64 (popcount 64 a.toNat)
  | 0x10 => (r32 ((v32 (a.truncate 32)).add (v32 (b.truncate 32)))).zeroExtend 64
  | _ => (fmaxDev (a.truncate 32) (b.truncate 32)).zeroExtend 64

/-! ### The run of a routine (R350) -/

/-- A routine under way: its registers, the shadow of the line with the bytes it has written, its place, and what it
has spent and executed. -/
structure SliceRun where
  q : Map W64 := []
  data : BitVec 2048 := 0
  mask : BitVec 256 := 0
  i : Nat := 0
  spent : Nat := 0
  count : Nat := 0
  deriving DecidableEq, Repr

/-- How a routine ended: outcome, code, result. -/
structure SliceEnd where
  outcome : Nat := 0
  code : Nat := 0
  result : W64 := 0
  run : SliceRun := {}
  deriving DecidableEq, Repr

/-- A source: q0 to q7, o0, o1 or zero (R348). -/
def SliceRun.src (r : SliceRun) (o0 o1 : W64) (n : Nat) : W64 :=
  if n < 8 then Map.get 0 r.q n else if n = 8 then o0 else if n = 9 then o1 else 0

/-- Read a little-endian number of the shadow. -/
def SliceRun.load (r : SliceRun) (off n : Nat) : W64 := w64 (leNat ((List.range n).map fun k => r.data.extractLsb' (8 * (off + k)) 8))

/-- Write bytes of the shadow. -/
def SliceRun.store (r : SliceRun) (off : Nat) : List Byte → SliceRun
  | [] => r
  | b :: bs =>
    SliceRun.store { r with data := setByte r.data off b, mask := r.mask ||| ((1 : BitVec 256) <<< off) } (off + 1) bs

/-- Run from the instruction at `i`; the fuel is the number of instructions left, since branches go forward only. -/
def sliceGo (code : Nat → Nat) (o0 o1 : W64) : Nat → SliceRun → SliceEnd
  | 0, r => { outcome := 2, code := 3, run := r }
  | fuel + 1, r =>
    let w := code r.i
    let cost := slCost (slOp w)
    let a := r.src o0 o1 (slA w)
    let imm := sext64 12 (slImm w)
    let b := if slIb w then imm else r.src o0 o1 (slB w)
    let off := (a + imm).toNat
    let n := 2 ^ slSub w
    let r1 := { r with spent := r.spent + cost, count := r.count + 1, i := r.i + 1 }
    let stop := { r with count := r.count + 1 }
    if 64 < r.spent + cost then { outcome := 2, code := 3, run := r }
    else
      match slOp w with
      | 0x00 =>
        if 256 < off + n then { outcome := 2, code := 2, run := stop }
        else if off % n ≠ 0 then { outcome := 2, code := 1, run := stop }
        else sliceGo code o0 o1 fuel { r1 with q := Map.put r.q (slD w) (r.load off n) }
      | 0x01 =>
        if 256 < off + n then { outcome := 2, code := 2, run := stop }
        else if off % n ≠ 0 then { outcome := 2, code := 1, run := stop }
        else sliceGo code o0 o1 fuel (r1.store off (leBytes n b.toNat))
      | 0x12 => sliceGo code o0 o1 fuel (if a = 0 then { r1 with i := r.i + slImm w } else r1)
      | 0x13 => sliceGo code o0 o1 fuel (if a ≠ 0 then { r1 with i := r.i + slImm w } else r1)
      | 0x14 => { result := a, run := r1 }
      | 0x15 => { outcome := 1, code := slImm w % 256, run := r1 }
      | _ => sliceGo code o0 o1 fuel { r1 with q := Map.put r.q (slD w) (slAlu w a b (Map.get 0 r.q (slD w))) }

/-- The status word (R354). -/
def SliceEnd.status (e : SliceEnd) : W64 :=
  w64 (e.outcome + 2 ^ 8 * e.code + 2 ^ 16 * e.run.count + 2 ^ 21 * e.run.spent)

/-! ### Routines (R346, R347) -/

/-- Instructions in a routine slot (R346). -/
def rtnCount (x : Nat) : Nat := bitsAt x 0 5

/-- Instruction `i` of a routine slot (R346). -/
def rtnWord (x i : Nat) : Nat := bitsAt x (64 + 32 * i) 32

/-- Instruction `i` fails its checks: its subcode with `i` in bits [15:8] (R347). -/
def rtnFault (x i : Nat) : Option Nat :=
  let w := rtnWord x i
  if !slLegal w then some (0x04 + 256 * i)
  else if (slOp w = 0x12 || slOp w = 0x13) && (slImm w = 0 || rtnCount x - 1 < i + slImm w) then some (0x05 + 256 * i)
  else none

/-- The value of the cause that a routine slot's contents give, none when it is legal (R347). -/
def rtnCheck (x : Nat) : Option Nat :=
  let n := rtnCount x
  if bitsAt x 31 1 = 0 || bitsAt x 5 26 ≠ 0 || bitsAt x 32 32 ≠ 0 || bitsAt x 832 192 ≠ 0 then some 0x02
  else if n = 0 || 24 < n then some 0x03
  else
    match (List.range n).findSome? (rtnFault x) with
    | some v => some v
    | none =>
      if slOp (rtnWord x (n - 1)) ≠ 0x14 && slOp (rtnWord x (n - 1)) ≠ 0x15 then some 0x06
      else if (List.range (24 - n)).any (fun k => rtnWord x (n + k) ≠ 0) then some 0x02
      else none

/-- Whether a cached routine is the one that a request names (R347). -/
def Routine.is (r : Routine) (q : TmbReq) : Bool :=
  r.tenant == q.tenant && r.index == bitsAt q.codeten.toNat 0 20 && r.gen == bitsAt q.codeten.toNat 30 14 &&
    r.off == q.rtnoff && r.slot == q.slot.toNat

/-- The routines that a slice caches, the most recently used first. -/
def State.routines (s : State) (q : TmbReq) : List Routine := Map.get [] s.slices (sliceOf q.line)

/-- Change a request. -/
def State.modTmb (s : State) (n : Nat) (f : TmbReq → TmbReq) : State :=
  { s with tmbs := s.tmbs.mapIdx fun i q => if i = n then f q else q }

/-- A failed install: result 0, outcome 11 with the subcode, and the cause 0x76 (R347, R353). -/
def State.tmbRefuse (s : State) (n v : Nat) : State :=
  s.modTmb n fun q => { q with ran := some (0, w64 (3 + 256 * (v % 256))), fault := some (0x76, w64 v) }

/-- The bytes of the routine slot that a request names, read untorn through the code tensor under its tenant (R121,
R347). -/
def State.routineRead (s : State) (q : TmbReq) : Except Nat Nat × State :=
  match s.flatBytes .memory q.tenant q.codeten ((q.rtnoff + 128 * q.slot.toNat : Nat) : Int) 128 false with
  | (.error 0x23, t) => (.error 0x26, t)
  | (.error k, t) => (.error k, t)
  | (.ok ls, t) =>
    (.ok (leNat (ls.map t.locGet)), if ls.any t.placeHeld then { t with fe := { t.fe with linkHeld := true } } else t.touch ls)

/-- ROUTINE_INSTALL: the home slice of a request whose routine it does not hold reads, checks and installs it, in place
of the least recently used one, or fails the tmb (R347). -/
def execRoutineInstall (s : State) : Res :=
  match s.tmbs[s.arg.n]? with
  | none => .next s
  | some q =>
    if q.ran.isSome || (s.routines q).any (fun r => r.is q) then .next s
    else if 64 ≤ q.slot.toNat then .next (s.tmbRefuse s.arg.n 0x01)
    else if q.rtnoff % 128 ≠ 0 then .next (s.tmbRefuse s.arg.n 0x08)
    else
      match s.routineRead q with
      | (.error k, t) => .next (t.tmbRefuse s.arg.n (0x07 + 65536 * k))
      | (.ok x, t) =>
        if t.fe.linkHeld then .next s else match rtnCheck x with
        | some v => .next (t.tmbRefuse s.arg.n v)
        | none =>
          let r : Routine := { tenant := q.tenant, index := bitsAt q.codeten.toNat 0 20, gen := bitsAt q.codeten.toNat 30 14
                               off := q.rtnoff, slot := q.slot.toNat, node := q.node, code := BitVec.ofNat 1024 x }
          .next { t with slices := Map.put t.slices (sliceOf q.line) ((r :: t.routines q).take 16) }

/-- Whether an earlier request of the same strand on the same line is still to run: the same queue and the same bytes (R101, R355). -/
def State.tmbBehind (s : State) (n : Nat) (q : TmbReq) : Bool :=
  (s.tmbs.take n).any fun p => p.ran.isNone && p.core == q.core && p.strand == q.strand && p.line == q.line

/-- Whether a form is an acquire (R355). -/
def isAcqForm (form : Nat) : Bool := form = 0x11 || form = 0x15

/-- Whether a form is a release (R355). -/
def isRelForm (form : Nat) : Bool := form = 0x12 || form = 0x16

/-- What a commit makes known to those that acquire at its line: a release, what its strand knew before it; another commit hides that
(R106, R355). -/
def State.lineKnown (s : State) (q : TmbReq) : State :=
  let t := s.forget (.line q.line)
  if isRelForm q.form then t.pass (.mail q.tag) (.line q.line) else t

/-- Write a committed shadow to the line of a request (R350). -/
def State.commitLine (s : State) (q : TmbReq) (r : SliceRun) : State :=
  let ws := ((List.range 256).filter fun i => r.mask.getLsbD i).map fun i => (Loc.dev (q.line + i), r.data.extractLsb' (8 * i) 8)
  if ws.isEmpty then s
  else (s.locWrites ws (some (s.self q.core q.strand))).lineKnown q

/-- The place of a strand's request among those that reach a line in one sclk (R345). -/
def TmbReq.rank (q : TmbReq) : Nat := 4 * q.core + q.strand

/-- The slice serves a request: its routine becomes the most recently used, and its line is filled. Whether it commits or not, it is a
store to its tile; an acquire has what a release at the line has made known (R106, R277, R343, R345, R347, R351). -/
def State.sliceTurn (s : State) (q : TmbReq) (rt : Routine) : State :=
  let t0 := (s.servedAs (unitSlice (q.line / 256)) q.rank).flatStored (tcOf q.core) q.tenant q.tref (ptrCoord q.ptr : Int) 1
  let t := if isAcqForm q.form then t0.tell (.line q.line) (.mail q.tag) else t0
  State.fillSectors { t with slices := Map.put s.slices (sliceOf q.line) (rt :: (s.routines q).filter fun r => !r.is q) } (q.line / 64) 4

/-- TMB_ROUTINE_RUN: the slice holds the line, fills it, and runs the routine on its shadow; in one sclk the requests for a line run
in order of core and strand. On a poisoned line the routine faults, and the request has cause 0xA6 (R343, R345, R350, R351, R471). -/
def execTmbRoutineRun (s : State) : Res :=
  match s.tmbs[s.arg.n]? with
  | none => .next s
  | some q =>
    match (s.routines q).find? fun r => r.is q with
    | none => .next s
    | some rt =>
      if q.ran.isSome || s.tmbBehind s.arg.n q || !s.mayServe (unitSlice (q.line / 256)) q.rank then .next s
      else
        let t := s.sliceTurn q rt
        let bad := (List.range 4).any fun k => t.poisoned (q.line + 64 * k)
        let e : SliceEnd :=
          if bad then { outcome := 2, code := 4 }
          else sliceGo (rtnWord rt.code.toNat) q.o0 q.o1 24 { data := (t.line (q.line / 256)).data }
        let u := if bad then t.bbEvent 4 0xA6 q.tenant q.core 0 else if e.outcome = 0 then t.commitLine q e.run else t
        let v := u.modTmb s.arg.n fun q => { q with ran := some (e.result, e.status), fault := if bad then some (0xA6, 0) else none }
        .next (if q.dead then
            State.detachedRec { v with tmbs := v.tmbs.eraseIdx s.arg.n } (srcSlice (sliceOf q.line)) q.node q.core q.late
          else v)

/-! ### The tmb forms (R352 to R356) -/

/-- Whether a form stays at the head of EA until its result returns (R355). -/
def tmbStays (form : Nat) : Bool := form = 0x11 || 0x14 ≤ form

/-- A tmb form at the head of EA: the checks of R353, then its request goes to the slice (R353, R355). -/
def State.tmb (s : State) (form : Nat) (d : XReg) (b : SrcB) : Res :=
  let e := s.cur.entry
  let P := s.cap 0
  let p := s.myPlace
  if e.wait.isSome then .next s
  else if isRelForm form && !s.performed s.cur.core s.cur.strand (fun x => x.before e) then .next s
  else
    match s.flatAt s.cur.core p.tenant P e.tref 0 256 256 true true with
    | (.error k, t) => .next (t.raiseHead k P)
    | (.ok ls, t) =>
      let line := match ls with
        | l :: _ => l.addr
        | [] => 0
      let kind := match s.touchFlat s.cur.core p.tenant P e.tref 0 256 with
        | x :: _ => x.kind
        | [] => 0
      let q : TmbReq :=
        { core := s.cur.core, strand := s.cur.strand, form := form, d := d.toNat, ptr := P, o0 := s.cap 1, o1 := s.cap 2
          slot := s.qb 3 b, tref := e.tref, bundle := e.bundle, widx := e.widx, seq := e.seq, tenant := p.tenant
          node := p.node, codeten := p.codeten, rtnoff := p.kf 256 32, line := line, kind := kind, tag := s.free }
      let v := if isRelForm form then t.tell (t.knower s.cur.core s.cur.strand) (.mail s.free) else t
      let u := { v with tmbs := v.tmbs ++ [q] }
      .next (if tmbStays form then u.modHead fun e => { e with wait := some form } else u.finish)

/-- tmb.rlx (R355). -/
def execTmbRlx (d _a : XReg) (b : SrcB) (s : State) : Res := s.tmb 0x10 d b
/-- tmb.acq (R355). -/
def execTmbAcq (d _a : XReg) (b : SrcB) (s : State) : Res := s.tmb 0x11 d b
/-- tmb.rel (R355). -/
def execTmbRel (d _a : XReg) (b : SrcB) (s : State) : Res := s.tmb 0x12 d b
/-- tmb.t.rlx (R355). -/
def execTmbTRlx (d _a : XReg) (b : SrcB) (s : State) : Res := s.tmb 0x14 d b
/-- tmb.t.acq (R355). -/
def execTmbTAcq (d _a : XReg) (b : SrcB) (s : State) : Res := s.tmb 0x15 d b
/-- tmb.t.rel (R355). -/
def execTmbTRel (d _a : XReg) (b : SrcB) (s : State) : Res := s.tmb 0x16 d b

/-- The cause that a returned result raises: 0x76 of an install that failed, 0xA6 of a poisoned line, and 0x75 or 0x74 of the .t
forms (R353, R471). -/
def TmbReq.cause (q : TmbReq) (status : W64) : Option (Nat × W64) :=
  match q.fault with
  | some k => some k
  | none =>
    if q.form < 0x14 then none
    else match status.toNat % 4 with
      | 1 => some (0x75, status)
      | 2 => some (0x74, status)
      | _ => none

/-- TMB_RESULT_RETURN: the result and status reach x[d] and x[d+1]; a form that stayed at the head completes or raises
its cause there, and 0x76 of the others is an engine report (R353, R356). -/
def execTmbResultReturn (s : State) : Res :=
  match s.tmbs[s.arg.n]? with
  | none => .next s
  | some q =>
    match q.ran with
    | none => .next s
    | some (v, status) =>
      let s1 := { s with tmbs := s.tmbs.eraseIdx s.arg.n }
      if q.dead then .next s1
      else
        let s2 := if isAcqForm q.form then s1.pass (.mail q.tag) (s1.knower q.core q.strand) else s1.forget (.mail q.tag)
        let t := s2.modStrand q.core q.strand fun st => (st.wx q.d v).wx (q.d + 1) status
        let k := q.cause status
        if tmbStays q.form then
          let head := ((t.strand q.core q.strand).ea.headD {})
          let u := { t with cur := { core := q.core, strand := q.strand, unit := .ea, entry := { head with wait := none } } }
          let w := u.modHead fun e => { e with wait := none }
          .next (match k with
            | none => w.finish
            | some (c, val) => w.raiseHead c val)
        else
          .next (match k with
            | none => t
            | some (c, val) => t.reportTo q.core q.strand (s.placement q.core).node c q.bundle val q.seq)

/-! ### Eviction -/

/-- SECTOR_EVICTION: a line that may leave L2 does, and the bytes that it holds are written back (R213, R219, R343, R344). -/
def execSectorEviction (s : State) : Res :=
  let n := s.arg.n
  if !Map.has s.l2 n || !s.mayEvict n then .next s else .next (s.evictLine n)

end Sys2Proof.Machine
end

