-- ==== Sys2Proof/Machine/Streams.lean ====
section
/-!
DEFINITION. The stream controller and the encoders: set-up, stop, anchors, FRAME, sstat, encsub, and the encoders' work
(R30, R445 to R464).
-/

namespace Sys2Proof.Machine

/-! ### Pinned lines (R30, R344, R480) -/

/-- The line numbers of 256-byte blocks of a flat tensor, from an aligned offset up, through the memory port; the cause of
the first that fails, 0x28 for one that is not in this chip's GDDR7. -/
def State.lineNos (s : State) (tenant : Nat) (ref : W64) (off : Nat) : Nat → Except Nat (List Nat) × State
  | 0 => (.ok [], s)
  | n + 1 =>
    match s.flatBytes .memory tenant ref (off : Int) 1 false with
    | (.error k, t) => (.error k, t)
    | (.ok [.dev a], t) =>
      match State.lineNos t tenant ref (off + 256) n with
      | (.error k, u) => (.error k, u)
      | (.ok l, u) => (.ok (a / 256 :: l), u)
    | (.ok _, t) => (.error 0x28, t)

/-- The lines that are pinned. -/
def State.pinned (s : State) : List Nat := (s.l2.filter fun p => !p.2.pins.isEmpty).map Prod.fst

/-- Whether pinning these lines would take the pinned L2 above 384 MiB. -/
def State.pinsTooMany (s : State) (new : List Nat) : Bool := decide (384 * 4096 < s.pinned.length + new.length)

/-- Whether pinning these lines would give a set more than six pinned lines. -/
def State.setTooFull (s : State) (new : List Nat) : Bool :=
  let all := s.pinned ++ new
  new.any fun n => decide (6 < (all.filter fun m => setOf m == setOf n).length)

/-- Pin lines for an owner: a stream, or 64 for the pin command. A line that L2 does not hold comes into its set, whose 12 ways hold at most
six that are pinned (R342, R344). -/
def State.pinLines (s : State) (owner : Nat) (lines : List Nat) : State :=
  lines.foldl (fun s n =>
    let l := s.line n
    s.putLine n { l with pins := if l.pins.contains owner then l.pins else owner :: l.pins }) s

/-- Unpin the lines of an owner that `p` picks out. -/
def State.unpinLines (s : State) (owner : Nat) (p : Nat → Bool) : State :=
  let drop : Nat × Line → Nat × Line := fun q => if p q.1 then (q.1, { q.2 with pins := q.2.pins.filter fun o => o != owner }) else q
  { s with l2 := s.l2.map drop }

/-! ### Set-up (R447 to R449, R457, R459) -/

/-- Whether a rung record is legal; its reserved bits are ignored (R5). -/
def rungOk (hevc : Bool) (r : Nat) : Bool :=
  let w := bitsAt r 16 12
  let h := bitsAt r 28 12
  let rc := bitsAt r 40 2
  decide (4 ≤ w) && decide (w ≤ 240) && decide (4 ≤ h) && decide (h ≤ 135) &&
    decide (rc ≠ 3) && (!hevc || decide (bitsAt r 42 8 ≤ 51)) && (decide (rc = 0) || decide (bitsAt r 64 32 ≠ 0)) &&
    (decide (rc ≠ 2) || decide (bitsAt r 64 32 ≤ bitsAt r 96 32))

/-- W·H at the largest rung. -/
def Stream.area (x : Stream) : Nat := (List.range x.nrungs).foldl (fun m k => max m (x.width k * x.height k)) 0

/-- Whether the fields of a descriptor are legal; its reserved bits are ignored (R5). -/
def Stream.fieldsOk (x : Stream) : Bool :=
  let f := x.f
  let osize := f 480 32
  decide (f 16 3 ≠ 0) && decide (f 22 3 < x.nrungs) && decide (8333333 ≤ f 32 32) && decide (f 64 32 ≠ 0) && decide (f 96 8 ≠ 0) &&
    decide (f 320 32 % 256 = 0) && decide (f 352 32 % 256 = 0) && decide (f 448 32 % 64 = 0) && decide (f 576 32 % 4096 = 0) &&
    decide (2 ^ 16 ≤ osize) && decide (osize ≤ 2 ^ 30) && decide (2 ^ Nat.log2 osize = osize) &&
    ((List.range x.nrungs).all fun k => rungOk (decide (f 13 1 = 1)) (x.rungRec k)) &&
    decide (3 * x.area ≤ f 352 32) && decide (12 * x.area ≤ f 608 32)

/-- The frame ring of a stream, through the memory port, or the cause: its ring word, resolved against rref each time that the
controller or the encoder uses it (R287, R448). -/
def State.frameRing (s : State) (x : Stream) : Except Nat RingName × State :=
  let w := w64 (x.f 192 64)
  if !w.getLsbD 63 || bitsAt w.toNat 52 11 ≠ 0 || ptrCoord w % 256 ≠ 0 then (.error 0x49, s)
  else
    match s.flatBytes .memory x.tenant (w64 (x.f 640 64)) (ptrCoord w : Int) 256 true with
    | (.ok ls, t) => (if ls.all Loc.isDev then .ok (.global ((ls.map Loc.addr).headD 0)) else .error 0x49, t)
    | (.error k, t) => (.error k, t)

/-- An operation on the frame ring of a stream is performed, a store to its control line (R214, R277). -/
def State.setFrameRing (s : State) (x : Stream) (name : RingName) (r : Ring) : State :=
  (s.flatStored .memory x.tenant (w64 (x.f 640 64)) (ptrCoord (w64 (x.f 192 64)) : Int) 1).setRing name r

/-- Whether a frame ring is as a descriptor asks. -/
def ringFits (r : Ring) (frames : Nat) : Bool :=
  r.valid && r.count == frames && r.stride == 0 && r.claimed == 0 && (List.range r.count).all fun k => r.slot k == 0

/-- Whether a reference names a flat tensor of a tenant. -/
def State.flatRef (s : State) (tenant : Nat) (ref : W64) : Bool :=
  match s.desc tenant ref with
  | .ok d => d.flat
  | .error _ => false

/-- Whether the load of an encoder, exactly, stays within its bound with these streams on it, each given by W·H at its
largest rung and its period (R457). -/
def loadOk (l : List (Nat × Nat)) : Bool :=
  let (n, d) := l.foldl (fun (acc : Nat × Nat) p => (acc.1 * p.2 + p.1 * 8333333 * acc.2, acc.2 * p.2)) (0, 1)
  decide (n ≤ 8294400 * d)

/-- The address of a global ring's control line. -/
def RingName.addr : RingName → Nat
  | .global a => a
  | .local _ _ => 0

/-- Set up stream `n` with a descriptor: the result code, and the state. What anchors an earlier set-up of the stream has left live
stay so (R447, R461). -/
def State.setup (s : State) (n : Nat) (desc : BitVec 2048) : Nat × State :=
  let x0 : Stream := { active := true, desc := desc, tenant := (s.fq (bitsAt desc.toNat 0 10)).tenant, anchors := (s.stream n).anchors }
  let tenant := x0.tenant
  let ref := fun lo => w64 (x0.f lo 64)
  if (s.stream n).active || (s.boundStream x0.queue).isSome then (1, s)
  else if !x0.fieldsOk || !(s.flatRef tenant (ref 256) && s.flatRef tenant (ref 384) && s.flatRef tenant (ref 512)) then (2, s)
  else
    match s.frameRing x0 with
    | (.error _, t) => (2, t)
    | (.ok name, t) =>
      let a := name.addr
      if !ringFits (t.ring name) x0.frames then (2, t)
      else
        match t.lineNos tenant (ref 256) (x0.f 320 32) (x0.frames * x0.f 352 32 / 256) with
        | (.error _, u) => (2, u)
        | (.ok ls, v) =>
          match v.lineNos tenant (ref 512) (x0.f 576 32) (ceilDiv (x0.f 608 32) 256) with
          | (.error _, u) => (2, u)
          | (.ok _, u) =>
          let new := ((a / 256 :: ls).filter fun l => (u.line l).pins.isEmpty).eraseDups
          let mates := (u.streams.filter fun p => p.2.active && p.2.enc == x0.enc).map fun p => (p.2.area, p.2.f 32 32)
          if u.pinsTooMany new then (3, u)
          else if u.setTooFull new then (4, u)
          else if 8 ≤ mates.length || !loadOk ((x0.area, x0.f 32 32) :: mates) then (5, u)
          else
            (0, (u.pinLines n (a / 256 :: ls)).modStream n fun _ => { x0 with rung := x0.f 22 3 })

/-- Stop a stream: a frame that has not started is evaluated late, with no record; its lines are unpinned, its ring's slots freed, and it
is inactive; a FRAME of its queue that waits stops the queue (R447, R454). -/
def State.stopStream (s : State) (n : Nat) : State :=
  let x := s.stream n
  let t0 := if 0 < (s.fq x.queue).framing then s.queueError x.queue 0x0A (s.fq x.queue).consume 0 else s
  let t := t0.unpinLines n fun _ => true
  let u := match t.frameRing x with
    | (.ok name, v) => v.setFrameRing x name { v.ring name with slots := [], claimed := 0 }
    | (.error _, v) => v
  u.modStream n fun x => { (if x.judged then x else x.judge x.begun true) with active := false }

/-- The result word of a STREAM packet is written: one 8-byte store (R446). -/
def State.streamResult (s : State) (q : Nat) (p : BitVec 512) (code : Nat) : State :=
  match s.portWrite (s.fq q).tenant (w64 (pf p 192 64)) (pf p 256 32) (leBytes 8 code) with
  | (.error _, t) => t.packetError q 0x09 0
  | (.ok _, t) => t.consumed q

/-- A STREAM packet of one op, where its checks pass; `f` is what it does then (R425, R446). -/
def State.streamPacket (s : State) (op : Nat) (f : State → Nat → BitVec 512 → State) : Res :=
  s.onPacket (fun p => pktType p == 6 && (pf p 8 2 == op || pf p 8 2 == 3)) fun s q p =>
    if pf p 8 2 = 3 || pf p 10 6 ≠ 0 || pf p 22 10 ≠ 0 || pf p 40 24 ≠ 0 || pf p 160 32 ≠ 0 || pf p 288 224 ≠ 0 ||
        pf p 256 32 % 8 ≠ 0 || (op = 0 && pf p 128 32 % 64 ≠ 0) then s.packetError q 0x02 0
    else if (s.fq q).fn ≠ 0 then s.packetError q 0x04 0
    else
      match s.portSpan (s.fq q).tenant (w64 (pf p 192 64)) (pf p 256 32) 8 true with
      | (.error _, t) => t.packetError q 0x09 0
      | (.ok _, t) => f t q p

/-- STREAM_SETUP (R446, R447). -/
def execStreamSetup (s : State) : Res :=
  s.streamPacket 0 fun s q p =>
    match s.portRead (s.fq q).tenant (w64 (pf p 64 64)) (pf p 128 32) 256 with
    | (.error _, t) => t.packetError q 0x09 0
    | (.ok bs, t) =>
      let (code, u) := t.setup (pf p 16 6) (BitVec.ofNat 2048 (leNat bs))
      u.streamResult q p code

/-- STREAM_STOP: an evaluation that it makes comes in a later sclk than an sstat that has read the stream (R446, R447, R454). -/
def execStreamStop (s : State) : Res :=
  s.streamPacket 1 fun s q p =>
    let n := pf p 16 6
    if !(s.stream n).active then s.streamResult q p 1
    else if !(s.stream n).fifo.isEmpty || (!(s.stream n).judged && s.seenBy n) then s.holdPacket q p
    else (s.stopStream n).streamResult q p 0

/-- STREAM_RELEASE_ANCHORS (R446, R447, R462). -/
def execStreamReleaseAnchors (s : State) : Res :=
  s.streamPacket 2 fun s q p =>
    let n := pf p 16 6
    let m := pf p 32 8
    if !(s.stream n).active then s.streamResult q p 1
    else
      let t := s.modStream n fun x => { x with anchors := x.anchors &&& ~~~(BitVec.ofNat 8 m) }
      (t.placeRec srcStreams (recData 10 0 n (s.stream n).enc false 0 0 (w64 m))).streamResult q p 0

/-! ### FRAME (R452, R454) -/

/-- FRAME: the frame number advances, and a frame before it that has not started is evaluated late. In one sclk, a start comes before it,
and it before an sstat. -/
def execFrame (s : State) : Res :=
  s.onPacket (fun p => pktType p == 7) fun s q p =>
    if 0 < (s.fq q).framing then s
    else if pf p 8 8 ≠ 0 || pf p 22 490 ≠ 0 then s.packetError q 0x02 0
    else
      let n := pf p 16 6
      if s.boundStream q ≠ some n then s.packetError q 0x0A 0
      else
        if !s.mayServe (unitStream n) 1 || s.seenBy n then s
        else
          let t := (if (s.stream n).judged then s else s.judge n (s.stream n).begun true).servedAs (unitStream n) 1
          ((t.modStream n fun x => { x with frame := x.frame + 1, judged := false }).holdPacket q p).modQ q fun k => { k with framing := 1 }

/-- FRAME_RELEASE: TIME reaches the frame's release. -/
def execFrameRelease (s : State) : Res :=
  let q := s.arg.n
  match s.boundStream q with
  | none => .next s
  | some n =>
    let x := s.stream n
    if (s.fq q).framing ≠ 1 || s.time.toNat < x.releaseAt (x.frame - 1) then .next s
    else .next (s.modQ q fun k => { k with framing := 2 })

/-- FRAME_SLOT_CLAIM: the tail slot is claimed as rclaim does, and the frame becomes the current one. A cause that the control line meets
stops the queue with queue error 0x09 (log entry 64). -/
def execFrameSlotClaim (s : State) : Res :=
  let q := s.arg.n
  match s.boundStream q with
  | none => .next s
  | some n =>
    if (s.fq q).framing ≠ 2 || !s.threadRuns q then .next s
    else
      let x := s.stream n
      match s.frameRing x with
      | (.error _, t) => .next (t.packetError q 0x09 0)
      | (.ok name, t) =>
        match (t.ring name).ask { core := n, agent := 9, claims := true } 0 with
        | (none, r) => .next (t.setRing name r)
        | (some k, r) =>
          let f := x.begun
          let rel := w64 (x.releaseAt f)
          let dl := rel + w64 (x.f 64 32)
          .next (State.consumed ((t.setFrameRing x name r).modStream n fun x => { x with
            cur := some f, started := false, judged := false, headed := false, frung := 0, late := false, drop := false, climb := false
            slack := 0, release := rel, deadline := dl, slot := k, claimed := x.claimed ++ [{ slot := k, frame := f, deadline := dl }] }) q)

/-! ### sstat (R455) -/

/-- The status word. -/
def Stream.status (x : Stream) : W64 :=
  let b := fun v => natOf (x.started && v)
  w64 (x.rung + 2 ^ 3 * (if x.started then x.frung else x.rung) + 2 ^ 6 * b x.late + 2 ^ 8 * x.run + 2 ^ 12 * b x.drop +
    2 ^ 13 * b x.climb + 2 ^ 16 * x.anchors.toNat + 2 ^ 32 * (match x.cur with
      | some f => f % 2 ^ 32
      | none => 0xFFFFFFFF))

/-- The bits of a rung record that are not reserved; reserved ones read 0 (R5, R449). -/
def rungMask : Nat := 2 ^ 128 - 1 - (2 ^ 7 - 1) * 2 ^ 9 - (2 ^ 14 - 1) * 2 ^ 50

/-- An item of a stream. -/
def Stream.item (x : Stream) (sel : Nat) : W64 :=
  match sel with
  | 0 => x.status
  | 1 => x.slack
  | 2 => x.release
  | 3 => x.deadline
  | 4 => w64 (bitsAt (x.rungRec x.rung &&& rungMask) 0 64)
  | 5 => w64 (bitsAt (x.rungRec x.rung &&& rungMask) 64 64)
  | 6 => w64 x.slot
  | _ => x.encoded

/-- The active stream that the executing placement's node is bound to (R445). -/
def State.myStream (s : State) : Option Nat :=
  match (s.node s.myPlace.node).bound with
  | some n => if (s.stream n).active then some n else none
  | none => none

/-- sstat: what it reads is what stands behind every evaluation of the sclk (R454, R455, R464, R483). -/
def execSstat (d : XReg) (sel : BitVec 6) (s : State) : Res :=
  if 7 < sel.toNat then .next (s.issued.raiseAfter 0x01 0)
  else
    match s.myStream with
    | none => .next (s.issued.raiseAfter 0x6E 0)
    | some n => .next ((s.issued.wx d ((s.stream n).item sel.toNat)).modMe fun st => { st with saw := some (n, s.tick) })

/-! ### encsub (R456) -/

/-- Whether a submission is legal: the claim that it names. -/
def Stream.submission (x : Stream) (w : Nat) : Option Claimed :=
  if bitsAt w 11 53 ≠ 0 || x.frames ≤ bitsAt w 0 3 || x.nrungs ≤ bitsAt w 4 3 || (bitsAt w 7 1 = 1 && x.anchors.getLsbD (bitsAt w 8 3)) then none
  else x.claimed.find? fun c => c.slot == bitsAt w 0 3

/-- A submission enters the stream's FIFO; a stream in fault ignores it (R456, R463). -/
def Stream.submit (x : Stream) (w : Nat) (c : Claimed) : Stream :=
  let sub : EncSub := { frame := c.frame, deadline := c.deadline, slot := c.slot, key := decide (bitsAt w 3 1 = 1), rung := bitsAt w 4 3 }
  { x with
    claimed := x.claimed.filter (fun d => d != c)
    anchors := if bitsAt w 7 1 = 1 then x.anchors ||| ((1 : BitVec 8) <<< bitsAt w 8 3) else x.anchors
    fifo := if x.fault then x.fifo else x.fifo ++ [sub] }

/-- encsub at the head of EA: the checks, then the release, then the FIFO (R456). -/
def execEncsub (_a : XReg) (s : State) : Res :=
  let e := s.cur.entry
  let w := s.cap 0
  match s.myStream with
  | none => .next (s.raiseHead 0x6E 0)
  | some n =>
    match (s.stream n).submission w.toNat with
    | none => .next (s.raiseHead 0x6F w)
    | some c =>
      if !s.performed s.cur.core s.cur.strand (fun x => x.before e) || 8 ≤ ((s.stream n).fifo.filter fun q => !q.picked).length then .next s
      else .next ((s.modStream n fun x => x.submit w.toNat c).finish)

/-! ### The encoders (R457, R458, R460, R463) -/

/-- The streams that an encoder serves. -/
def State.streamsOf (s : State) (e : Nat) : List (Nat × Stream) :=
  s.streams.filter fun p => p.2.active && p.2.enc == e && !p.2.fault && !p.2.fifo.isEmpty

/-- The first submission of a stream. -/
def Stream.first (x : Stream) : EncSub := x.fifo.headD {}

/-- Change the first submission of a stream. -/
def Stream.modFirst (x : Stream) (f : EncSub → EncSub) : Stream :=
  { x with fifo := match x.fifo with
    | [] => []
    | q :: l => f q :: l }

/-- The stream whose submission an encoder works on next: the one picked already, else the earliest frame deadline, the
lower stream number on ties. -/
def State.encoderPick (s : State) (e : Nat) : Option Nat :=
  let l := s.streamsOf e
  match l.find? fun p => p.2.first.picked with
  | some p => some p.1
  | none => (sortBy (earlier fun n => (s.stream n).first.deadline.toNat) (l.map Prod.fst)).head?

/-- A stream fault: its record, and the encoder ignores the stream from then on (R462, R463). -/
def State.streamFault (s : State) (n cause : Nat) : State :=
  let x := s.stream n
  (s.modStream n fun x => { x with fault := true, fifo := [] }).placeRec (srcEncoder x.enc)
    (recData 11 cause n x.enc false 0 0 (w64 (cause % 256 + 2 ^ 32 * (x.first.frame % 2 ^ 32))))

/-- The lines of the buffer that the first submission of a stream names, as far as the frame at its rung goes (R450). -/
def State.frameLines (s : State) (x : Stream) : Except Nat (List Nat) × State :=
  let q := x.first
  s.lineNos x.tenant (w64 (x.f 256 64)) (x.f 320 32 + q.slot * x.f 352 32) (ceilDiv (3 * x.width q.rung * x.height q.rung) 256)

/-- The offset of the container of a sample in a frame of width `w`: of plane `p`, luma, Cb or Cr, in column `i` of row `j` (R450). -/
def sampleAt (w p i j : Nat) : Nat :=
  let n := if p = 0 then 16 else 8
  768 * (j / n * (w / 16) + i / n) + 2 * ((if p = 0 then 0 else 192 + 64 * p) + j % n * n + i % n)

/-- Byte `o` of what lies in lines of L2 one after another, and the byte after it, as a number. -/
def State.container (s : State) (ls : List Nat) (o : Nat) : Nat := s.devRead (256 * ls.getD (o / 256) 0 + o % 256) 2

/-- The samples of the frame that the first submission of a stream names: of luma, Cb and Cr, row by row, each the low 8 or 10 bits of
its container (R450). -/
def State.frameSamples (s : State) (x : Stream) (ls : List Nat) : List Nat :=
  let w := x.width x.first.rung
  let h := x.height x.first.rung
  ([0, 1, 2] : List Nat).flatMap fun p =>
    let n := if p = 0 then 1 else 2
    (List.range (h / n)).flatMap fun j => (List.range (w / n)).map fun i =>
      s.container ls (sampleAt w p i j) % 2 ^ (if x.f 14 1 = 1 then 10 else 8)

/-- Whether a submission is coded as a key frame (R460). -/
def Stream.keyFrame (x : Stream) : Bool :=
  let q := x.first
  let f := q.frame
  let keyint := x.f 104 8
  decide (f = 0) || q.key || (decide (keyint ≠ 0) && decide (keyint ≤ f - x.lastKey.getD 0)) ||
    decide (x.width q.rung ≠ x.lastW) || decide (x.height q.rung ≠ x.lastH)

/-- The frame that the first submission of a stream names is read, and coded against the references in the work area, which takes what
coding stores there; the payload waits for its record (R450, R457, R459, R460). -/
def State.codeFrame (s : State) (n : Nat) (ls ws : List Nat) : State :=
  let x := s.stream n
  let key := x.keyFrame
  let samples := s.frameSamples x ls
  let work := ((ws.flatMap fun a => (List.range 256).map fun i => s.devGet (256 * a + i))).take (x.f 608 32)
  let form := x.f 13 2
  let rung := x.rungRec x.first.rung
  let stores := (Config.codedWork s.free form rung key x.first.frame samples work).filter fun p => decide (p.1 < x.f 608 32)
  let t := stores.foldl (fun s p => s.flatStored .memory x.tenant (w64 (x.f 512 64)) (x.f 576 32 + p.1 : Nat) 1) ((ls ++ ws).foldl (fun s a => s.fillSectors (4 * a) 4) s)
  (t.locWrites (stores.map fun p => (.dev (256 * ws.getD (p.1 / 256) 0 + p.1 % 256), p.2))).modStream n fun x => x.modFirst fun q =>
    { q with picked := true, taken := true, asKey := key, pay := Config.codedFrame s.free form rung key x.first.frame samples work }

/-- ENCODER_TAKE_SLOT: encoder `arg.n` takes the ring's head slot as rwait does, reads the frame and codes it (R450, R457, R459,
R460). -/
def execEncoderTakeSlot (s : State) : Res :=
  match s.encoderPick s.arg.n with
  | none => .next s
  | some n =>
    let x := s.stream n
    if x.first.taken then .next s
    else
      match s.frameRing x with
      | (.error k, t) => .next (t.streamFault n k)
      | (.ok name, t) =>
        match (t.ring name).ask { core := n, agent := 10, claims := false } 0 with
        | (none, r) => .next ((t.setRing name r).modStream n fun x => x.modFirst fun q => { q with picked := true })
        | (some k, r) =>
          let u := t.setFrameRing x name r
          if k ≠ x.first.slot then .next (u.streamFault n 0x7E)
          else
            let (frame?, v) := u.frameLines x
            let (work?, w) := v.lineNos x.tenant (w64 (x.f 512 64)) (x.f 576 32) (ceilDiv (x.f 608 32) 256)
            .next (match frame?, work? with
              | .ok ls, .ok ws => if w.poison.any fun q => (ls ++ ws).contains (q / 4) then (w.streamFault n 0xA6).bbEvent 4 0xA6 x.tenant 0 0 else w.codeFrame n ls ws
              | .error k, _ => w.streamFault n k
              | _, .error k => w.streamFault n k)

/-- A record header (R458). -/
def recordHeader (pay frame stream flags rung : Nat) (time : W64) : List Byte :=
  leBytes 4 pay ++ leBytes 4 frame ++ leBytes 1 stream ++ leBytes 1 flags ++ leBytes 1 rung ++ List.replicate 5 0 ++ leBytes 8 time.toNat ++
    List.replicate 8 0

/-- Write parts of the output ring, and last the producer count; the first cause ends it, with nothing written after it. -/
def State.ringWrites (s : State) (tenant : Nat) (ref : W64) : List (Nat × List Byte) → Option Nat × State
  | [] => (none, s)
  | (off, bs) :: l =>
    match s.portWrite tenant ref off bs with
    | (.error k, t) => (some k, t)
    | (.ok _, t) => State.ringWrites t tenant ref l

/-- A number of 8 bytes through the memory port. -/
def State.portNat (s : State) (tenant : Nat) (ref : W64) (off : Nat) : Except Nat Nat × State :=
  match s.portRead tenant ref off 8 with
  | (.error k, t) => (.error k, t)
  | (.ok bs, t) => (.ok (leNat bs), t)

/-- A stream counts the frame that its first submission names as encoded, and the submission leaves (R455, R460). -/
def State.frameCounted (s : State) (n : Nat) : State :=
  let q := (s.stream n).first
  s.modStream n fun x => { x with
    encoded := x.encoded + 1, fifo := x.fifo.tail, lastW := x.width q.rung, lastH := x.height q.rung
    lastKey := if q.asKey then some q.frame else x.lastKey }

/-- The frame of stream `n` is encoded: its counts, its slot and its record (R457, R458, R460, R462). -/
def State.encodedFrame (s : State) (n : Nat) (late : Bool) : State :=
  let x := s.stream n
  let q := x.first
  let t := s.frameCounted n
  let u := match t.frameRing x with
    | (.ok name, v) => (match (v.ring name).release q.slot with
      | some r => v.setFrameRing x name r
      | none => v)
    | (.error _, v) => v
  u.placeRec (srcEncoder x.enc) (recData 8 0 n x.enc late 0 0 (w64 (q.frame % 2 ^ 32 + 2 ^ 32 * natOf q.asKey + 2 ^ 33 * (q.rung % 8))))

/-- ENCODER_RECORD_PUBLISH: with room in the output ring, the record of the frame that encoder `arg.n` has taken and coded is written
and published (R457 to R460). -/
def execEncoderRecordPublish (s : State) : Res :=
  match s.encoderPick s.arg.n with
  | none => .next s
  | some n =>
    let x := s.stream n
    let q := x.first
    if !q.taken then .next s
    else
      let ref := w64 (x.f 384 64)
      let ooff := x.f 448 32
      let osize := x.f 480 32
      let pay := q.pay.length
      let size := 64 * ceilDiv (32 + pay) 64
      let (prod?, t1) := s.portNat x.tenant ref (ooff + osize)
      let (cons?, t2) := t1.portNat x.tenant ref (ooff + osize + 8)
      .next (s.unlessHeld (match prod?, cons? with
        | .ok prod, .ok cons =>
          let pos := prod % osize
          let pad := if osize < pos + size then osize - pos else 0
          let late := decide (q.deadline.toNat < s.time.toNat)
          let head := fun p flags => recordHeader p q.frame n flags q.rung s.time
          let at_ := ooff + (pos + pad) % osize
          let flags := natOf q.asKey + 2 * natOf late + 8 * bitsAt (x.rungRec q.rung) 8 1
          if osize < (prod + 2 ^ 64 - cons) % 2 ^ 64 + pad + size then s
          else
            match t2.ringWrites x.tenant ref ((if pad = 0 then [] else [(ooff + pos, head (pad - 32) 4)]) ++
                [(at_ + 32, q.pay), (at_, head pay flags), (ooff + osize, leBytes 8 (prod + pad + size))]) with
            | (some k, t) => t.streamFault n k
            | (none, t) => t.encodedFrame n late
        | .error k, _ => t2.streamFault n k
        | _, .error k => t2.streamFault n k))

end Sys2Proof.Machine
end

