-- ==== Sys2Proof/Machine/Boot.lean ====
section
/-!
DEFINITION. The planes: power, reset and boot, firmware restarts, the clocks, the host link's registers, and the events of
the management plane (R6 to R8, R18 to R20, R28, R417, R465 to R467, R470 to R476, R481).
-/

namespace Sys2Proof.Machine

/-! ### Firmware (R465, R466) -/

/-- The image in a firmware slot. -/
def State.slotImage (s : State) (slot : Nat) : List Byte :=
  if Map.has s.mg.flash slot then Map.get [] s.mg.flash slot else Config.flashImage slot

/-- The rollback floor in force. -/
def State.floorNow (s : State) : BitVec 32 := if Config.fusedFloor.toNat < s.mg.floor.toNat then s.mg.floor else Config.fusedFloor

/-- The header of an image (R465). -/
def imageHeader (img : List Byte) : List Byte := img.take 4096

/-- The management, front-end or encoder image: behind the header, one after another, by the lengths that the header gives (R465; log
entry 9). -/
def imageOf (img : List Byte) (k : Nat) : List Byte :=
  (img.drop (4096 + ((List.range k).map (Config.imageLength img)).sum)).take (Config.imageLength img k)

/-- The check that an image fails, each signature with the fused digest of its key: 1 the RSA signature, 2 the SLH-DSA signature, 3 a digest, 4 the security version. -/
def State.imageFails (s : State) (img : List Byte) : Option Nat :=
  let signed := (imageHeader img).take (Config.signedBytes img)
  let keyOk := fun (k : Nat) => decide (sha384 (Config.imageSign img (2 + k)) = Config.fusedKey k)
  if !(keyOk 0 && Config.rsaVerifies (Config.imageSign img 2) signed (Config.imageSign img 0)) then some 1
  else if !(keyOk 1 && Config.slhVerifies (Config.imageSign img 3) signed (Config.imageSign img 1)) then some 2
  else if !([0, 1, 2] : List Nat).all fun k => decide (sha384 (imageOf img k) = Config.imageDigest img k) then some 3
  else if (Config.imageVersion img).toNat < s.floorNow.toNat then some 4
  else none

/-- The measurement registers for an image: the header, then each image (R468). -/
def measuresOf (img : List Byte) : List (BitVec 384) :=
  sha384 (imageHeader img) :: ([0, 1, 2] : List Nat).map fun k => sha384 (imageOf img k)

/-- The slots in the order in which boot tries them. -/
def bootOrder : List Nat := if Config.fusedPreference then [1, 0] else [0, 1]

/-- Boot tries a list of slots: the first that verifies runs, a failure is recorded, and with none the control and data
planes stay in reset (R18, R466, R467, R472). -/
def State.bootFrom (s : State) : List Nat → State
  | [] => { s with mg := { s.mg with recovery := true } }
  | k :: ks =>
    match s.imageFails (s.slotImage k) with
    | some c => State.bootFrom (s.bbEvent 2 0 0 0 (BitVec.ofNat 128 (c + 2 ^ 8 * k))) ks
    | none =>
      let t := s.bbEvent 1 0 0 0 (BitVec.ofNat 128 k)
      { t with mg := { t.mg with booted := some k, measures := measuresOf (s.slotImage k) }, fe := { t.fe with up := true } }

/-- The management plane starts and boots, with a new device key (R18, R465 to R469). -/
def State.boot (s : State) : State :=
  State.bootFrom { s with mg := { s.mg with up := true }, keys := Map.put s.keys 1024 (Config.deviceKey s.free) } bootOrder

/-- The device in reset: what survives is boot flash and fuses, and what is not the device's. -/
def State.inReset (s : State) : State :=
  { State.reset with
    agenda := s.agenda, arg := s.arg, free := s.free, host := s.host, peers := s.peers
    mg := { State.reset.mg with flash := s.mg.flash, floor := s.mg.floor } }

/-- POWER_ON_RESET: TIME starts at 0, and the management plane boots (R8, R18). -/
def execPowerOnReset (s : State) : Res := .next s.inReset.boot

/-- MODULE_RESET: the management plane boots again, with the control and data planes in reset; TIME goes on and the
black-box record survives (R8, R18, R473). -/
def execModuleReset (s : State) : Res :=
  .next (State.boot { s.inReset with time := s.time, blackBox := s.blackBox, bbFrozen := s.bbFrozen })

/-- LOSS_OF_POWER: all volatile state is lost, the black-box record too (R473). -/
def execLossOfPower (s : State) : Res := .next s.inReset

/-- FRONT_END_READY: the front end sets its ready bit in telemetry register 0 (R18, R476). -/
def execFrontEndReady (s : State) : Res :=
  if s.mg.up && s.fe.up then .next { s with mg := { s.mg with feReady := true } } else .next s

/-- DATA_PLANE_RELEASE: once it has seen the ready bit, the management core releases the data plane, and CYC starts at 0
(R8, R18). -/
def execDataPlaneRelease (s : State) : Res :=
  if s.mg.up && s.mg.feReady && !s.mg.dataUp then .next { s with mg := { s.mg with dataUp := true }, cyc := 0, half := false } else .next s

/-- FRONT_END_FIRMWARE_RESTART: firmware stops, or, stopped, runs again: it takes the latched index of each queue that it
serves again, and resumes at consume (R19, R420). -/
def execFrontEndFirmwareRestart (s : State) : Res :=
  if s.mg.booted.isNone then .next s
  else if s.fe.up then .next { s with fe := { s.fe with up := false } }
  else
    let again : Queue → Queue := fun k => if k.mapped then { k with taken := w32 k.latched, pending := false, pre := [] } else k
    .next { s with fe := { s.fe with up := true, queues := s.fe.queues.map fun p => (p.1, again p.2) } }

/-- MANAGEMENT_CORE_RESET: the management core stops, or, stopped, runs again; nothing else stops, commands wait in their
FIFOs, and keys stay loaded (R20). -/
def execManagementCoreReset (s : State) : Res :=
  if s.mg.booted.isNone then .next s else .next { s with mg := { s.mg with up := !s.mg.up } }

/-! ### Clocks (R6 to R8) -/

/-- The event counters of a strand as a clk starts (R136). -/
def Strand.newClk (st : Strand) : Strand := { st with e0 := st.e }

/-- The strands of a core as a clk starts. -/
def Core.newClk (k : Core) : Core := { k with strands := k.strands.map fun p => (p.1, p.2.newClk) }

/-- Whether a strand has something that belongs to this clk still to do: a bundle to issue or a wait to end, a wfe that has waited
out its limit, or a probe or pgreq that has had its time (R128, R131, R247, R283). -/
def State.strandDue (s : State) (c h : Nat) : Bool :=
  s.seqDue c h || (s.strand c h).wfeDue s.cyc || s.lateDue c h

/-- Whether something that belongs to this clk is still to be done: what strands do, grants of the hasp, operands of the array, increments
and arrivals that have had their 64 clk, deliveries, and collectives that a pre-emption has waited for long enough (R128, R138, R252,
R254, R320, R324, R414). -/
def State.clkDue (s : State) : Bool :=
  s.mustDeliver || s.incrDue || s.arrivalDue remotePlace ||
    s.fab.colls.any s.collLate || s.cores.any fun p => s.grantDue p.1 || p.2.mxDue s.cyc || ([0, 1, 2, 3] : List Nat).any fun h => s.strandDue p.1 h

/-- CLK_EDGE: an edge of clk: CYC advances by one on every core, and every strand sees its event counters as they stand.
With `flag`, the edge of sclk that lies between two edges of clk; without it, both come at once, unless the arbiter has something to
decide in the sclk between. What belongs to the clk or the sclk that ends comes first, empty nodes that complete and the arbiter's
decision among it (R6, R7, R136, R423, R435). -/
def execClkEdge (s : State) : Res :=
  if s.emptyReady || s.placeDue || (if s.arg.flag then s.half else s.clkDue || (!s.half && s.placeLater)) then .next s
  else if s.arg.flag then .next { s with half := true, tick := s.tick + 1 }
  else
    .next { s.markArrivals with
      cyc := s.cyc + 1, half := false, tick := s.tick + (if s.half then 1 else 2), cores := s.cores.map fun p => (p.1, p.2.newClk) }

/-- TIME_ADVANCE: one count of the reference oscillator. While TIME has something to gain on another member of the window, or to
lose to it, one count in 10 000 is doubled or left out, which is 100 ppm (R7, R8). -/
def execTimeAdvance (s : State) : Res :=
  if s.fab.slewAt < 9999 || s.fab.slew = 0 then .next { s with time := s.time + 1, fab := { s.fab with slewAt := s.fab.slewAt + 1 } }
  else
    let d : Int := if 0 < s.fab.slew then 1 else -1
    .next { s with time := s.time + (if 0 < d then 2 else 0), fab := { s.fab with slewAt := 0, slew := s.fab.slew - d } }

/-! ### The host link (R28, R32, R471, R475, R476) -/

/-- Whether a read at these places meets a poisoned sector. -/
def State.poisonedAt (s : State) (ls : List Loc) : Bool := ls.any s.locPoisoned

/-- The places of `n` bytes of consecutive elements of a tensor, from coordinates up, through the host link's memory port; none where
one is out of bounds, absent, meets a cause, or lies on a peer whose path or key fails or whose link is stopped. What is stored to is
dirty (R32, R277, R397, R399). -/
def State.hostSpan (s : State) (tenant : Nat) (ref : W64) (cs : List Int) (n : Nat) (store : Bool) : Option (List Loc) × State :=
  match s.desc tenant ref with
  | .error _ => (none, s)
  | .ok d =>
    let (hs, t) := s.elems (.port 48) d store (List.replicate (n / d.ebytes) true) cs none
    let one : Hit → Option (List Loc) := fun h => match h with
      | .at l => some ((List.range d.ebytes).map l.plus)
      | _ => none
    let ls := hs.filterMap one
    let fails := ls.flatten.any fun l => (t.peerFault tenant l).isSome || t.placeHeld l
    if ls.length ≠ hs.length || n % d.ebytes ≠ 0 || fails then (none, t)
    else
      let at_ : Nat → List Int := fun i => (cs.headD 0 + (i : Int)) :: cs.tail
      (some ls.flatten, if store then t.stored (.port 48) d ((List.range (n / d.ebytes)).map at_) else t)

/-- HOST_LINK_ACCESS: the host reads `n` bytes of a tensor of tenant `m`, or with `flag` writes `bytes`, at the coordinates
`ints`; what fails does nothing, and a read of poisoned data is recorded. With `k` = 1 the host writes its own memory
(R32, R113, R471). -/
def execHostLinkAccess (s : State) : Res :=
  let a := s.arg
  if a.k = 1 then .next (s.locWrites (a.bytes.mapIdx fun i b => (.host (a.word.toNat + i), b)))
  else if !s.mg.dataUp then .next s
  else if a.flag then
    match s.hostSpan a.m a.word a.ints a.bytes.length true with
    | (none, t) => .next t
    | (some ls, t) => .next ((t.locWrites (ls.zip a.bytes)).engineServed ls)
  else
    match s.hostSpan a.m a.word a.ints a.n false with
    | (none, t) => .next t
    | (some ls, t0) =>
      let t := t0.verify ls
      .next (((if t.poisonedAt ls then t.bbEvent 4 0xA6 a.m 0 0 else t).touch ls).engineServed ls)

/-- TELEMETRY_SNAPSHOT: every telemetry register is copied into the snapshot bank at once. In the recovery state the host does not reach
the snapshot register (R28, R467). -/
def execTelemetrySnapshot (s : State) : Res :=
  if s.mg.recovery then .next s
  else .next { s with mg := { s.mg with snapshot := (List.range 64).map s.telemetry } }

/-- The RW fields of a control block other than enable (R417). -/
def queueRw : BitVec 1024 :=
  let f := fun (lo len : Nat) => (2 ^ len - 1) * 2 ^ lo
  BitVec.ofNat 1024 (f 16 4 + f 20 6 + f 32 10 + f 48 16 + f 64 64 + f 128 32 + f 160 32 + f 192 11)

/-- The RW fields of a partition record (R436). -/
def partRw : BitVec 256 :=
  let f := fun (lo len : Nat) => (2 ^ len - 1) * 2 ^ lo
  BitVec.ofNat 256 (f 0 64 + f 64 5 + f 96 32 + f 128 64 + f 192 16)

/-- A register of `n` bits after a write of bytes at a byte offset: only the bits of the mask change (R4, R5). -/
def regWrite {n : Nat} (old mask : BitVec n) (off : Nat) (bs : List Byte) : BitVec n :=
  let m := BitVec.ofNat n ((2 ^ (8 * bs.length) - 1) * 2 ^ (8 * off)) &&& mask
  (old &&& ~~~m) ||| (BitVec.ofNat n (leNat bs * 2 ^ (8 * off)) &&& m)

/-- The mailbox of system software that a name stands for: the recovery mailbox, else the host's. -/
def State.sysBox (s : State) : Mailbox → SysBox
  | .recovery => s.mg.rbox
  | _ => s.mg.host

/-- Replace a mailbox of system software. -/
def State.setSysBox (s : State) (m : Mailbox) (b : SysBox) : State :=
  match m with
  | .recovery => { s with mg := { s.mg with rbox := b } }
  | _ => { s with mg := { s.mg with host := b } }

/-- REGISTER_WRITE: bytes are written at offset `n` of the physical function's BAR0: a partition record, the fields of a
control block whose queue is not enabled, or the command area of the host mailbox; elsewhere, a write is ignored. In the
recovery function, the command area at offset 0, and with `flag` the staging SRAM (R417, R436, R467, R476, R477). -/
def execRegisterWrite (s : State) : Res :=
  let n := s.arg.n
  let bs := s.arg.bytes
  let last := n + bs.length
  match s.arg.mbox with
  | .group _ => .next s
  | .recovery =>
    if !s.mg.recovery then .next s
    else if s.arg.flag then (if last ≤ 2 ^ 22 then .next { s with mg := { s.mg with staging := Mem.write s.mg.staging n bs } } else .next s)
    else if last ≤ 256 then .next (s.setSysBox .recovery { s.mg.rbox with cmd := Mem.write s.mg.rbox.cmd n bs })
    else .next s
  | .host =>
    if s.mg.recovery then .next s
    else if 0x2000 ≤ n && last ≤ 0x2200 && n % 32 + bs.length ≤ 32 then
      let p := (n - 0x2000) / 32
      .next { s with fe := { s.fe with parts := Map.put s.fe.parts p (regWrite (Map.get 0 s.fe.parts p) partRw (n % 32) bs) } }
    else if 0x8000 ≤ n && last ≤ 0x8100 then
      .next (s.setSysBox .host { s.mg.host with cmd := Mem.write s.mg.host.cmd (n - 0x8000) bs })
    else if 0x20000 ≤ n && last ≤ 0x40000 && n % 128 + bs.length ≤ 128 then
      let q := (n - 0x20000) / 128
      if (s.fq q).enabled then .next s else .next (s.modQ q fun k => { k with cb := regWrite k.cb queueRw (n % 128) bs })
    else .next s

/-- Byte `i` of a register or of a record. -/
def byteAt (v i : Nat) : Byte := BitVec.ofNat 8 (bitsAt v (8 * i) 8)

/-- Byte `i` of a mailbox of system software: the command area, the result area, and behind the doorbell, which reads 0, the status
register (R477; log entry 115). -/
def SysBox.read (b : SysBox) (i : Nat) : Byte :=
  if i < 0x100 then Mem.get b.cmd i
  else if i < 0x200 then Mem.get b.result (i - 0x100)
  else if 0x208 ≤ i ∧ i < 0x210 then byteAt b.status.toNat (i - 0x208)
  else 0

/-- The submission register of a function's queue: the latched index, and pending (R419). -/
def State.submissionReg (s : State) (fn j : Nat) : Nat :=
  match s.queueOfReg fn j with
  | none => 0
  | some q => (s.fq q).latched + 2 ^ 32 * natOf (s.fq q).pending

/-- A byte that the host reads in BAR0 of function `fn`; in the recovery state, of the temperature alone (R28, R417, R419, R436, R467,
R476, R477; log entry 115). -/
def State.bar0 (s : State) (fn off : Nat) : Byte :=
  let shared : Byte :=
    if off < 0x200 then byteAt (s.telemetry (off / 8)).toNat (off % 8)
    else if 0x10000 ≤ off ∧ off < 0x12000 then byteAt (s.submissionReg fn ((off - 0x10000) / 8)) (off % 8)
    else 0
  if s.mg.recovery then (if off / 8 = 3 then shared else 0)
  else if fn ≠ 0 then shared
  else if 0x400 ≤ off ∧ off < 0x600 then byteAt (s.mg.snapshot.getD ((off - 0x400) / 8) 0).toNat (off % 8)
  else if 0x1000 ≤ off ∧ off < 0x2000 then byteAt (s.fnRec ((off - 0x1000) / 64)).toNat (off % 64)
  else if 0x2000 ≤ off ∧ off < 0x2200 then byteAt (Map.get 0 s.fe.parts ((off - 0x2000) / 32)).toNat (off % 32)
  else if 0x8000 ≤ off ∧ off < 0x8400 then s.mg.host.read (off - 0x8000)
  else if 0x20000 ≤ off ∧ off < 0x40000 then byteAt (s.fq ((off - 0x20000) / 128)).cb.toNat (off % 128)
  else if 0x40000 ≤ off ∧ off < 0x48000 then Mem.get s.mg.report (off - 0x40000)
  else shared

/-- A byte that the host reads in BAR0 of the recovery function (R467, R477). -/
def State.recoveryBar (s : State) (off : Nat) : Byte :=
  if !s.mg.recovery then 0
  else if off < 0x400 then s.mg.rbox.read off
  else if 0x40000 ≤ off ∧ off < 0x48000 then Mem.get s.mg.report (off - 0x40000)
  else 0

/-- Whether a function record's window overlaps that of another valid function, or reaches beyond node 4095 (R476). -/
def State.windowBad (s : State) (f : Nat) (r : BitVec 512) : Bool :=
  let lo := fun (r : BitVec 512) => pf r 16 12
  let hi := fun (r : BitVec 512) => pf r 16 12 + pf r 28 13
  decide (4096 < hi r) ||
    (List.range 64).any fun g => g != f && decide (pf (s.fnRec g) 0 1 = 1) && decide (max (lo r) (lo (s.fnRec g)) < min (hi r) (hi (s.fnRec g)))

/-- FUNCTION_RECORD_WRITE: function `n`'s record takes the RW fields of `block`, unless its window is bad or a queue of the
function is enabled; then the record in force stays, and error reads 1. In the recovery state the host does not reach it (R467,
R476). -/
def execFunctionRecordWrite (s : State) : Res :=
  let f := s.arg.n
  let x := s.arg.block.toNat
  let r := BitVec.ofNat 512 (bitsAt x 0 1 + 2 ^ 16 * bitsAt x 16 25)
  if 64 ≤ f || s.mg.recovery then .next s
  else
    let new := if s.windowBad f r || s.fe.queues.any (fun p => p.2.fn == f && p.2.enabled) then s.fnRec f ||| 2 else r
    .next { s with fe := { s.fe with fns := Map.put s.fe.fns f new } }

/-! ### Power, errors and faults (R471 to R473, R481) -/

/-- THERMAL_THROTTLE_STEP: clk is lowered by 25 MHz, sclk with it (R6, R481). -/
def execThermalThrottleStep (s : State) : Res :=
  if !s.mg.up || s.mg.mhz ≤ 25 then .next s
  else
    let t := { s with mg := { s.mg with mhz := s.mg.mhz - 25 } }
    .next (t.bbEvent 5 0 0 0 (BitVec.ofNat 128 t.mg.mhz))

/-- THERMAL_RECOVER_STEP: clk is raised by 25 MHz, never above 600 MHz (R481). -/
def execThermalRecoverStep (s : State) : Res :=
  if !s.mg.up || 575 < s.mg.mhz then .next s
  else
    let t := { s with mg := { s.mg with mhz := s.mg.mhz + 25 } }
    .next (t.bbEvent 5 0 0 0 (BitVec.ofNat 128 t.mg.mhz))

/-- FATAL_FAULT: its event is the last entry, and the record freezes; what else comes in its sclk goes before it (R473). -/
def execFatalFault (s : State) : Res :=
  if s.bbFrozen then .next s
  else .next ({ s.bbEvent 7 (s.arg.k % 256) 0 0 (BitVec.ofNat 128 s.arg.block.toNat) with bbFrozen := true }.servedAs unitRecord 1)

/-- SECTOR_POISON: an uncorrectable error marks sector `n`, and is recorded. With `k` = 1, what sector `n` carries has changed in the
memory or on the way: its check value is `word` now, which the next check finds (R470, R471, R476). With `flag`, the mark comes over the fabric, with what peer chip `m` sends of its sector `n` from now on (R471). -/
def execSectorPoison (s : State) : Res :=
  let n := s.arg.n
  if gddrSize ≤ 64 * n then .next s
  else if s.arg.k = 1 then
    .next { s with checks := if w32 s.arg.word.toNat = s.sectorCheck n then Map.erase s.checks n else Map.put s.checks n (w32 s.arg.word.toNat) }
  else if s.arg.flag then
    .next { s with peerPoison := if s.peerPoison.contains (s.arg.m, n) then s.peerPoison else s.peerPoison ++ [(s.arg.m, n)] }
  else .next (s.markPoison n)

/-- SOFT_ERROR_CORRECTED (R471). -/
def execSoftErrorCorrected (s : State) : Res := .next { s with mg := { s.mg with softErrors := s.mg.softErrors + 1 } }

end Sys2Proof.Machine
end

