-- ==== Sys2Proof/Machine/Manage.lean ====
section
/-!
DEFINITION. The commands of system software's mailboxes: tenants, keys, windows, pins, attestation, the rollback floor, TIME
and recovery (R8, R26, R466 to R469, R473, R474, R477 to R480).
-/

namespace Sys2Proof.Machine

/-! ### The mailboxes (R477) -/

/-- A number in a command area. -/
def cmdNat (m : Mem) (off n : Nat) : Nat := leNat (Mem.read m off n)

/-- Whether a doorbell write of `arg.word` starts the command of a mailbox: the management core runs and serves no other
command, the mailbox is the one of this state, and the number is the next (R467, R477). -/
def State.doorbell (s : State) (m : Mailbox) : Bool :=
  let b := s.sysBox m
  let here := match m with
    | .host => !s.mg.recovery
    | .recovery => s.mg.recovery
    | .group _ => false
  s.mg.up && here && !b.busy && decide (s.arg.word.toNat % 2 ^ 32 = (b.last.toNat + 1) % 2 ^ 32)

/-- A command completes: the result area, then the status register (R477). -/
def State.sysDone (s : State) (m : Mailbox) (code : Nat) (result : List Byte) : State :=
  let b := s.sysBox m
  s.setSysBox m { b with result := Mem.write b.result 0 result, status := w64 (b.last.toNat + 2 ^ 32 * code), busy := false }

/-- The sequence number of a doorbell write is taken, and busy reads 1. -/
def State.sysTake (s : State) (m : Mailbox) : State :=
  let b := s.sysBox m
  s.setSysBox m { b with last := w32 s.arg.word.toNat, status := w64 (b.status.toNat % 2 ^ 40 + 2 ^ 40), busy := true }

/-- A command of opcode `op` at mailbox `arg.mbox`, one of `boxes`: it is taken, does what `f` says with its command area,
and completes with the code that `f` answers. -/
def State.sysCommand (s : State) (boxes : List Mailbox) (op : Nat) (f : State → Mem → Nat × State) : Res :=
  let m := s.arg.mbox
  let cmd := (s.sysBox m).cmd
  if !boxes.contains m || !s.doorbell m || cmdNat cmd 0 1 ≠ op then .next s
  else
    let (code, t) := f (s.sysTake m) cmd
    .next (t.sysDone m code [])

/-- A command of the host mailbox alone, about the tenant in bytes 8 and 9, which must exist. -/
def State.tenantCommand (s : State) (op : Nat) (f : State → Mem → Nat → Nat × State) : Res :=
  s.sysCommand [.host] op fun s cmd => if 1024 ≤ cmdNat cmd 8 2 then (2, s) else f s cmd (cmdNat cmd 8 2)

/-! ### What lists say of large tables -/

/-- The records of a table that hold some byte that was written: an unlisted record is blank. -/
def State.listed (s : State) (base stride n : Nat) : List Nat :=
  let inLine : Nat × Line → List Nat := fun p => ((List.range 256).filter p.2.holds).map fun i => 256 * p.1 + i
  let addrs := s.l2.flatMap inLine ++ s.gddr.map fun p => p.1
  ((addrs.filter fun a => decide (base ≤ a) && decide (a < base + stride * n)).map fun a => (a - base) / stride).eraseDups

/-! ### Tenants (R477, R478) -/

/-- Whether a tenant has a placement running, queued or saved. -/
def State.tenantBusy (s : State) (tenant : Nat) : Bool :=
  (s.cores.any fun p => match p.2.place with
    | some q => q.tenant == tenant
    | none => false) ||
    (s.fe.nodes.any fun p => p.2.st != .free && p.2.st != .error && p.2.tenant == tenant) || s.saved.any fun g => g.cores.any fun c => c.tenant == tenant

/-- TENANT_RECORD_WRITE (R478). -/
def execTenantRecordWrite (s : State) : Res :=
  s.tenantCommand 0x01 fun s cmd t =>
    let base := cmdNat cmd 72 8
    let len := cmdNat cmd 80 3 % 2 ^ 21
    let a := tenantBase + 64 * t
    if mgmtBase ≤ base || base % 128 ≠ 0 then (2, s)
    else if s.tenantBusy t && (base ≠ s.tenantField t 8 8 || len ≠ s.tenantField t 16 8 % 2 ^ 21) then (1, s)
    else
      (0, ((s.devWrite a (leBytes 8 (cmdNat cmd 64 1 % 2))).devWrite (a + 8) (leBytes 8 base ++ leBytes 8 len)).devWrite (a + 24)
        (leBytes 8 (cmdNat cmd 88 8)))

/-- DIRECTORY_INVALIDATE: no layout unit or cache holds an entry of the tenant's directory any more (R477). -/
def execDirectoryInvalidate (s : State) : Res :=
  s.tenantCommand 0x02 fun s _ t =>
    let keep : TEntry → Bool := fun e => e.tenant != t
    (0, { s with
      dirs := s.dirs.filter fun p => p.1 / 2 ^ 20 != t
      ports := s.ports.map fun p => (p.1, p.2.filter keep)
      groups := s.groups.map fun p => (p.1, { p.2 with tcache := p.2.tcache.filter keep }) })

/-- Whether a tenant holds a valid handle entry (R363, R478). -/
def State.hasHandle (s : State) (tenant : Nat) : Bool :=
  (s.listed handleBase 64 (2 ^ 20)).any fun i => decide (s.kvField i 0 1 = 1) && decide (s.kvField i 16 10 = tenant)

/-- KV_POOL_DECLARE (R361, R478). -/
def execKvPoolDeclare (s : State) : Res :=
  s.tenantCommand 0x03 fun s cmd t =>
    let pool := w64 (cmdNat cmd 16 8)
    if (s.poolShape t pool).isNone then (2, s)
    else if s.hasHandle t then (1, s)
    else (0, s.devWrite (tenantBase + 64 * t + 32) (leBytes 8 pool.toNat ++ leBytes 4 (cmdNat cmd 24 4)))

/-! ### Keys (R26, R469) -/

/-- Whether a tensor of a tenant has a resident frame under a key slot. -/
def State.tensorUses (s : State) (tenant slot : Nat) (e : Nat) : Bool :=
  decide (bitsAt e 9 1 = 1) && layoutOk e tenant &&
    (s.listed (bitsAt e 64 64) 8 (bitsAt e 192 32)).any fun i =>
      let w := w64 (s.devRead (bitsAt e 64 64 + 8 * i) 8)
      entResident w && decide (entSpace w = 0) && decide (bitsAt w.toNat 4 10 = slot)

/-- Whether a key slot has a resident frame in some tile table, or a saved context under it (R26). -/
def State.slotUsed (s : State) (slot : Nat) : Bool :=
  (s.saved.any fun g => g.cores.any fun c => c.tenant == slot) ||
    (s.listed tenantBase 64 1024).any fun t =>
      (s.listed (s.tenantField t 8 8) 128 (s.tenantField t 16 8 % 2 ^ 21)).any fun i =>
        i != 0 && s.tensorUses t slot (s.devRead (s.tenantField t 8 8 + 128 * i) 128)

/-- A key change is recorded, and extends the measurement of key changes (R468, R472). -/
def State.keyChange (s : State) (op tenant : Nat) : State :=
  let log := sha384 (leBytes 48 s.mg.keyLog.toNat ++ leBytes 1 op ++ leBytes 2 tenant)
  State.bbEvent { s with mg := { s.mg with keyLog := log } } 3 0 tenant 0 (BitVec.ofNat 128 op)

/-- KEY_LOAD: a pair that unwraps goes into a slot that is neither valid nor in use (R26, R469). -/
def execKeyLoad (s : State) : Res :=
  s.tenantCommand 0x04 fun s cmd t =>
    match Config.unwrapKey (Mem.read cmd 32 224) with
    | none => (1, s)
    | some k => if Map.has s.keys t || s.slotUsed t then (1, s) else (0, State.keyChange { s with keys := Map.put s.keys t k } 4 t)

/-- KEY_ERASE: the slot is zeroed and not valid, unless it is in use (R26, R469). -/
def execKeyErase (s : State) : Res :=
  s.tenantCommand 0x05 fun s _ t =>
    if s.slotUsed t then (1, s) else (0, State.keyChange { s with keys := Map.erase s.keys t } 5 t)

/-! ### Windows (R8, R394, R479) -/

/-- The routes of a window command. -/
def cmdRoutes (cmd : Mem) : List Nat := (List.range 64).map fun k => cmdNat cmd (64 + 2 * k) 2

/-- Whether the routes to the other ranks of a window are legal. -/
def State.routesOk (s : State) (size rank : Nat) (routes : List Nat) : Bool :=
  (List.range size).all fun k => k == rank || s.routeOk size rank routes (routes.getD k 0)

/-- Whether the routes of a window command can be used. -/
def State.formBad (s : State) (cmd : Mem) : Bool :=
  let n := cmdNat cmd 12 1
  decide (2 < cmdNat cmd 8 1) || decide (n = 0) || decide (64 < n) || decide (n ≤ cmdNat cmd 13 1) || !s.routesOk n (cmdNat cmd 13 1) (cmdRoutes cmd)

/-- WINDOW_FORM: a form is taken and waits for the other members, or is refused (R479). -/
def execWindowForm (s : State) : Res :=
  let cmd := s.mg.host.cmd
  if s.arg.mbox ≠ .host || !s.doorbell .host || cmdNat cmd 0 1 ≠ 0x06 || cmdNat cmd 8 1 = 1 || cmdNat cmd 8 1 = 2 then .next s
  else
    let t := s.sysTake .host
    if s.fab.formed then .next (t.sysDone .host 1 [])
    else if s.formBad cmd then .next (t.sysDone .host 2 [])
    else
      let f : WinForm := { size := cmdNat cmd 12 1, rank := cmdNat cmd 13 1, id := cmdNat cmd 10 2, at_ := s.time, routes := cmdRoutes cmd }
      .next { t with fab := { t.fab with form := some f } }

/-- WINDOW_FORM_MATCH: every member has received a matching form: the window forms, at epoch 0 and the largest TIME of the
members, `arg.word` being that of the others (R8, R479). -/
def execWindowFormMatch (s : State) : Res :=
  match s.fab.form with
  | none => .next s
  | some f =>
    if f.at_.toNat + 10 ^ 9 < s.time.toNat then .next s
    else
      let time := if s.time.toNat < s.arg.word.toNat then s.arg.word else s.time
      .next (State.sysDone
        { s with
          time := time, rank := f.rank, winSize := f.size, unreach := []
          fab := { s.fab with slew := 0, form := none, formed := true, winId := BitVec.ofNat 16 f.id, epoch := 0, routes := f.routes } } .host 0 [])

/-- WINDOW_FORM_TIMEOUT: 1 s of TIME after its receipt a form that has not matched is refused (R479). -/
def execWindowFormTimeout (s : State) : Res :=
  match s.fab.form with
  | none => .next s
  | some f =>
    if s.time.toNat ≤ f.at_.toNat + 10 ^ 9 then .next s
    else .next (State.sysDone { s with fab := { s.fab with form := none } } .host 1 [])

/-- WINDOW_UPDATE_ROUTES: the routes are replaced and the epoch advances; traffic on a changed path is reported
(R395, R479). -/
def execWindowUpdateRoutes (s : State) : Res :=
  if cmdNat s.mg.host.cmd 8 1 ≠ 1 then .next s
  else
    s.sysCommand [.host] 0x06 fun s cmd =>
      let routes := cmdRoutes cmd
      let changed := (List.range s.winSize).filter fun k => k ≠ s.rank && routes.getD k 0 ≠ s.fab.routes.getD k 0
      if !s.fab.formed then (1, s)
      else if !s.routesOk s.winSize s.rank routes then (2, s)
      else
        let t := s.failPaths changed
        (0, { t with fab := { t.fab with routes := routes, epoch := t.fab.epoch + 1 }, unreach := t.unreach.filter fun k => !changed.contains k })

/-- Whether a node with a chips level has an entry here (R479). -/
def State.spansChips (s : State) : Bool := s.fe.nodes.any fun p => p.2.st != .free && p.2.shape.chips.isSome

/-- The chip becomes a window of one (R479). -/
def State.leaveWindow (s : State) : State :=
  { s with rank := 0, winSize := 1, unreach := [], fab := { s.fab with slew := 0, formed := false, winId := 0, epoch := 0, routes := [] } }

/-- WINDOW_DISSOLVE: each member of the window becomes a window of one, unless a node with a chips level has an entry here, or, with
`flag`, on another member. With `k` = 1, the command is another member's (R479). -/
def execWindowDissolve (s : State) : Res :=
  if s.arg.k = 1 then .next (if s.fab.formed && !s.spansChips then s.leaveWindow else s)
  else if cmdNat s.mg.host.cmd 8 1 ≠ 2 then .next s
  else
    s.sysCommand [.host] 0x06 fun s _ =>
      if s.arg.flag || s.spansChips then (1, s) else (0, s.leaveWindow)

/-! ### Pins (R30, R344, R480) -/

/-- The lines of the range of a pin command; none where it is not legal. -/
def State.pinRange (s : State) (cmd : Mem) : Option (List Nat) × State :=
  let start := cmdNat cmd 24 8
  let len := cmdNat cmd 32 8
  if start % 256 ≠ 0 || len % 256 ≠ 0 then (none, s)
  else
    match s.lineNos (cmdNat cmd 8 2) (w64 (cmdNat cmd 16 8)) start (len / 256) with
    | (.error _, t) => (none, t)
    | (.ok ls, t) => (some ls, t)

/-- PIN: also the command with an op that is neither pin nor unpin, an invalid operand (R480). -/
def execPin (s : State) : Res :=
  if cmdNat s.mg.host.cmd 10 1 = 1 then .next s
  else
    s.sysCommand [.host] 0x07 fun s cmd =>
      if cmdNat cmd 10 1 ≠ 0 then (2, s)
      else
        match s.pinRange cmd with
        | (none, t) => (2, t)
        | (some ls, t) =>
          let new := (ls.filter fun l => (t.line l).pins.isEmpty).eraseDups
          if t.pinsTooMany new || t.setTooFull new then (1, t) else (0, t.pinLines 64 ls)

/-- UNPIN: the lines of the range that the pin command pinned (R480). -/
def execUnpin (s : State) : Res :=
  if cmdNat s.mg.host.cmd 10 1 ≠ 1 then .next s
  else
    s.sysCommand [.host] 0x07 fun s cmd =>
      match s.pinRange cmd with
      | (none, t) => (2, t)
      | (some ls, t) => (0, t.unpinLines 64 fun n => ls.contains n)

/-! ### Attestation, the floor, the black-box record and TIME (R8, R466, R468, R473) -/

/-- The body of a report: the measurements, the measurement of key changes, the security versions of both slots, and the
nonce. -/
def State.reportBody (s : State) (nonce : List Byte) : List Byte :=
  (s.mg.measures.flatMap fun d => leBytes 48 d.toNat) ++ leBytes 48 s.mg.keyLog.toNat ++
    leBytes 4 (Config.imageVersion (s.slotImage 0)).toNat ++ leBytes 4 (Config.imageVersion (s.slotImage 1)).toNat ++ nonce

/-- The report: its body and the signature under the device attestation key, which the measurement of the management image
derives. -/
def State.attest (s : State) (nonce : List Byte) : List Byte :=
  let body := s.reportBody nonce
  body ++ Config.attestSign (leBytes 48 (s.mg.measures.getD 1 0).toNat ++ body)

/-- ATTESTATION_REPORT: the report is written to the report window (R468, R477). -/
def execAttestationReport (s : State) : Res :=
  s.sysCommand [.host, .recovery] 0x08 fun s cmd =>
    (0, { s with mg := { s.mg with report := Mem.write [] 0 ((s.attest (Mem.read cmd 32 32)).take 0x8000) } })

/-- The slot whose security version the floor may be raised to: the running one once its front end has reported ready, or
in recovery the one that was written and verified (R466). -/
def State.floorSlot (s : State) : Option Nat :=
  if s.mg.recovery then s.mg.verified else if s.mg.feReady then s.mg.booted else none

/-- RAISE_ROLLBACK_FLOOR (R466). -/
def execRaiseRollbackFloor (s : State) : Res :=
  s.sysCommand [.host, .recovery] 0x09 fun s cmd =>
    let v := cmdNat cmd 8 4
    match s.floorSlot with
    | none => (1, s)
    | some k =>
      if (Config.imageVersion (s.slotImage k)).toNat < v || v < s.floorNow.toNat then (1, s)
      else (0, { s with mg := { s.mg with floor := w32 v } })

/-- UNFREEZE_BLACK_BOX_RECORD (R473). -/
def execUnfreezeBlackBoxRecord (s : State) : Res :=
  s.sysCommand [.host, .recovery] 0x0A fun s _ => (0, { s with bbFrozen := false })

/-- LOAD_TIME: once per reset, before the data plane leaves reset, and never backward (R8). -/
def execLoadTime (s : State) : Res :=
  s.sysCommand [.host] 0x0B fun s cmd =>
    let v := cmdNat cmd 8 8
    if s.mg.dataUp || s.mg.loaded || v < s.time.toNat then (1, s)
    else (0, { s with time := w64 v, mg := { s.mg with loaded := true } })

/-- RECOVERY_IMAGE: the image in the staging SRAM is verified, and written to the slot in byte 8 (R467, R477). -/
def execRecoveryImage (s : State) : Res :=
  s.sysCommand [.recovery] 0x20 fun s cmd =>
    let slot := cmdNat cmd 8 1
    let img := Mem.read s.mg.staging 0 (2 ^ 22)
    if 2 ≤ slot then (2, s)
    else if (s.imageFails img).isSome then (1, s)
    else (0, { s with mg := { s.mg with flash := Map.put s.mg.flash slot img, verified := some slot } })

/-! ### Unassigned opcodes (R474, R477) -/

/-- The opcodes of the host mailbox. -/
def hostKnown (o : Nat) : Bool := decide (1 ≤ o) && decide (o ≤ 0x0B)
/-- The opcodes of the recovery mailbox. -/
def recoveryKnown (o : Nat) : Bool := ([0x08, 0x09, 0x0A, 0x20] : List Nat).contains o

/-- UNKNOWN_OPCODE: a command with an unassigned opcode completes with result code 3 (R474, R477). -/
def execUnknownOpcode (s : State) : Res :=
  match s.arg.mbox with
  | .group _ => s.mboxServe (fun o => !mboxKnown o) fun _ t => (3, 0, t)
  | m =>
    let op := cmdNat (s.sysBox m).cmd 0 1
    if (if m = .recovery then recoveryKnown op else hostKnown op) then .next s
    else s.sysCommand [.host, .recovery] op fun s _ => (3, s)

end Sys2Proof.Machine
end

