-- ==== Sys2Proof/Machine/Vector.lean ====
section
/-!
DEFINITION. The vector engine: VR and VX forms (R172 to R195).
-/

namespace Sys2Proof.Machine

/-! ### Operands and results -/

/-- Operand b in every lane (R177). -/
def State.vecB (s : State) : VecB → List W32
  | .vec r _ => lanes (s.vreg r.toNat 2)
  | .const c => List.replicate 64 (Map.get 0 s.myCore.consts c.toNat)
  | .scalar _ => List.replicate 64 ((s.cap 0).truncate 32)
  | .imm i => List.replicate 64 (i.zeroExtend 32)
  | .lit w => List.replicate 64 w

/-- The lane enables of a VR form (R178). -/
def State.vecMask (s : State) : VecB → W64
  | .vec _ m => s.mreg m.toNat 3
  | _ => BitVec.allOnes 64

/-- Dispatch on the vector unit, with its bound and occupancy (R172, R174, R176). -/
def State.vuDispatch (s : State) (L occ : Nat) : State :=
  (s.dispatched L).modMyCore fun k => { k with vuFree := s.cyc + occ, vuLast := s.cur.strand }

/-- Write the lanes that a mask picks out of a vector register, by dispatch + L (R174). -/
def State.vecOut (s : State) (L occ : Nat) (vd : VReg) (m : W64) (new : List W32) : Res :=
  .next ((s.vuDispatch L occ).modMe fun st => st.wvCq s.cyc L vd.toNat m (ofLanes new))

/-- Lane by lane: old value, a, b. -/
def zip3 (f : W32 → W32 → W32 → W32) : List W32 → List W32 → List W32 → List W32
  | o :: os, a :: as, b :: bs => f o a b :: zip3 f os as bs
  | _, _, _ => []

/-- A VR form that works lane by lane on the old vd, va and b (R178). -/
def State.vr (s : State) (L : Nat) (vd va : VReg) (b : VecB) (f : W32 → W32 → W32 → W32) : Res :=
  s.vecOut L 1 vd (s.vecMask b) (zip3 f (lanes (s.vreg vd.toNat 0)) (lanes (s.vreg va.toNat 1)) (s.vecB b))

/-- A VR form that moves lanes: `f` gives lane i from the old vd, va and b (R185, R186). -/
def State.vmove (s : State) (L : Nat) (vd va : VReg) (b : VecB) (f : List W32 → List W32 → List W32 → Nat → W32) : Res :=
  let o := lanes (s.vreg vd.toNat 0)
  let a := lanes (s.vreg va.toNat 1)
  let bs := s.vecB b
  s.vecOut L 1 vd (s.vecMask b) ((List.range 64).map (f o a bs))

/-- A VX form that works lane by lane (R178). -/
def State.vx (s : State) (L occ : Nat) (vd va : VReg) (m : MReg) (f : W32 → W32) : Res :=
  s.vecOut L occ vd (s.mreg m.toNat 3) ((lanes (s.vreg va.toNat 1)).map f)

/-- The lanes of va, each disabled one replaced (R92, R93, R178). -/
def State.masked (s : State) (va : VReg) (m : MReg) (id : W32) : List W32 :=
  let mk := s.mreg m.toNat 3
  ((lanes (s.vreg va.toNat 1)).zipIdx).map fun p => if mk.getLsbD p.2 then p.1 else id

/-- A reduction: red_tree under the mask, to every lane (R192). -/
def State.vred (s : State) (vd va : VReg) (m : MReg) (op : W32 → W32 → W32) (id : W32) : Res :=
  s.vecOut 8 1 vd (BitVec.allOnes 64) (List.replicate 64 (redTree op id (s.masked va m id)))

/-- A scan: scan_seq under the mask (R193). -/
def State.vscan (s : State) (vd va : VReg) (m : MReg) (op : W32 → W32 → W32) (id : W32) : Res :=
  s.vecOut 10 2 vd (BitVec.allOnes 64) (scanSeq op id (s.masked va m id))

/-- A compare writes its mask: 0 in disabled lanes (R178, R183). -/
def State.vcmp (s : State) (md : MReg) (va : VReg) (b : VecB) (f : W32 → W32 → Bool) : Res :=
  let r := maskOf (((lanes (s.vreg va.toNat 1)).zip (s.vecB b)).map fun p => f p.1 p.2)
  let v := r &&& s.vecMask b
  .next ((s.vuDispatch 2 1).modMe fun st => st.wmCq s.cyc 2 md.toNat v)

/-- A pack: 64 elements of `w` bits shifted in from lane 0 up (R190). -/
def State.pack (s : State) (w : Nat) (vd va : VReg) (m : MReg) (conv : W32 → Nat) : Res :=
  let mk := s.mreg m.toNat 3
  let es := ((lanes (s.vreg va.toNat 1)).zipIdx).map fun p => if mk.getLsbD p.2 then conv p.1 else 0
  let old := s.vreg vd.toNat 0
  s.vecOut 4 1 vd (BitVec.allOnes 64) (lanes (BitVec.ofNat 2048 (packNat w es + old.toNat * 2 ^ (64 * w))))

/-- An unpack: element k from field k of the lowest lanes (R191). -/
def State.unpack (s : State) (w : Nat) (vd va : VReg) (m : MReg) (conv : Nat → W32) : Res :=
  let x := (s.vreg va.toNat 1).toNat
  s.vecOut 4 1 vd (s.mreg m.toNat 3) ((List.range 64).map fun k => conv (bitsAt x (w * k) w))

/-- A number as a lane. -/
def w32n (n : Nat) : W32 := BitVec.ofNat 32 n

/-- Signed sum or difference, saturated (R181). -/
def satS (x : Int) : W32 := w32n (satI 32 x)

/-- Unsigned sum or difference, saturated (R181). -/
def satU (x : Int) : W32 := w32n (satN 32 x)

/-- The shift count of vshl, vshr and vsar (R182). -/
def shCount (b : W32) : Nat := b.toNat % 256

/-- A mask form: whole masks (R195). -/
def State.vmsk (s : State) (md : MReg) (v : W64) : Res :=
  .next ((s.vuDispatch 1 1).modMe fun st => st.wmCq s.cyc 1 md.toNat v)

/-- rel of a signed or unsigned compare (R183). -/
def relHolds (rel : BitVec 2) (eq lt : Bool) : Bool :=
  match rel.toNat with
  | 0 => eq
  | 1 => lt
  | 2 => lt || eq
  | _ => !eq

/-! ### The forms -/

/-- vadd.f32 (R180). -/
def execVaddF32 (vd va : VReg) (b : VecB) (_tok : Tok) (s : State) : Res :=
  s.vr 4 vd va b fun _ x y => fadd x y

/-- vsub.f32 (R180). -/
def execVsubF32 (vd va : VReg) (b : VecB) (_tok : Tok) (s : State) : Res :=
  s.vr 4 vd va b fun _ x y => fsub x y

/-- vmul.f32 (R180). -/
def execVmulF32 (vd va : VReg) (b : VecB) (_tok : Tok) (s : State) : Res :=
  s.vr 4 vd va b fun _ x y => fmul x y

/-- vfma.f32: va * b + vd, rounded once (R180). -/
def execVfmaF32 (vd va : VReg) (b : VecB) (_tok : Tok) (s : State) : Res :=
  s.vr 5 vd va b fun o x y => ffma x y o

/-- vfmac.f32: vd * va + b, rounded once (R180). -/
def execVfmacF32 (vd va : VReg) (b : VecB) (_tok : Tok) (s : State) : Res :=
  s.vr 5 vd va b fun o x y => ffma o x y

/-- vmin.f32 (R180). -/
def execVminF32 (vd va : VReg) (b : VecB) (_tok : Tok) (s : State) : Res :=
  s.vr 2 vd va b fun _ x y => fminDev x y

/-- vmax.f32 (R180). -/
def execVmaxF32 (vd va : VReg) (b : VecB) (_tok : Tok) (s : State) : Res :=
  s.vr 2 vd va b fun _ x y => fmaxDev x y

/-- vadd.i32 (R181). -/
def execVaddI32 (vd va : VReg) (b : VecB) (_tok : Tok) (s : State) : Res :=
  s.vr 2 vd va b fun _ x y => x + y

/-- vsub.i32 (R181). -/
def execVsubI32 (vd va : VReg) (b : VecB) (_tok : Tok) (s : State) : Res :=
  s.vr 2 vd va b fun _ x y => x - y

/-- vmul.i32 (R181). -/
def execVmulI32 (vd va : VReg) (b : VecB) (_tok : Tok) (s : State) : Res :=
  s.vr 3 vd va b fun _ x y => x * y

/-- vadds.i32 (R181). -/
def execVaddsI32 (vd va : VReg) (b : VecB) (_tok : Tok) (s : State) : Res :=
  s.vr 2 vd va b fun _ x y => satS (x.toInt + y.toInt)

/-- vsubs.i32 (R181). -/
def execVsubsI32 (vd va : VReg) (b : VecB) (_tok : Tok) (s : State) : Res :=
  s.vr 2 vd va b fun _ x y => satS (x.toInt - y.toInt)

/-- vadds.n32 (R181). -/
def execVaddsN32 (vd va : VReg) (b : VecB) (_tok : Tok) (s : State) : Res :=
  s.vr 2 vd va b fun _ x y => satU ((x.toNat : Int) + (y.toNat : Int))

/-- vsubs.n32 (R181). -/
def execVsubsN32 (vd va : VReg) (b : VecB) (_tok : Tok) (s : State) : Res :=
  s.vr 2 vd va b fun _ x y => satU ((x.toNat : Int) - (y.toNat : Int))

/-- vmin.i32 (R181). -/
def execVminI32 (vd va : VReg) (b : VecB) (_tok : Tok) (s : State) : Res :=
  s.vr 2 vd va b fun _ x y => if y.slt x then y else x

/-- vmax.i32 (R181). -/
def execVmaxI32 (vd va : VReg) (b : VecB) (_tok : Tok) (s : State) : Res :=
  s.vr 2 vd va b fun _ x y => if x.slt y then y else x

/-- vmin.n32 (R181). -/
def execVminN32 (vd va : VReg) (b : VecB) (_tok : Tok) (s : State) : Res :=
  s.vr 2 vd va b fun _ x y => if y.ult x then y else x

/-- vmax.n32 (R181). -/
def execVmaxN32 (vd va : VReg) (b : VecB) (_tok : Tok) (s : State) : Res :=
  s.vr 2 vd va b fun _ x y => if x.ult y then y else x

/-- vand (R181). -/
def execVand (vd va : VReg) (b : VecB) (_tok : Tok) (s : State) : Res :=
  s.vr 2 vd va b fun _ x y => x &&& y

/-- vor (R181). -/
def execVor (vd va : VReg) (b : VecB) (_tok : Tok) (s : State) : Res :=
  s.vr 2 vd va b fun _ x y => x ||| y

/-- vxor (R181). -/
def execVxor (vd va : VReg) (b : VecB) (_tok : Tok) (s : State) : Res :=
  s.vr 2 vd va b fun _ x y => x ^^^ y

/-- vshl (R182). -/
def execVshl (vd va : VReg) (b : VecB) (_tok : Tok) (s : State) : Res :=
  s.vr 2 vd va b fun _ x y => if shCount y ≤ 31 then x <<< shCount y else 0

/-- vshr (R182). -/
def execVshr (vd va : VReg) (b : VecB) (_tok : Tok) (s : State) : Res :=
  s.vr 2 vd va b fun _ x y => if shCount y ≤ 31 then x >>> shCount y else 0

/-- vsar (R182). -/
def execVsar (vd va : VReg) (b : VecB) (_tok : Tok) (s : State) : Res :=
  s.vr 2 vd va b fun _ x y => x.sshiftRight (min (shCount y) 31)

/-- vcmp.f32 (R183). -/
def execVcmpF32 (md : MReg) (rel : BitVec 2) (va : VReg) (b : VecB) (_tok : Tok) (s : State) : Res :=
  s.vcmp md va b fun x y => fcmp x y rel.toNat

/-- vcmp.i32 (R183). -/
def execVcmpI32 (md : MReg) (rel : BitVec 2) (va : VReg) (b : VecB) (_tok : Tok) (s : State) : Res :=
  s.vcmp md va b fun x y => relHolds rel (x == y) (x.slt y)

/-- vcmp.n32 (R183). -/
def execVcmpN32 (md : MReg) (rel : BitVec 2) (va : VReg) (b : VecB) (_tok : Tok) (s : State) : Res :=
  s.vcmp md va b fun x y => relHolds rel (x == y) (x.ult y)

/-- vsel: the mask selects, every lane is written (R184). -/
def execVsel (vd va : VReg) (b : VecB) (_tok : Tok) (s : State) : Res :=
  s.vecOut 2 1 vd (BitVec.allOnes 64)
    (lanes (blend (s.vecMask b) (ofLanes (s.vecB b)) (s.vreg va.toNat 1)))

/-- vperm (R185). -/
def execVperm (vd va : VReg) (b : VecB) (_tok : Tok) (s : State) : Res :=
  s.vmove 3 vd va b fun _ a y i => a.getD ((y.getD i 0).toNat % 64) 0

/-- vrot (R186). -/
def execVrot (vd va : VReg) (b : VecB) (_tok : Tok) (s : State) : Res :=
  s.vmove 3 vd va b fun _ a y i => a.getD ((i + (y.headD 0).toNat) % 64) 0

/-- vext: from position n of va followed by the old vd (R186). -/
def execVext (vd va : VReg) (b : VecB) (_tok : Tok) (s : State) : Res :=
  s.vmove 3 vd va b fun o a y i => (a ++ o).getD (i + (y.headD 0).toNat % 64) 0

/-- vins: lane n only (R186). -/
def execVins (vd va : VReg) (b : VecB) (_tok : Tok) (s : State) : Res :=
  let n := ((s.vecB b).headD 0).toNat % 64
  s.vecOut 3 1 vd (s.vecMask b &&& ((1 : W64) <<< n)) (List.replicate 64 (lane (s.vreg va.toNat 1) 0))

/-- vbcast (R186). -/
def execVbcast (vd va : VReg) (b : VecB) (_tok : Tok) (s : State) : Res :=
  s.vmove 3 vd va b fun _ a y _ => a.getD ((y.headD 0).toNat % 64) 0

/-- vsplat (R186). -/
def execVsplat (vd : VReg) (b : VecB) (_tok : Tok) (s : State) : Res :=
  s.vecOut 2 1 vd (s.vecMask b) (s.vecB b)

/-- Whether a candidate ranks before another: larger value, NaN below all, then the lower lane (R194). -/
def ranksBefore (x y : W32 × Nat) : Bool :=
  match isNan32 x.1, isNan32 y.1 with
  | true, true => decide (x.2 < y.2)
  | true, false => false
  | false, true => true
  | false, false => decide (mag32 y.1 < mag32 x.1) || (decide (mag32 x.1 = mag32 y.1) && decide (x.2 < y.2))

/-- vtopk: the lanes of the k best enabled values (R194). -/
def execVtopk (vd va : VReg) (b : VecB) (_tok : Tok) (s : State) : Res :=
  let mk := s.vecMask b
  let k := min ((s.vecB b).headD 0).toNat 16
  let best := (sortBy ranksBefore (((lanes (s.vreg va.toNat 1)).zipIdx).filter fun p => mk.getLsbD p.2)).take k
  s.vecOut 16 4 vd (BitVec.allOnes 64)
    ((List.range 64).map fun j => match best[j]? with
      | some p => w32n p.2
      | none => 0xFFFFFFFF)

/-- cvt.f32.i32 (R189). -/
def execCvtF32I32 (vd va : VReg) (m : MReg) (_tok : Tok) (s : State) : Res :=
  s.vx 4 1 vd va m fun x => r32 (XR.ofInt x.toInt)

/-- cvt.f32.n32 (R189). -/
def execCvtF32N32 (vd va : VReg) (m : MReg) (_tok : Tok) (s : State) : Res :=
  s.vx 4 1 vd va m fun x => r32 (XR.ofInt (x.toNat : Int))

/-- cvt.i32.f32 (R189). -/
def execCvtI32F32 (vd va : VReg) (m : MReg) (_tok : Tok) (s : State) : Res :=
  s.vx 4 1 vd va m fun x => w32n (cvtI 32 false (v32 x))

/-- cvt.i32.f32.rz (R189). -/
def execCvtI32F32Rz (vd va : VReg) (m : MReg) (_tok : Tok) (s : State) : Res :=
  s.vx 4 1 vd va m fun x => w32n (cvtI 32 true (v32 x))

/-- cvt.n32.f32 (R189). -/
def execCvtN32F32 (vd va : VReg) (m : MReg) (_tok : Tok) (s : State) : Res :=
  s.vx 4 1 vd va m fun x => w32n (cvtN 32 false (v32 x))

/-- cvt.n32.f32.rz (R189). -/
def execCvtN32F32Rz (vd va : VReg) (m : MReg) (_tok : Tok) (s : State) : Res :=
  s.vx 4 1 vd va m fun x => w32n (cvtN 32 true (v32 x))

/-- cvt.f32.e8 (R189). -/
def execCvtF32E8 (vd va : VReg) (m : MReg) (_tok : Tok) (s : State) : Res :=
  s.vx 4 1 vd va m fun x => r32 (e8Val (x.toNat % 256))

/-- pk.f16 (R190). -/
def execPkF16 (vd va : VReg) (m : MReg) (_tok : Tok) (s : State) : Res :=
  s.pack 16 vd va m fun x => rne .f16 (v32 x)

/-- pk.bf16 (R190). -/
def execPkBf16 (vd va : VReg) (m : MReg) (_tok : Tok) (s : State) : Res :=
  s.pack 16 vd va m fun x => rne .bf16 (v32 x)

/-- pk.bf16.rz (R190). -/
def execPkBf16Rz (vd va : VReg) (m : MReg) (_tok : Tok) (s : State) : Res :=
  s.pack 16 vd va m fun x => rz .bf16 (v32 x)

/-- pk.f8e4.sat (R190). -/
def execPkF8e4Sat (vd va : VReg) (m : MReg) (_tok : Tok) (s : State) : Res :=
  s.pack 8 vd va m fun x => rneSat .f8e4 (v32 x)

/-- pk.f8e4.nan (R190). -/
def execPkF8e4Nan (vd va : VReg) (m : MReg) (_tok : Tok) (s : State) : Res :=
  s.pack 8 vd va m fun x => rne .f8e4 (v32 x)

/-- pk.f8e5 (R190). -/
def execPkF8e5 (vd va : VReg) (m : MReg) (_tok : Tok) (s : State) : Res :=
  s.pack 8 vd va m fun x => rne .f8e5 (v32 x)

/-- pk.i16 (R190). -/
def execPkI16 (vd va : VReg) (m : MReg) (_tok : Tok) (s : State) : Res :=
  s.pack 16 vd va m fun x => satI 16 x.toInt

/-- pk.i8 (R190). -/
def execPkI8 (vd va : VReg) (m : MReg) (_tok : Tok) (s : State) : Res :=
  s.pack 8 vd va m fun x => satI 8 x.toInt

/-- pk.n8 (R190). -/
def execPkN8 (vd va : VReg) (m : MReg) (_tok : Tok) (s : State) : Res :=
  s.pack 8 vd va m fun x => satN 8 x.toInt

/-- pk.t2 (R190). -/
def execPkT2 (vd va : VReg) (m : MReg) (_tok : Tok) (s : State) : Res :=
  s.pack 2 vd va m fun x => if x = 0 then 0 else if x.msb then 3 else 1

/-- upk.f16 (R191). -/
def execUpkF16 (vd va : VReg) (m : MReg) (_tok : Tok) (s : State) : Res :=
  s.unpack 16 vd va m fun x => r32 (fval .f16 x)

/-- upk.bf16 (R191). -/
def execUpkBf16 (vd va : VReg) (m : MReg) (_tok : Tok) (s : State) : Res :=
  s.unpack 16 vd va m fun x => r32 (fval .bf16 x)

/-- upk.f8e4 (R191). -/
def execUpkF8e4 (vd va : VReg) (m : MReg) (_tok : Tok) (s : State) : Res :=
  s.unpack 8 vd va m fun x => r32 (fval .f8e4 x)

/-- upk.f8e5 (R191). -/
def execUpkF8e5 (vd va : VReg) (m : MReg) (_tok : Tok) (s : State) : Res :=
  s.unpack 8 vd va m fun x => r32 (fval .f8e5 x)

/-- upk.i16 (R191). -/
def execUpkI16 (vd va : VReg) (m : MReg) (_tok : Tok) (s : State) : Res :=
  s.unpack 16 vd va m fun x => (BitVec.ofNat 16 x).signExtend 32

/-- upk.i8 (R191). -/
def execUpkI8 (vd va : VReg) (m : MReg) (_tok : Tok) (s : State) : Res :=
  s.unpack 8 vd va m fun x => (BitVec.ofNat 8 x).signExtend 32

/-- upk.n8 (R191). -/
def execUpkN8 (vd va : VReg) (m : MReg) (_tok : Tok) (s : State) : Res :=
  s.unpack 8 vd va m fun x => w32n x

/-- upk.t2 (R191). -/
def execUpkT2 (vd va : VReg) (m : MReg) (_tok : Tok) (s : State) : Res :=
  s.unpack 2 vd va m fun x => BitVec.ofInt 32 (t2Val x)

/-- vexp2 (R188, R90). -/
def execVexp2 (vd va : VReg) (m : MReg) (_tok : Tok) (s : State) : Res :=
  s.vx 10 1 vd va m exp2Dev

/-- vrcp (R188). -/
def execVrcp (vd va : VReg) (m : MReg) (_tok : Tok) (s : State) : Res :=
  s.vx 12 2 vd va m rcpDev

/-- vrsq (R188). -/
def execVrsq (vd va : VReg) (m : MReg) (_tok : Tok) (s : State) : Res :=
  s.vx 12 2 vd va m rsqDev

/-- vneg.f32 (R188). -/
def execVnegF32 (vd va : VReg) (m : MReg) (_tok : Tok) (s : State) : Res :=
  s.vx 2 1 vd va m fun x => if isNan32 x then nan32 else x ^^^ 0x80000000

/-- vabs.f32 (R188). -/
def execVabsF32 (vd va : VReg) (m : MReg) (_tok : Tok) (s : State) : Res :=
  s.vx 2 1 vd va m fun x => if isNan32 x then nan32 else x &&& 0x7FFFFFFF

/-- vneg.i32 (R188). -/
def execVnegI32 (vd va : VReg) (m : MReg) (_tok : Tok) (s : State) : Res :=
  s.vx 2 1 vd va m fun x => -x

/-- vabs.i32 (R188). -/
def execVabsI32 (vd va : VReg) (m : MReg) (_tok : Tok) (s : State) : Res :=
  s.vx 2 1 vd va m fun x => if x.msb then -x else x

/-- vmov (R188). -/
def execVmov (vd va : VReg) (m : MReg) (_tok : Tok) (s : State) : Res :=
  s.vx 2 1 vd va m fun x => x

/-- vrsum.f32 (R192). -/
def execVrsumF32 (vd va : VReg) (m : MReg) (_tok : Tok) (s : State) : Res :=
  s.vred vd va m fadd 0x80000000

/-- vrmax.f32 (R192). -/
def execVrmaxF32 (vd va : VReg) (m : MReg) (_tok : Tok) (s : State) : Res :=
  s.vred vd va m fmaxDev 0xFF800000

/-- vrmin.f32 (R192). -/
def execVrminF32 (vd va : VReg) (m : MReg) (_tok : Tok) (s : State) : Res :=
  s.vred vd va m fminDev 0x7F800000

/-- vrsum.i32 (R192). -/
def execVrsumI32 (vd va : VReg) (m : MReg) (_tok : Tok) (s : State) : Res :=
  s.vred vd va m (fun x y => x + y) 0

/-- vrmax.i32 (R192). -/
def execVrmaxI32 (vd va : VReg) (m : MReg) (_tok : Tok) (s : State) : Res :=
  s.vred vd va m (fun x y => if x.slt y then y else x) 0x80000000

/-- vrmin.i32 (R192). -/
def execVrminI32 (vd va : VReg) (m : MReg) (_tok : Tok) (s : State) : Res :=
  s.vred vd va m (fun x y => if y.slt x then y else x) 0x7FFFFFFF

/-- vrmax.n32 (R192). -/
def execVrmaxN32 (vd va : VReg) (m : MReg) (_tok : Tok) (s : State) : Res :=
  s.vred vd va m (fun x y => if x.ult y then y else x) 0

/-- vrmin.n32 (R192). -/
def execVrminN32 (vd va : VReg) (m : MReg) (_tok : Tok) (s : State) : Res :=
  s.vred vd va m (fun x y => if y.ult x then y else x) 0xFFFFFFFF

/-- vscan.f32 (R193). -/
def execVscanF32 (vd va : VReg) (m : MReg) (_tok : Tok) (s : State) : Res :=
  s.vscan vd va m fadd 0x80000000

/-- vscan.i32 (R193). -/
def execVscanI32 (vd va : VReg) (m : MReg) (_tok : Tok) (s : State) : Res :=
  s.vscan vd va m (fun x y => x + y) 0

/-- mand (R195). -/
def execMand (md ma mb : MReg) (_tok : Tok) (s : State) : Res :=
  s.vmsk md (s.mreg ma.toNat 0 &&& s.mreg mb.toNat 1)

/-- mor (R195). -/
def execMor (md ma mb : MReg) (_tok : Tok) (s : State) : Res :=
  s.vmsk md (s.mreg ma.toNat 0 ||| s.mreg mb.toNat 1)

/-- mxor (R195). -/
def execMxor (md ma mb : MReg) (_tok : Tok) (s : State) : Res :=
  s.vmsk md (s.mreg ma.toNat 0 ^^^ s.mreg mb.toNat 1)

/-- mandn (R195). -/
def execMandn (md ma mb : MReg) (_tok : Tok) (s : State) : Res :=
  s.vmsk md (s.mreg ma.toNat 0 &&& ~~~(s.mreg mb.toNat 1))

/-- mnot (R195). -/
def execMnot (md ma : MReg) (_tok : Tok) (s : State) : Res :=
  s.vmsk md (~~~(s.mreg ma.toNat 0))

/-- mmov (R195). -/
def execMmov (md ma : MReg) (_tok : Tok) (s : State) : Res :=
  s.vmsk md (s.mreg ma.toNat 0)

/-- mcnt: the count of the bits that both masks set, in every lane (R195). -/
def execMcnt (vd : VReg) (ma mb : MReg) (_tok : Tok) (s : State) : Res :=
  s.vecOut 2 1 vd (BitVec.allOnes 64)
    (List.replicate 64 (w32n (popcount 64 (s.mreg ma.toNat 0 &&& s.mreg mb.toNat 1).toNat)))

end Sys2Proof.Machine
end

