-- ==== Sys2Proof/Machine/Dispatch.lean ====
section
/-!
DEFINITION. The dispatch: one arm per constructor of `Instr`, each one direct call of its meaning.
-/

namespace Sys2Proof.Machine

/-- What one instruction or event does. -/
def exec (i : Instr) (s : State) : Host.Outcome State Fault Refusal :=
  match i with
  | .add d a b => Sys2Proof.Machine.execAdd d a b s
  | .sub d a b => Sys2Proof.Machine.execSub d a b s
  | .mul d a b => Sys2Proof.Machine.execMul d a b s
  | .mulh d a b => Sys2Proof.Machine.execMulh d a b s
  | .mulhn d a b => Sys2Proof.Machine.execMulhn d a b s
  | .div d a b => Sys2Proof.Machine.execDiv d a b s
  | .divn d a b => Sys2Proof.Machine.execDivn d a b s
  | .rem d a b => Sys2Proof.Machine.execRem d a b s
  | .remn d a b => Sys2Proof.Machine.execRemn d a b s
  | .and d a b => Sys2Proof.Machine.execAnd d a b s
  | .or d a b => Sys2Proof.Machine.execOr d a b s
  | .xor d a b => Sys2Proof.Machine.execXor d a b s
  | .andn d a b => Sys2Proof.Machine.execAndn d a b s
  | .shl d a b => Sys2Proof.Machine.execShl d a b s
  | .shr d a b => Sys2Proof.Machine.execShr d a b s
  | .sar d a b => Sys2Proof.Machine.execSar d a b s
  | .rol d a b => Sys2Proof.Machine.execRol d a b s
  | .min d a b => Sys2Proof.Machine.execMin d a b s
  | .max d a b => Sys2Proof.Machine.execMax d a b s
  | .minn d a b => Sys2Proof.Machine.execMinn d a b s
  | .maxn d a b => Sys2Proof.Machine.execMaxn d a b s
  | .clz d a => Sys2Proof.Machine.execClz d a s
  | .ctz d a => Sys2Proof.Machine.execCtz d a s
  | .popc d a => Sys2Proof.Machine.execPopc d a s
  | .sext8 d a => Sys2Proof.Machine.execSext8 d a s
  | .sext16 d a => Sys2Proof.Machine.execSext16 d a s
  | .sext32 d a => Sys2Proof.Machine.execSext32 d a s
  | .cmpEq d a b => Sys2Proof.Machine.execCmpEq d a b s
  | .cmpNe d a b => Sys2Proof.Machine.execCmpNe d a b s
  | .cmpLt d a b => Sys2Proof.Machine.execCmpLt d a b s
  | .cmpLtn d a b => Sys2Proof.Machine.execCmpLtn d a b s
  | .cmpLe d a b => Sys2Proof.Machine.execCmpLe d a b s
  | .cmpLen d a b => Sys2Proof.Machine.execCmpLen d a b s
  | .sel d a b => Sys2Proof.Machine.execSel d a b s
  | .mov d b => Sys2Proof.Machine.execMov d b s
  | .addi d a imm => Sys2Proof.Machine.execAddi d a imm s
  | .andi d a imm => Sys2Proof.Machine.execAndi d a imm s
  | .ori d a imm => Sys2Proof.Machine.execOri d a imm s
  | .xori d a imm => Sys2Proof.Machine.execXori d a imm s
  | .shlImm d a n => Sys2Proof.Machine.execShlImm d a n s
  | .shrImm d a n => Sys2Proof.Machine.execShrImm d a n s
  | .sarImm d a n => Sys2Proof.Machine.execSarImm d a n s
  | .rolImm d a n => Sys2Proof.Machine.execRolImm d a n s
  | .li d imm => Sys2Proof.Machine.execLi d imm s
  | .lih d imm => Sys2Proof.Machine.execLih d imm s
  | .lif d imm => Sys2Proof.Machine.execLif d imm s
  | .bcZ a off => Sys2Proof.Machine.execBcZ a off s
  | .bcNz a off => Sys2Proof.Machine.execBcNz a off s
  | .bcLt a off => Sys2Proof.Machine.execBcLt a off s
  | .bcGe a off => Sys2Proof.Machine.execBcGe a off s
  | .call a off => Sys2Proof.Machine.execCall a off s
  | .loop n off => Sys2Proof.Machine.execLoop n off s
  | .jr a b => Sys2Proof.Machine.execJr a b s
  | .ret a => Sys2Proof.Machine.execRet a s
  | .spawn d a b => Sys2Proof.Machine.execSpawn d a b s
  | .idx d sel => Sys2Proof.Machine.execIdx d sel s
  | .cyc d => Sys2Proof.Machine.execCyc d s
  | .time d => Sys2Proof.Machine.execTime d s
  | .csrr d n => Sys2Proof.Machine.execCsrr d n s
  | .csrw n b => Sys2Proof.Machine.execCsrw n b s
  | .lit d a b => Sys2Proof.Machine.execLit d a b s
  | .adda d a b => Sys2Proof.Machine.execAdda d a b s
  | .esig a b => Sys2Proof.Machine.execEsig a b s
  | .eset n b => Sys2Proof.Machine.execEset n b s
  | .eget d n => Sys2Proof.Machine.execEget d n s
  | .ewait n cond b => Sys2Proof.Machine.execEwait n cond b s
  | .trap b => Sys2Proof.Machine.execTrap b s
  | .ctxs a => Sys2Proof.Machine.execCtxs a s
  | .ctxr a => Sys2Proof.Machine.execCtxr a s
  | .wfe d b => Sys2Proof.Machine.execWfe d b s
  | .halt b => Sys2Proof.Machine.execHalt b s
  | .bdecl g a b => Sys2Proof.Machine.execBdecl g a b s
  | .barvRel g j => Sys2Proof.Machine.execBarvRel g j s
  | .barvRlx g j => Sys2Proof.Machine.execBarvRlx g j s
  | .barw g j => Sys2Proof.Machine.execBarw g j s
  | .bara g j => Sys2Proof.Machine.execBara g j s
  | .bstat d g => Sys2Proof.Machine.execBstat d g s
  | .probe d t b => Sys2Proof.Machine.execProbe d t b s
  | .pgreq d t b => Sys2Proof.Machine.execPgreq d t b s
  | .tinv t b => Sys2Proof.Machine.execTinv t b s
  | .tdesc t b => Sys2Proof.Machine.execTdesc t b s
  | .qlaunch d a b => Sys2Proof.Machine.execQlaunch d a b s
  | .qpatch d a b => Sys2Proof.Machine.execQpatch d a b s
  | .sstat d sel => Sys2Proof.Machine.execSstat d sel s
  | .kvalloc d a b => Sys2Proof.Machine.execKvalloc d a b s
  | .kvfree d a b => Sys2Proof.Machine.execKvfree d a b s
  | .kvchk d a => Sys2Proof.Machine.execKvchk d a s
  | .epush e a b => Sys2Proof.Machine.execEpush e a b s
  | .epop d e b => Sys2Proof.Machine.execEpop d e b s
  | .estat d e => Sys2Proof.Machine.execEstat d e s
  | .cpy ch b => Sys2Proof.Machine.execCpy ch b s
  | .cpym ch a b => Sys2Proof.Machine.execCpym ch a b s
  | .cpyg ch a b => Sys2Proof.Machine.execCpyg ch a b s
  | .drain d ch => Sys2Proof.Machine.execDrain d ch s
  | .chlink ch a b => Sys2Proof.Machine.execChlink ch a b s
  | .chkick ch b => Sys2Proof.Machine.execChkick ch b s
  | .sbq d b => Sys2Proof.Machine.execSbq d b s
  | .tmbRlx d a b => Sys2Proof.Machine.execTmbRlx d a b s
  | .tmbAcq d a b => Sys2Proof.Machine.execTmbAcq d a b s
  | .tmbRel d a b => Sys2Proof.Machine.execTmbRel d a b s
  | .tmbTRlx d a b => Sys2Proof.Machine.execTmbTRlx d a b s
  | .tmbTAcq d a b => Sys2Proof.Machine.execTmbTAcq d a b s
  | .tmbTRel d a b => Sys2Proof.Machine.execTmbTRel d a b s
  | .attn a b => Sys2Proof.Machine.execAttn a b s
  | .attnP8 a b => Sys2Proof.Machine.execAttnP8 a b s
  | .attnP8n a b => Sys2Proof.Machine.execAttnP8n a b s
  | .attw d b => Sys2Proof.Machine.execAttw d b s
  | .coll d a => Sys2Proof.Machine.execColl d a s
  | .famo op wide a b => Sys2Proof.Machine.execFamo op wide a b s
  | .fsig a b => Sys2Proof.Machine.execFsig a b s
  | .fwin d b => Sys2Proof.Machine.execFwin d b s
  | .encsub a => Sys2Proof.Machine.execEncsub a s
  | .lds d a size off tok => Sys2Proof.Machine.execLds d a size off tok s
  | .sts d a size off tok => Sys2Proof.Machine.execSts d a size off tok s
  | .vlds v a m off tok => Sys2Proof.Machine.execVlds v a m off tok s
  | .vsts v a m off tok => Sys2Proof.Machine.execVsts v a m off tok s
  | .ldro v a m off tok => Sys2Proof.Machine.execLdro v a m off tok s
  | .vldsg v a vi m tok => Sys2Proof.Machine.execVldsg v a vi m tok s
  | .vstss v a vi m tok => Sys2Proof.Machine.execVstss v a vi m tok s
  | .ldg v t xc m tok => Sys2Proof.Machine.execLdg v t xc m tok s
  | .stg v t xc m tok => Sys2Proof.Machine.execStg v t xc m tok s
  | .pref ro t xc tok => Sys2Proof.Machine.execPref ro t xc tok s
  | .amoAdd d a wide l tok => Sys2Proof.Machine.execAmoAdd d a wide l tok s
  | .amoMin d a wide l tok => Sys2Proof.Machine.execAmoMin d a wide l tok s
  | .amoMax d a wide l tok => Sys2Proof.Machine.execAmoMax d a wide l tok s
  | .amoMinn d a wide l tok => Sys2Proof.Machine.execAmoMinn d a wide l tok s
  | .amoMaxn d a wide l tok => Sys2Proof.Machine.execAmoMaxn d a wide l tok s
  | .amoAnd d a wide l tok => Sys2Proof.Machine.execAmoAnd d a wide l tok s
  | .amoOr d a wide l tok => Sys2Proof.Machine.execAmoOr d a wide l tok s
  | .amoXor d a wide l tok => Sys2Proof.Machine.execAmoXor d a wide l tok s
  | .amoSwap d a wide l tok => Sys2Proof.Machine.execAmoSwap d a wide l tok s
  | .amoCas d a wide l tok => Sys2Proof.Machine.execAmoCas d a wide l tok s
  | .rclaim d a tok => Sys2Proof.Machine.execRclaim d a tok s
  | .rwait d a tok => Sys2Proof.Machine.execRwait d a tok s
  | .rstat d a tok => Sys2Proof.Machine.execRstat d a tok s
  | .rinit d a tok => Sys2Proof.Machine.execRinit d a tok s
  | .rfill d a tok => Sys2Proof.Machine.execRfill d a tok s
  | .rrel d a tok => Sys2Proof.Machine.execRrel d a tok s
  | .vaddF32 vd va b tok => Sys2Proof.Machine.execVaddF32 vd va b tok s
  | .vsubF32 vd va b tok => Sys2Proof.Machine.execVsubF32 vd va b tok s
  | .vmulF32 vd va b tok => Sys2Proof.Machine.execVmulF32 vd va b tok s
  | .vfmaF32 vd va b tok => Sys2Proof.Machine.execVfmaF32 vd va b tok s
  | .vfmacF32 vd va b tok => Sys2Proof.Machine.execVfmacF32 vd va b tok s
  | .vminF32 vd va b tok => Sys2Proof.Machine.execVminF32 vd va b tok s
  | .vmaxF32 vd va b tok => Sys2Proof.Machine.execVmaxF32 vd va b tok s
  | .vaddI32 vd va b tok => Sys2Proof.Machine.execVaddI32 vd va b tok s
  | .vsubI32 vd va b tok => Sys2Proof.Machine.execVsubI32 vd va b tok s
  | .vmulI32 vd va b tok => Sys2Proof.Machine.execVmulI32 vd va b tok s
  | .vaddsI32 vd va b tok => Sys2Proof.Machine.execVaddsI32 vd va b tok s
  | .vsubsI32 vd va b tok => Sys2Proof.Machine.execVsubsI32 vd va b tok s
  | .vaddsN32 vd va b tok => Sys2Proof.Machine.execVaddsN32 vd va b tok s
  | .vsubsN32 vd va b tok => Sys2Proof.Machine.execVsubsN32 vd va b tok s
  | .vminI32 vd va b tok => Sys2Proof.Machine.execVminI32 vd va b tok s
  | .vmaxI32 vd va b tok => Sys2Proof.Machine.execVmaxI32 vd va b tok s
  | .vminN32 vd va b tok => Sys2Proof.Machine.execVminN32 vd va b tok s
  | .vmaxN32 vd va b tok => Sys2Proof.Machine.execVmaxN32 vd va b tok s
  | .vand vd va b tok => Sys2Proof.Machine.execVand vd va b tok s
  | .vor vd va b tok => Sys2Proof.Machine.execVor vd va b tok s
  | .vxor vd va b tok => Sys2Proof.Machine.execVxor vd va b tok s
  | .vshl vd va b tok => Sys2Proof.Machine.execVshl vd va b tok s
  | .vshr vd va b tok => Sys2Proof.Machine.execVshr vd va b tok s
  | .vsar vd va b tok => Sys2Proof.Machine.execVsar vd va b tok s
  | .vcmpF32 md rel va b tok => Sys2Proof.Machine.execVcmpF32 md rel va b tok s
  | .vcmpI32 md rel va b tok => Sys2Proof.Machine.execVcmpI32 md rel va b tok s
  | .vcmpN32 md rel va b tok => Sys2Proof.Machine.execVcmpN32 md rel va b tok s
  | .vsel vd va b tok => Sys2Proof.Machine.execVsel vd va b tok s
  | .vperm vd va b tok => Sys2Proof.Machine.execVperm vd va b tok s
  | .vrot vd va b tok => Sys2Proof.Machine.execVrot vd va b tok s
  | .vext vd va b tok => Sys2Proof.Machine.execVext vd va b tok s
  | .vins vd va b tok => Sys2Proof.Machine.execVins vd va b tok s
  | .vbcast vd va b tok => Sys2Proof.Machine.execVbcast vd va b tok s
  | .vsplat vd b tok => Sys2Proof.Machine.execVsplat vd b tok s
  | .vtopk vd va b tok => Sys2Proof.Machine.execVtopk vd va b tok s
  | .cvtF32I32 vd va m tok => Sys2Proof.Machine.execCvtF32I32 vd va m tok s
  | .cvtF32N32 vd va m tok => Sys2Proof.Machine.execCvtF32N32 vd va m tok s
  | .cvtI32F32 vd va m tok => Sys2Proof.Machine.execCvtI32F32 vd va m tok s
  | .cvtI32F32Rz vd va m tok => Sys2Proof.Machine.execCvtI32F32Rz vd va m tok s
  | .cvtN32F32 vd va m tok => Sys2Proof.Machine.execCvtN32F32 vd va m tok s
  | .cvtN32F32Rz vd va m tok => Sys2Proof.Machine.execCvtN32F32Rz vd va m tok s
  | .pkF16 vd va m tok => Sys2Proof.Machine.execPkF16 vd va m tok s
  | .pkBf16 vd va m tok => Sys2Proof.Machine.execPkBf16 vd va m tok s
  | .pkBf16Rz vd va m tok => Sys2Proof.Machine.execPkBf16Rz vd va m tok s
  | .pkF8e4Sat vd va m tok => Sys2Proof.Machine.execPkF8e4Sat vd va m tok s
  | .pkF8e4Nan vd va m tok => Sys2Proof.Machine.execPkF8e4Nan vd va m tok s
  | .pkF8e5 vd va m tok => Sys2Proof.Machine.execPkF8e5 vd va m tok s
  | .pkI16 vd va m tok => Sys2Proof.Machine.execPkI16 vd va m tok s
  | .pkI8 vd va m tok => Sys2Proof.Machine.execPkI8 vd va m tok s
  | .pkN8 vd va m tok => Sys2Proof.Machine.execPkN8 vd va m tok s
  | .pkT2 vd va m tok => Sys2Proof.Machine.execPkT2 vd va m tok s
  | .upkF16 vd va m tok => Sys2Proof.Machine.execUpkF16 vd va m tok s
  | .upkBf16 vd va m tok => Sys2Proof.Machine.execUpkBf16 vd va m tok s
  | .upkF8e4 vd va m tok => Sys2Proof.Machine.execUpkF8e4 vd va m tok s
  | .upkF8e5 vd va m tok => Sys2Proof.Machine.execUpkF8e5 vd va m tok s
  | .upkI16 vd va m tok => Sys2Proof.Machine.execUpkI16 vd va m tok s
  | .upkI8 vd va m tok => Sys2Proof.Machine.execUpkI8 vd va m tok s
  | .upkN8 vd va m tok => Sys2Proof.Machine.execUpkN8 vd va m tok s
  | .upkT2 vd va m tok => Sys2Proof.Machine.execUpkT2 vd va m tok s
  | .cvtF32E8 vd va m tok => Sys2Proof.Machine.execCvtF32E8 vd va m tok s
  | .vexp2 vd va m tok => Sys2Proof.Machine.execVexp2 vd va m tok s
  | .vrcp vd va m tok => Sys2Proof.Machine.execVrcp vd va m tok s
  | .vrsq vd va m tok => Sys2Proof.Machine.execVrsq vd va m tok s
  | .vnegF32 vd va m tok => Sys2Proof.Machine.execVnegF32 vd va m tok s
  | .vabsF32 vd va m tok => Sys2Proof.Machine.execVabsF32 vd va m tok s
  | .vnegI32 vd va m tok => Sys2Proof.Machine.execVnegI32 vd va m tok s
  | .vabsI32 vd va m tok => Sys2Proof.Machine.execVabsI32 vd va m tok s
  | .vmov vd va m tok => Sys2Proof.Machine.execVmov vd va m tok s
  | .vrsumF32 vd va m tok => Sys2Proof.Machine.execVrsumF32 vd va m tok s
  | .vrmaxF32 vd va m tok => Sys2Proof.Machine.execVrmaxF32 vd va m tok s
  | .vrminF32 vd va m tok => Sys2Proof.Machine.execVrminF32 vd va m tok s
  | .vrsumI32 vd va m tok => Sys2Proof.Machine.execVrsumI32 vd va m tok s
  | .vrmaxI32 vd va m tok => Sys2Proof.Machine.execVrmaxI32 vd va m tok s
  | .vrminI32 vd va m tok => Sys2Proof.Machine.execVrminI32 vd va m tok s
  | .vrmaxN32 vd va m tok => Sys2Proof.Machine.execVrmaxN32 vd va m tok s
  | .vrminN32 vd va m tok => Sys2Proof.Machine.execVrminN32 vd va m tok s
  | .vscanF32 vd va m tok => Sys2Proof.Machine.execVscanF32 vd va m tok s
  | .vscanI32 vd va m tok => Sys2Proof.Machine.execVscanI32 vd va m tok s
  | .mand md ma mb tok => Sys2Proof.Machine.execMand md ma mb tok s
  | .mor md ma mb tok => Sys2Proof.Machine.execMor md ma mb tok s
  | .mxor md ma mb tok => Sys2Proof.Machine.execMxor md ma mb tok s
  | .mandn md ma mb tok => Sys2Proof.Machine.execMandn md ma mb tok s
  | .mnot md ma tok => Sys2Proof.Machine.execMnot md ma tok s
  | .mmov md ma tok => Sys2Proof.Machine.execMmov md ma tok s
  | .mcnt vd ma mb tok => Sys2Proof.Machine.execMcnt vd ma mb tok s
  | .mmaF8e4 z g a l sat tok => Sys2Proof.Machine.execMmaF8e4 z g a l sat tok s
  | .mmaF8e5 z g a l sat tok => Sys2Proof.Machine.execMmaF8e5 z g a l sat tok s
  | .mmaF8x z g a l sat tok => Sys2Proof.Machine.execMmaF8x z g a l sat tok s
  | .mmaBf16 z g a l sat tok => Sys2Proof.Machine.execMmaBf16 z g a l sat tok s
  | .mmaF16 z g a l sat tok => Sys2Proof.Machine.execMmaF16 z g a l sat tok s
  | .mmaI8 z g a l sat tok => Sys2Proof.Machine.execMmaI8 z g a l sat tok s
  | .mmaI8n z g a l sat tok => Sys2Proof.Machine.execMmaI8n z g a l sat tok s
  | .mmaT2 z g a l sat tok => Sys2Proof.Machine.execMmaT2 z g a l sat tok s
  | .mmaF32x3 z g a l sat tok => Sys2Proof.Machine.execMmaF32x3 z g a l sat tok s
  | .csld g a l tok => Sys2Proof.Machine.execCsld g a l tok s
  | .csldt e g a l tok => Sys2Proof.Machine.execCsldt e g a l tok s
  | .acscE8 z p clr a l tok => Sys2Proof.Machine.execAcscE8 z p clr a l tok s
  | .acscF32 z p clr a l tok => Sys2Proof.Machine.execAcscF32 z p clr a l tok s
  | .acz z tok => Sys2Proof.Machine.execAcz z tok s
  | .acld z f a l tok => Sys2Proof.Machine.execAcld z f a l tok s
  | .acst z f a l tok => Sys2Proof.Machine.execAcst z f a l tok s
  | .acmv z a tok => Sys2Proof.Machine.execAcmv z a tok s
  | .acvr v col a tok => Sys2Proof.Machine.execAcvr v col a tok s
  | .acrd v col a tok => Sys2Proof.Machine.execAcrd v col a tok s
  | .haspAcq budget prio tok => Sys2Proof.Machine.execHaspAcq budget prio tok s
  | .haspRel tok => Sys2Proof.Machine.execHaspRel tok s
  | .badv0 => Sys2Proof.Machine.execBadv0 s
  | .badv1 => Sys2Proof.Machine.execBadv1 s
  | .badv2 => Sys2Proof.Machine.execBadv2 s
  | .badv3 => Sys2Proof.Machine.execBadv3 s
  | .ccan0 => Sys2Proof.Machine.execCcan0 s
  | .ccan1 => Sys2Proof.Machine.execCcan1 s
  | .ccan2 => Sys2Proof.Machine.execCcan2 s
  | .ccan3 => Sys2Proof.Machine.execCcan3 s
  | .join => Sys2Proof.Machine.execJoin s
  | .yield => Sys2Proof.Machine.execYield s
  | .exit => Sys2Proof.Machine.execExit s
  | .fenceStrand => Sys2Proof.Machine.execFenceStrand s
  | .fenceCore => Sys2Proof.Machine.execFenceCore s
  | .fenceGroup => Sys2Proof.Machine.execFenceGroup s
  | .fenceDev => Sys2Proof.Machine.execFenceDev s
  | .fenceWin => Sys2Proof.Machine.execFenceWin s
  | .fenceSys => Sys2Proof.Machine.execFenceSys s
  | .eret => Sys2Proof.Machine.execEret s
  | .tsync => Sys2Proof.Machine.execTsync s
  | .powerOnReset => Sys2Proof.Machine.execPowerOnReset s
  | .moduleReset => Sys2Proof.Machine.execModuleReset s
  | .frontEndReady => Sys2Proof.Machine.execFrontEndReady s
  | .dataPlaneRelease => Sys2Proof.Machine.execDataPlaneRelease s
  | .frontEndFirmwareRestart => Sys2Proof.Machine.execFrontEndFirmwareRestart s
  | .managementCoreReset => Sys2Proof.Machine.execManagementCoreReset s
  | .functionLevelReset => Sys2Proof.Machine.execFunctionLevelReset s
  | .hostLinkAccess => Sys2Proof.Machine.execHostLinkAccess s
  | .telemetrySnapshot => Sys2Proof.Machine.execTelemetrySnapshot s
  | .submissionWrite => Sys2Proof.Machine.execSubmissionWrite s
  | .queueEnable => Sys2Proof.Machine.execQueueEnable s
  | .queueReset => Sys2Proof.Machine.execQueueReset s
  | .functionRecordWrite => Sys2Proof.Machine.execFunctionRecordWrite s
  | .registerWrite => Sys2Proof.Machine.execRegisterWrite s
  | .tenantRecordWrite => Sys2Proof.Machine.execTenantRecordWrite s
  | .directoryInvalidate => Sys2Proof.Machine.execDirectoryInvalidate s
  | .kvPoolDeclare => Sys2Proof.Machine.execKvPoolDeclare s
  | .keyLoad => Sys2Proof.Machine.execKeyLoad s
  | .keyErase => Sys2Proof.Machine.execKeyErase s
  | .windowForm => Sys2Proof.Machine.execWindowForm s
  | .windowUpdateRoutes => Sys2Proof.Machine.execWindowUpdateRoutes s
  | .windowDissolve => Sys2Proof.Machine.execWindowDissolve s
  | .pin => Sys2Proof.Machine.execPin s
  | .unpin => Sys2Proof.Machine.execUnpin s
  | .attestationReport => Sys2Proof.Machine.execAttestationReport s
  | .raiseRollbackFloor => Sys2Proof.Machine.execRaiseRollbackFloor s
  | .unfreezeBlackBoxRecord => Sys2Proof.Machine.execUnfreezeBlackBoxRecord s
  | .loadTime => Sys2Proof.Machine.execLoadTime s
  | .recoveryImage => Sys2Proof.Machine.execRecoveryImage s
  | .telemetryRead => Sys2Proof.Machine.execTelemetryRead s
  | .blackBoxNote => Sys2Proof.Machine.execBlackBoxNote s
  | .kvCreate => Sys2Proof.Machine.execKvCreate s
  | .kvDestroy => Sys2Proof.Machine.execKvDestroy s
  | .kvReturnCache => Sys2Proof.Machine.execKvReturnCache s
  | .thermalThrottleStep => Sys2Proof.Machine.execThermalThrottleStep s
  | .thermalRecoverStep => Sys2Proof.Machine.execThermalRecoverStep s
  | .fatalFault => Sys2Proof.Machine.execFatalFault s
  | .sectorPoison => Sys2Proof.Machine.execSectorPoison s
  | .strandEccError => Sys2Proof.Machine.execStrandEccError s
  | .bundleIssue => Sys2Proof.Machine.execBundleIssue s
  | .tokenDeadlock => Sys2Proof.Machine.execTokenDeadlock s
  | .tokenStranded => Sys2Proof.Machine.execTokenStranded s
  | .eventIncrementApply => Sys2Proof.Machine.execEventIncrementApply s
  | .taskTake => Sys2Proof.Machine.execTaskTake s
  | .placementStart => Sys2Proof.Machine.execPlacementStart s
  | .placementRetire => Sys2Proof.Machine.execPlacementRetire s
  | .ringWaiterWake => Sys2Proof.Machine.execRingWaiterWake s
  | .handlerEntry => Sys2Proof.Machine.execHandlerEntry s
  | .nodeTermination => Sys2Proof.Machine.execNodeTermination s
  | .preemptionRequest => Sys2Proof.Machine.execPreemptionRequest s
  | .handlerOverrunTimeout => Sys2Proof.Machine.execHandlerOverrunTimeout s
  | .contextSave => Sys2Proof.Machine.execContextSave s
  | .groupResume => Sys2Proof.Machine.execGroupResume s
  | .keptWaitComplete => Sys2Proof.Machine.execKeptWaitComplete s
  | .wfeTimeout => Sys2Proof.Machine.execWfeTimeout s
  | .barrierArrivalCount => Sys2Proof.Machine.execBarrierArrivalCount s
  | .barrierDelivery => Sys2Proof.Machine.execBarrierDelivery s
  | .translationWalk => Sys2Proof.Machine.execTranslationWalk s
  | .copyBegin => Sys2Proof.Machine.execCopyBegin s
  | .gatherBlockBegin => Sys2Proof.Machine.execGatherBlockBegin s
  | .landingBegin => Sys2Proof.Machine.execLandingBegin s
  | .landingComplete => Sys2Proof.Machine.execLandingComplete s
  | .copyComplete => Sys2Proof.Machine.execCopyComplete s
  | .chainEntryFetch => Sys2Proof.Machine.execChainEntryFetch s
  | .haspGrant => Sys2Proof.Machine.execHaspGrant s
  | .routineInstall => Sys2Proof.Machine.execRoutineInstall s
  | .tmbRoutineRun => Sys2Proof.Machine.execTmbRoutineRun s
  | .tmbResultReturn => Sys2Proof.Machine.execTmbResultReturn s
  | .sectorEviction => Sys2Proof.Machine.execSectorEviction s
  | .kvRefillGrant => Sys2Proof.Machine.execKvRefillGrant s
  | .attentionRequestBegin => Sys2Proof.Machine.execAttentionRequestBegin s
  | .attentionRequestComplete => Sys2Proof.Machine.execAttentionRequestComplete s
  | .linkFlitResend => Sys2Proof.Machine.execLinkFlitResend s
  | .linkDown => Sys2Proof.Machine.execLinkDown s
  | .flowStop => Sys2Proof.Machine.execFlowStop s
  | .flowGo => Sys2Proof.Machine.execFlowGo s
  | .timingMessage => Sys2Proof.Machine.execTimingMessage s
  | .remoteAccessHome => Sys2Proof.Machine.execRemoteAccessHome s
  | .famoApply => Sys2Proof.Machine.execFamoApply s
  | .fsigApply => Sys2Proof.Machine.execFsigApply s
  | .collContributionMerge => Sys2Proof.Machine.execCollContributionMerge s
  | .collComplete => Sys2Proof.Machine.execCollComplete s
  | .collPreemptTimeout => Sys2Proof.Machine.execCollPreemptTimeout s
  | .remoteTermination => Sys2Proof.Machine.execRemoteTermination s
  | .nodeForward => Sys2Proof.Machine.execNodeForward s
  | .forwardedEntryComplete => Sys2Proof.Machine.execForwardedEntryComplete s
  | .windowFormMatch => Sys2Proof.Machine.execWindowFormMatch s
  | .windowFormTimeout => Sys2Proof.Machine.execWindowFormTimeout s
  | .nop => Sys2Proof.Machine.execNop s
  | .node => Sys2Proof.Machine.execNode s
  | .dec => Sys2Proof.Machine.execDec s
  | .wait => Sys2Proof.Machine.execWait s
  | .waitSatisfied => Sys2Proof.Machine.execWaitSatisfied s
  | .signal => Sys2Proof.Machine.execSignal s
  | .ffence => Sys2Proof.Machine.execFfence s
  | .streamSetup => Sys2Proof.Machine.execStreamSetup s
  | .streamStop => Sys2Proof.Machine.execStreamStop s
  | .streamReleaseAnchors => Sys2Proof.Machine.execStreamReleaseAnchors s
  | .frame => Sys2Proof.Machine.execFrame s
  | .frameRelease => Sys2Proof.Machine.execFrameRelease s
  | .frameSlotClaim => Sys2Proof.Machine.execFrameSlotClaim s
  | .queueMap => Sys2Proof.Machine.execQueueMap s
  | .nodeReadyCheck => Sys2Proof.Machine.execNodeReadyCheck s
  | .arbiterPlace => Sys2Proof.Machine.execArbiterPlace s
  | .preemptionDecision => Sys2Proof.Machine.execPreemptionDecision s
  | .completionRecord => Sys2Proof.Machine.execCompletionRecord s
  | .encoderTakeSlot => Sys2Proof.Machine.execEncoderTakeSlot s
  | .encoderRecordPublish => Sys2Proof.Machine.execEncoderRecordPublish s
  | .clkEdge => Sys2Proof.Machine.execClkEdge s
  | .timeAdvance => Sys2Proof.Machine.execTimeAdvance s
  | .softErrorCorrected => Sys2Proof.Machine.execSoftErrorCorrected s
  | .unknownPacketType => Sys2Proof.Machine.execUnknownPacketType s
  | .unknownOpcode => Sys2Proof.Machine.execUnknownOpcode s
  | .lossOfPower => Sys2Proof.Machine.execLossOfPower s

end Sys2Proof.Machine
end

