-- ==== Sys2Proof/Machine/Round.lean ====
section
/-!
DEFINITION. What one move does, where the moves come from when the agenda names none, and what stands where the fetch of one
instruction looks for it (log entries 1 and 13).
-/

namespace Sys2Proof.Machine

/-! ### One move -/

/-- Run the instruction of a context that is handed over: a SEQ form with its bundle, the bundle alone where it holds none, or an
instruction of a queue (R45, R48). -/
def State.runCtx (s : State) (cx : Ctx) : Res :=
  if cx.bare then .next { s with cur := cx }.issued
  else
    match decodeWord cx.entry.word.toNat cx.entry.lit with
    | .ok i => exec i { s with cur := cx }
    | .error _ => .fault .handover

/-- Run contexts one after another. -/
def State.runAll (s : State) : List Ctx → Res
  | [] => .next s
  | cx :: l =>
    match s.runCtx cx with
    | .next t => t.runAll l
    | r => r

/-- Whether a bundle of the machine issues when its context runs. -/
def State.ctxIssues (s : State) (cx : Ctx) : Bool :=
  match s.runCtx cx with
  | .next t => (t.strand cx.core cx.strand).seq != (s.strand cx.core cx.strand).seq
  | _ => false

/-- Run what a move has handed over. Bundles that pair issue together; where one of them raises a cause in place of its issue, none
of them issues (R47, R48, R132, R483). -/
def State.runSlot (s0 : State) : Res :=
  let s := { s0 with slot := false, paired := [] }
  if !s0.slot then .next s
  else if s0.paired.isEmpty then s.runCtx s0.cur
  else if s0.paired.all s.ctxIssues then s.runAll s0.paired
  else
    let (held, raising) := s0.paired.partition s.ctxIssues
    State.runAll (held.foldl (fun s cx => { s with cur := cx }.unissued) s) raising

/-- Make one move. -/
def State.move (s : State) : Move → Res
  | .event i a =>
    match exec i { s with arg := a } with
    | .next t => t.runSlot
    | r => r
  | .head c h q => (s.headTurn c h q).runSlot

/-! ### A round (log entry 1) -/

/-- The events of a queue's thread. -/
def queueEvents : List Instr :=
  [.nop, .node, .dec, .wait, .waitSatisfied, .signal, .ffence, .streamSetup, .streamStop, .streamReleaseAnchors, .frame, .frameRelease,
    .frameSlotClaim, .unknownPacketType]

/-- The events of a strand. -/
def strandEvents : List Instr :=
  [.bundleIssue, .keptWaitComplete, .taskTake, .handlerEntry, .nodeTermination, .tokenDeadlock, .tokenStranded, .wfeTimeout,
    .handlerOverrunTimeout]

/-- The moves of the planes: boot, firmware, and what the front end does with nodes; completions come before what queues and
strands decrement (R428). -/
def State.feRound (s : State) : List Move :=
  let at_ := fun (i : Instr) (n : Nat) => Move.event i { n := n }
  let boot := if s.mg.booted.isNone then (if s.mg.recovery then [] else [Instr.powerOnReset]) else
    (if s.mg.up then [] else [Instr.managementCoreReset]) ++ (if s.fe.up then [] else [.frontEndFirmwareRestart]) ++
      (if s.mg.feReady then [] else [.frontEndReady]) ++ (if s.mg.dataUp then [] else [.dataPlaneRelease])
  boot.map (fun i => at_ i 0) ++ [at_ .queueMap 0] ++ (s.fe.recs.map fun _ => at_ .completionRecord 0) ++
    ((s.fe.nodes.filter fun p => p.2.st == .ready).map fun p => at_ .nodeReadyCheck p.1) ++
    ((List.range 16).map fun p => at_ .preemptionDecision p) ++
    ((s.saved.zipIdx.flatMap fun p => (List.range 64).map fun g => Move.event .groupResume { n := p.2, m := g })) ++ [at_ .arbiterPlace 0] ++
    (s.fe.preempts.flatMap fun p => [at_ .preemptionRequest p.group, at_ .contextSave p.group])

/-- The moves of the queues. -/
def State.queueRound (s : State) : List Move :=
  (s.fe.queues.filter fun p => p.2.enabled).flatMap fun p => queueEvents.map fun i => Move.event i { n := p.1 }

/-- The places of a list, the last first: what leaves it moves no place that is still to come. -/
def placesOf {α : Type} (l : List α) : List Nat := (List.range l.length).reverse

/-- The places of eligible arrivals in the order in which the unit counts those of one sclk, each as it stands when those before it
have left (R252). -/
def State.arrivalPlaces (s : State) : List Nat :=
  let key := fun (p : BarArr × Nat) => 4 * p.1.core + p.1.strand
  let l := sortBy (fun a b => decide (key a < key b)) (s.barArr.zipIdx.filter fun p => s.eligible p.1)
  l.zipIdx.map fun p => p.1.2 - ((l.take p.2).filter fun q => decide (q.2 < p.1.2)).length

/-- The moves of tumbler requests: those of a line in the order in which their slice serves them (R345). -/
def State.tmbRound (s : State) : List Move :=
  let at_ := fun (i : Instr) (n : Nat) => Move.event i { n := n }
  let l := sortBy (fun a b => decide (a.1.rank < b.1.rank)) s.tmbs.zipIdx
  (l.flatMap fun p => [at_ .routineInstall p.2, at_ .tmbRoutineRun p.2]) ++ (placesOf s.tmbs).map (at_ .tmbResultReturn)

/-- The moves of the fabric router. -/
def State.fabRound (s : State) : List Move :=
  let at_ := fun (i : Instr) (n : Nat) => Move.event i { n := n }
  ((placesOf s.fab.reqs).flatMap fun n => [at_ .famoApply n, at_ .fsigApply n]) ++
    (placesOf s.fab.colls).flatMap fun n => [at_ .collComplete n, at_ .collPreemptTimeout n]

/-- The moves of a copy channel. -/
def chanRound (c ch : Nat) (k : Channel) : List Move :=
  let at_ := fun (i : Instr) (n m j : Nat) => Move.event i { core := c, ch := ch, n := n, m := m, k := j }
  [at_ .chainEntryFetch 0 0 0, at_ .copyBegin 0 0 0, at_ .gatherBlockBegin 0 0 0] ++
    (k.queue.flatMap fun q => (q.lands.flatMap fun l => [at_ .landingBegin q.id l.core l.block, at_ .landingComplete q.id 0 0])) ++
    [at_ .copyComplete 0 0 0]

/-- The moves of a core. -/
def coreRound (c : Nat) (k : Core) : List Move :=
  let at_ := fun (i : Instr) => Move.event i { core := c }
  let late := fun (h : Nat) => if (k.strand h).late.isEmpty then [] else [Move.head c h .seq]
  let strand := fun (h : Nat) => [Unit5.lq, .cq, .sq, .ea].map (Move.head c h) ++ late h ++ strandEvents.map fun i => Move.event i { core := c, strand := h }
  [at_ .placementStart, at_ .barrierDelivery, at_ .haspGrant] ++ ([0, 1, 2, 3] : List Nat).flatMap strand ++
    (k.chans.flatMap fun p => chanRound c p.1 p.2) ++
    (k.rings.flatMap fun p => p.2.waiters.map fun w => Move.event .ringWaiterWake { ring := .local c p.1, flag := w.claims }) ++ [at_ .placementRetire]

/-- The first entry of the handle table that is free (R363). -/
def State.freeHandle (s : State) : Nat :=
  let n := (s.listed handleBase 64 (2 ^ 20)).length + 1
  (((List.range n).map fun i => i + 1).find? fun i => s.kvField i 0 1 = 0).getD 1

/-- The moves of a core group. A KV create gets a free entry, and a place for its block table behind the tenants' records. -/
def State.groupRound (s : State) (g : Nat) : List Move :=
  let i := s.freeHandle
  [.event .attentionRequestBegin { n := g }, .event .attentionRequestComplete { n := g },
      .event .kvCreate { mbox := .group g, k := i, word := w64 (tenantBase + 2 ^ 20 + i % 200 * 2 ^ 18) }] ++
    ([.telemetryRead, .blackBoxNote, .kvDestroy, .kvReturnCache, .unknownOpcode] : List Instr).map fun i => .event i { mbox := .group g }

/-- Blocks that a refill may grant to a core: the first that are free, within the quota. -/
def State.someBlocks (s : State) (k : Core) : List Nat :=
  match s.poolShape k.kvTenant (s.poolOf k.kvTenant) with
  | none => []
  | some (_, n) =>
    ((List.range n).filter fun b => !s.kvTaken k.kvTenant b).take (min (16 - k.kvCache.length) (s.quotaOf k.kvTenant - s.heldOf k.kvTenant))

/-- One round of moves over everything that may have something to do, and then an edge of clk: what runs where the agenda
names no move. -/
def State.round (s : State) : List Move :=
  let at_ := fun (i : Instr) (n : Nat) => Move.event i { n := n }
  s.feRound ++ (s.cores.flatMap fun p => coreRound p.1 p.2) ++
    (s.cores.flatMap fun p => if p.2.kvAsked then [Move.event .kvRefillGrant { core := p.1, nats := s.someBlocks p.2 }] else []) ++
    (s.groups.flatMap fun p => s.groupRound p.1) ++
    (s.gwait.flatMap fun p => p.2.map fun w => Move.event .ringWaiterWake { ring := .global p.1, flag := w.claims }) ++
    s.tmbRound ++ s.fabRound ++ ((placesOf s.increments).map fun n => at_ .eventIncrementApply n) ++
    (s.arrivalPlaces.map fun n => at_ .barrierArrivalCount n) ++ s.queueRound ++
    ((List.range 8).flatMap fun e => [at_ .encoderTakeSlot e, at_ .encoderRecordPublish e]) ++
    [at_ .windowFormTimeout 0, .event .clkEdge { flag := true }, at_ .arbiterPlace 0, at_ .clkEdge 0, at_ .timeAdvance 0, at_ .timeAdvance 0]

/-! ### The fetch of one instruction (log entry 13) -/

/-- The code line that holds one bundle of one instruction: link word, header, instruction, literal (R36, R37, R42, R43). -/
def lineOfWord (w : Nat) (l : Lit) : List Byte :=
  let link := 4 * 2 ^ 29 + (if l.isSome then 4 else 0)
  let header := 0x3F * 2 ^ 25 + (if l.isSome then 2 else 1) * 2 ^ 20
  leBytes 4 link ++ leBytes 4 header ++ leBytes 4 w ++ leBytes 4 (l.getD 0).toNat

/-- The placement whose code image is that line: one strand, its code in tensor 1 of tenant 0. -/
def linePlacement : Placement := { kd := BitVec.ofNat 512 (2 ^ 64), started := true }

/-- The line and what its translation reads: the tenant record, the directory entry, the tile-table entry, with valid keys
(R270 to R276, R478). -/
def State.withLine (s : State) (line : List Byte) : State :=
  let dir := 0x1000
  let table := 0x2000
  let frame := 0x4000
  let entry := 2 ^ 9 + 2 ^ 64 * table + 2 ^ 128 * 0x3000 + 2 ^ 192 + 2 ^ 256 * 4096 + 2 ^ 288 * 12 + 2 ^ 320
  let t := { s with keys := Map.put (Map.put s.keys 0 0) 1024 0 }
  (((t.devWrite tenantBase (leBytes 64 (1 + 2 ^ 64 * dir + 2 ^ 128 * 2))).devWrite (dir + 128) (leBytes 128 entry)).devWrite table
    (leBytes 8 (3 + 4 + 2 ^ 24 * (frame / 4096)))).devWrite frame line

/-- Strand 0 of core 0, running, with one entry at the head of a queue or none. -/
def State.withStrand (s : State) (q : Unit5) (es : List Entry) : State :=
  let st := (s.strand 0 0).setQueue q es
  let k := s.core 0
  s.setCore 0 { k.setStrand 0 { st with pc := 4, run := .running } with place := some linePlacement }

/-- An instruction as it stands at the head of its queue, issued by strand 0 of core 0, with its pops made (R48). -/
def State.headEntry (s : State) (w : Nat) (l : Lit) : Entry :=
  match decodeWord w l with
  | .ok i => { s.entryOf 0 0 4 { widx := 1, word := w32 w, lit := l, instr := i } with ready := 0, begun := true }
  | .error _ => { word := w32 w, lit := l, bundle := 4, widx := 1 }

/-- The instruction whose words are given stands where the next step takes it from: a SEQ form in the code line at the
program counter of strand 0 of core 0, whose turn to issue it is; a queued form at the head of its queue, whose turn it
is. -/
def State.withWord (s : State) (w : Nat) (l : Lit) : State :=
  let q := unitOf w
  match q with
  | .seq => { (s.withStrand .seq []).withLine (lineOfWord w l) with agenda := [.event .bundleIssue {}] }
  | _ => { s.withStrand q [(s.withStrand q []).headEntry w l] with agenda := [.head 0 0 q] }

end Sys2Proof.Machine
end

