-- ==== Sys2Proof/Machine/Step.lean ====
section
/-!
DEFINITION. One step: the next move of the agenda, and the instruction that it hands over; where the agenda is empty, a
round of moves.
-/

namespace Sys2Proof.Machine

/-- One step of the machine. -/
def step (s : State) : Host.Outcome State Fault Refusal :=
  match s.agenda with
  | [] => .next { s with agenda := s.round }
  | m :: ms => State.move { s with agenda := ms, free := s.free + 1, slot := false } m

/-- The instruction whose bits are `w`, the first word at bits 31 to 0, its literal word above, stands where the next step
takes it from (log entry 13). -/
def State.withFetchWord (s : State) (nbits w : Nat) : State :=
  let v := w % 2 ^ nbits
  s.withWord (v % 2 ^ 32) (if wantsLiteral (v % 2 ^ 32) then some (w32 (v / 2 ^ 32)) else none)

end Sys2Proof.Machine
end

