-- ==== Sys2Proof/Safety.lean ====
section
/-!
DEFINITION. The terms that claims use: what an instruction answers, what it leaves unchanged, and what counts as a
safe run.
-/

namespace Sys2Proof.Machine

/-! ### Answers -/

/-- An instruction or an event answers a next state, of which `Q` holds. -/
def Runs (i : Instr) (s : State) (Q : State → Prop) : Prop := ∃ t, exec i s = .next t ∧ Q t

/-! ### What is left unchanged -/

/-- The kinds of state of one strand that frames name: its registers by file, its token counters, its trap registers
with its mode, and its barrier set slots. -/
inductive Part where
  | x | v | m | e | t | l | tokens | trap | bars
  deriving DecidableEq, Repr

/-- Two states of a strand agree on a part, register by register. -/
def Strand.agrees (a b : Strand) : Part → Prop
  | .x => ∀ r, a.rx r = b.rx r
  | .v => ∀ r, a.rv r = b.rv r
  | .m => ∀ r, a.rm r = b.rm r
  | .e => ∀ r, a.re r = b.re r
  | .t => ∀ r, a.rt r = b.rt r
  | .l => ∀ r, a.rl r = b.rl r
  | .tokens => ∀ k, a.ctr k = b.ctr k
  | .trap => a.rec_ = b.rec_ ∧ a.trapped = b.trapped ∧ a.handler = b.handler ∧ a.stopped = b.stopped ∧ a.run = b.run
  | .bars => a.bars = b.bars

/-- Every byte that software can read is what it was: of this chip, of host and peer memory, and of each core's
scratchpad, accumulator store and column store. -/
def State.sameBytes (s t : State) : Prop :=
  (∀ l, t.locGet l = s.locGet l) ∧
    ∀ c a, Mem.get (t.core c).sp a = Mem.get (s.core c).sp a ∧ Mem.get (t.core c).acc a = Mem.get (s.core c).acc a ∧
      Mem.get (t.core c).cst a = Mem.get (s.core c).cst a

/-- Every byte of translated memory is what it was: of this chip, of the host and of every peer. -/
def State.sameMemory (s t : State) : Prop :=
  ∀ a, t.locGet (.dev a) = s.locGet (.dev a) ∧ t.locGet (.host a) = s.locGet (.host a) ∧
    ∀ n, t.locGet (.peer n a) = s.locGet (.peer n a)

/-- Nothing has changed but the executing strand: no other strand, core, memory, device or counter. -/
def State.elsewhere (s t : State) : Prop :=
  t.setStrand s.cur.core s.cur.strand {} = s.setStrand s.cur.core s.cur.strand {}

/-- The executing strand has kept every part but those listed. -/
def State.keepsBut (s t : State) (changed : List Part) : Prop := ∀ p, p ∉ changed → t.me.agrees s.me p

/-- The executing strand has kept every scalar register but one, which holds `v`; a write to x0 is discarded. -/
def State.xOnly (s t : State) (d : XReg) (v : W64) : Prop :=
  ∀ r, t.me.rx r = if r = d.toNat ∧ r ≠ 0 then v else s.me.rx r

/-- The bytes stored to: those of core `c`'s scratchpad to which `f` gives a new value; every other byte that software can
read is what it was. -/
def State.spStored (s t : State) (c : Nat) (f : Nat → Option Byte) : Prop :=
  s.sameMemory t ∧ ∀ k a,
    Mem.get (t.core k).sp a = (if k = c then f a else none).getD (Mem.get (s.core k).sp a) ∧
      Mem.get (t.core k).acc a = Mem.get (s.core k).acc a ∧ Mem.get (t.core k).cst a = Mem.get (s.core k).cst a

/-! ### Issue -/

/-- No EA instruction of the bundle raises a cause at issue: the bundle issues without a trap (R168, R314). -/
def State.clean (s : State) : Prop := ∀ p ∈ s.cur.rest, p.2.atIssue = none

/-- The bundle has issued: its queue instructions stand behind those that were in their queues, the strand has issued
one bundle more, and fetch goes on at `next`. -/
def State.hasIssued (s t : State) (next : W64) : Prop :=
  t.me.pc = next ∧ t.me.seq = s.me.seq + 1 ∧
    ∀ q, q ≠ .seq → t.me.queue q = s.me.queue q ++ (s.cur.rest.filter fun p => p.1 = q).map Prod.snd

/-- A SEQ form has run: its bundle has issued, only the listed parts of its strand have changed, nothing else has, and
every byte is what it was. -/
def State.seqFrame (s t : State) (changed : List Part) : Prop :=
  s.hasIssued t s.cur.nextPc ∧ s.keepsBut t changed ∧ s.elsewhere t ∧ s.sameBytes t

/-- A SEQ form runs, and of all registers only x[d] changes, to `v` (R48, R131). -/
def Sets (s : State) (i : Instr) (d : XReg) (v : W64) : Prop := Runs i s fun t => s.seqFrame t [.x] ∧ s.xOnly t d v

/-! ### Queues -/

/-- The entry at the head of the executing queue has completed: its queue and the token counters are what its pushes
make of them (R134). -/
def State.headDone (s t : State) : Prop :=
  (∀ q, t.me.queue q = s.finish.me.queue q) ∧ ∀ k, t.me.ctr k = s.finish.me.ctr k

/-- The executing CQ entry has been dispatched, with this bound on its latency (R173, R174). -/
def State.hasDispatched (s t : State) (L : Nat) : Prop :=
  t.me.cq = modUndispatched (fun e => { e with until_ := some (s.cyc + L) }) s.me.cq ∧ t.me.lastDisp = s.cyc ∧
    t.me.lastL = L

/-- A vector form has been dispatched on the vector unit and writes lanes of `vd`: lane i takes `f i` where the mask
enables it and keeps its value elsewhere; no other register and no byte changes (R172, R174, R178). -/
def State.wroteLanes (s t : State) (L occ : Nat) (vd : VReg) (mask : W64) (f : Nat → W32) : Prop :=
  s.hasDispatched t L ∧ t.myCore.vuFree = s.cyc + occ ∧ s.keepsBut t [.v] ∧ s.sameBytes t ∧
    (∀ r, r ≠ vd.toNat → t.me.rv r = s.me.rv r) ∧
    ∀ i, i < 64 → lane (t.me.rv vd.toNat) i = if mask.getLsbD i then f i else lane (s.me.rv vd.toNat) i

/-- A vector form has been dispatched on the vector unit and writes the bits of mask `md`; a write to m0 is discarded, and
no other register and no byte changes (R172, R174, R183, R195). -/
def State.wroteMask (s t : State) (L : Nat) (md : MReg) (f : Nat → Bool) : Prop :=
  s.hasDispatched t L ∧ t.myCore.vuFree = s.cyc + 1 ∧ s.keepsBut t [.m] ∧ s.sameBytes t ∧
    ∀ r i, r < 8 → i < 64 → (t.me.rm r).getLsbD i = if r = md.toNat ∧ r ≠ 0 then f i else (s.me.rm r).getLsbD i

/-- An MX form has been dispatched on the array, and has spent one unit of the hasp's budget (R321, R325). -/
def State.onArray (s t : State) (occ L : Nat) : Prop :=
  s.hasDispatched t L ∧ t.myCore.arrayFree = s.cyc + occ ∧ t.myCore.haspLeft = s.myCore.haspLeft - 1

/-- An MX form has run on the array: no register of its strand, no other core, and no byte outside its own core changes. -/
def State.mxFrame (s t : State) (occ L : Nat) (changed : List Part) : Prop :=
  s.onArray t occ L ∧ s.keepsBut t changed ∧ (∀ c, c ≠ s.cur.core → t.core c = s.core c) ∧ s.sameMemory t

/-- Of the accumulator store, only the 64 by 64 cells of region `z` change, to `f` by row and column (R317). -/
def State.regionOnly (s t : State) (z : Nat) (f : Nat → Nat → W32) : Prop :=
  ∀ r c, r < 256 → c < 256 →
    t.myCore.cell r c = if r / 64 = z / 4 ∧ c / 64 = z % 4 then f (r % 64) (c % 64) else s.myCore.cell r c

/-- The operand of an MX form is good for `n` bytes: a multiple of 64 within the scratchpad, with no scoreboard range in the
way of the access (R308, R319). -/
def State.mxReady (s : State) (E : W64) (n : Nat) (write : Bool) : Prop :=
  E.toNat % 64 = 0 ∧ E.toNat + n ≤ 2 ^ 20 ∧ s.stalled s.cur.core s.cur.entry write E.toNat n = false

/-- The strand holds the hasp, with budget left (R323, R325). -/
def State.holdsHasp (s : State) : Prop :=
  s.me.hasp ≠ .rejoining ∧ s.myCore.haspHolder = some s.cur.strand ∧ 0 < s.myCore.haspLeft

/-- A head of LQ or SQ or EA that changes only the listed parts of its strand has completed, and no byte has changed. -/
def State.headFrame (s t : State) (changed : List Part) : Prop :=
  s.headDone t ∧ s.keepsBut t (.tokens :: changed) ∧ s.elsewhere t ∧ s.sameBytes t

/-- A SEQ form has run, as `seqFrame` has it, and what stores are known to besides: the record that R116 depends on. -/
def State.seqKnown (s t : State) (changed : List Part) : Prop := s.seqFrame { t with known := s.known, vows := s.vows } changed

/-- No part of the executing access has failed at a peer chip so far, and none does at these places (R395, R399). -/
def State.peersFine (s : State) (ls : List Loc) : Prop := s.cur.entry.fails = none ∧ s.elemFails ls = none

/-- What a load under way reads in this turn is not poisoned, and no part of it fails at a peer chip (R399, R471). -/
def State.loadFine (s : State) (rd : Loc → Nat → List Byte) : Prop :=
  s.peersFine (s.cur.entry.srcs.flatMap Src.locs) ∧ (s.readsNow rd).any s.locPoisoned = false

/-- No part of a store under way fails at a peer chip (R399). -/
def State.storeFine (s : State) : Prop := s.peersFine (s.cur.entry.later.flatten.map Prod.fst)

/-- The record of a queued instruction, as R226 has it: the instruction with what was captured for it and what it has pushed; as
one that has not begun. -/
def Entry.recordOf (e r : Entry) : Prop :=
  r.word = e.word ∧ r.lit = e.lit ∧ r.bundle = e.bundle ∧ r.widx = e.widx ∧ r.seq = e.seq ∧ r.caps = e.caps ∧ r.dst = e.dst ∧
    r.tref = e.tref ∧ r.cmd = e.cmd ∧ r.marker = e.marker ∧ r.gap = e.gap ∧ r.done = e.done ∧ r.pushN = e.pushN ∧ r.pushP = e.pushP ∧
    r.begun = false ∧ r.parked = false ∧ r.until_ = none

/-- The executing entry stays in its queue, changed by `f`; every other entry and the token counters are what they were. -/
def State.stays (s t : State) (f : Entry → Entry) : Prop :=
  (∀ q, t.me.queue q = if q = s.cur.unit then modSame s.cur.entry f (s.me.queue q) else s.me.queue q) ∧
    ∀ k, t.me.ctr k = s.me.ctr k

/-! ### Accesses, element by element (R97, R108) -/

/-- The elements that a load still has to read, after a turn: each as it was, or read in this turn. -/
def sampled (rd : Loc → Nat → List Byte) (old new : List Src) : Prop :=
  List.Forall₂ (fun x y => y = x ∨ y = x.take rd) old new

/-- An MX form with a scratchpad operand of `n` bytes at `E` runs: as it dispatches, it makes its effect `Q` on the scratchpad as it
reads it then; or it reads some of the operand's elements only, and in a later turn of its window the others, and makes its effect then
(R319, R320). -/
def State.mxRuns (s : State) (i : Instr) (E : W64) (n occ L : Nat) (Q : Mem → State → Prop) : Prop :=
  (s.cur.entry.left = none → s.mxReady E n false → s.mxLate = false → Runs i s fun t =>
    s.mxFrame t occ L [] ∧ Q (s.seenCore s.myCore).sp t) ∧
  (s.cur.entry.left = none → s.mxReady E n false → s.mxLate = true → ∃ (u : State) (l : List Src),
    s.mxFrame u occ L [] ∧ u.cur = s.cur ∧ s.sameBytes u ∧
      sampled (fun x k => Mem.read (s.seenCore s.myCore).sp x.addr k) ((List.range (n / 4)).map fun k => .at (.sp s.cur.core (E.toNat + 4 * k)) 4) l ∧
      exec i s = .next (u.modHead fun e => { e with left := some 0, srcs := l })) ∧
  (s.cur.entry.left ≠ none → Runs i s fun t =>
    Q ((s.seenCore s.myCore).laid E.toNat s.cur.entry.srcs).sp t ∧ s.keepsBut t [] ∧ (∀ c, c ≠ s.cur.core → t.core c = s.core c) ∧
      s.sameMemory t ∧ t.me.queue s.cur.unit = modSame s.cur.entry (fun e => { e with left := none, srcs := [], later := [] }) (s.me.queue s.cur.unit))

/-- A turn of a vector load that still has the lanes of `m` to load from `srcs`: some of them take `f`, but that a CQ write inside its
window may come after it, every other lane and register keeps its value, and no byte changes. Of mask `k`, if not m0, bits of `gone` are
cleared, all of them with the last lane. With that the load completes; else it stays under way with the rest. Where it `must`, it takes a
lane at least. -/
def State.loadsSome (s t : State) (must : Bool) (rd : Loc → Nat → List Byte) (v : VReg) (k : MReg) (m : W64) (srcs : List Src) (gone : W64)
    (f : Nat → W32) : Prop :=
  ∃ pick lost later laterM : W64, pick &&& m = pick ∧ lost &&& gone = lost ∧ (pick = m → lost = gone) ∧ (must = true → m ≠ 0 → pick ≠ 0) ∧ s.keepsBut t [.v, .m, .tokens] ∧ s.elsewhere t ∧ s.sameBytes t ∧
    later &&& s.me.openLanes false v.toNat s.cyc = later ∧ laterM &&& s.me.openLanes true k.toNat s.cyc = laterM ∧
    (∀ r, r ≠ v.toNat → t.me.rv r = s.me.rv r) ∧
    (∀ i, i < 64 → lane (t.me.rv v.toNat) i = if pick.getLsbD i ∧ later.getLsbD i = false then f i else lane (s.me.rv v.toNat) i) ∧
    (∀ r i, r < 8 → i < 64 → (t.me.rm r).getLsbD i =
      if r = k.toNat ∧ r ≠ 0 ∧ lost.getLsbD i = true ∧ laterM.getLsbD i = false then false else (s.me.rm r).getLsbD i) ∧
    (pick = m → s.headDone t) ∧
    (pick ≠ m → ∃ now, sampled rd srcs now ∧ s.stays t fun e => { e with left := some (m &&& ~~~pick), srcs := now, fails := none })

/-- A turn of a store that still has the elements `es` to store: some of them are stored, in their order, none of them ahead of
an earlier one that is left with a byte in common; every other byte and every register keeps its value. With the last of them
the store completes, else it stays under way with the rest. Where it `must`, an element at least is stored. -/
def State.storesSome (s t : State) (must : Bool) (es : List (List (Loc × Byte))) : Prop :=
  ∃ pick : Nat → Bool,
    let now := (es.zipIdx.filter fun p => pick p.2).map Prod.fst
    let rest := (es.zipIdx.filter fun p => !pick p.2).map Prod.fst
    (∀ i j, i < j → j < es.length → pick i = false → pick j = true → ∀ p ∈ es.getD i [], ∀ q ∈ es.getD j [], p.1 ≠ q.1) ∧
    (must = true → es ≠ [] → ∃ i, i < es.length ∧ pick i = true) ∧ s.keepsBut t [.tokens] ∧
    (∀ l, t.locGet l = ((now.flatten.filter fun p => p.1 = l).getLast?.map Prod.snd).getD (s.locGet l)) ∧
    (∀ c a, Mem.get (t.core c).acc a = Mem.get (s.core c).acc a ∧ Mem.get (t.core c).cst a = Mem.get (s.core c).cst a) ∧
    (rest = [] → s.headDone t) ∧ (rest ≠ [] → s.stays t fun e => { e with later := rest, fails := none })

/-- An access to translated memory that has only begun in this turn, and is performed in a later one; it is put off once. -/
def State.putOff (s t : State) : Prop := s.cur.entry.left = none ∧ t = s.modHead fun e => { e with left := some 0 }

/-- Every memory of the machine is in its canonical form. -/
def State.canonical (s : State) : Prop :=
  Mem.wf s.gddr = true ∧ Mem.wf s.host = true ∧ (∀ c, Mem.wf (Map.get [] s.peers c) = true) ∧
    ∀ c, Mem.wf (s.core c).sp = true ∧ Mem.wf (s.core c).acc = true ∧ Mem.wf (s.core c).cst = true

end Sys2Proof.Machine

namespace Sys2Proof

open Machine

/-- `k` steps from a state answer a next state each. -/
def Safe (k : Nat) (s : State) : Prop := ∃ t, Host.Core.run core k s = .next t

end Sys2Proof
end

