-- ==== Sys2Proof/Certificates/Slice0/Obligations.lean ====
section
/-!
DEFINITION. The statements for the provers, family by family. Each docstring names the rules of the spec that the
statement formalises, or says that it states a choice of the model.
-/

open Sys2Proof Sys2Proof.Machine

/-! ### Scalar forms -/

/-- The alu forms of R148 but for the divisions, for every register and operand b, x0 and the literal included: each
writes its value to x[d] at issue and changes no other register, no byte of memory and nothing elsewhere. The values are
those of R148's table, products and comparisons being taken on the integers that the registers hold.

R150: the immediate forms, for every immediate: addi adds the sign-extended imm14, andi, ori and xori take it
zero-extended, the shi forms shift by their count, li sign-extends imm20, lih keeps the low 12 bits of the old x[d], and
lif puts imm20 into bits [31:12]. -/
def Obligations.ScalarFormsWriteTheirResult : Prop :=
  (∀ (s : State) (d a : XReg) (b : SrcB), s.clean →
    let A := s.x a
    let B := s.b b
    Sets s (.add d a b) d (BitVec.ofNat 64 (A.toNat + B.toNat)) ∧
    Sets s (.sub d a b) d (BitVec.ofInt 64 (A.toInt - B.toInt)) ∧
    Sets s (.mul d a b) d (BitVec.ofNat 64 (A.toNat * B.toNat)) ∧
    Sets s (.mulh d a b) d (BitVec.ofInt 64 (A.toInt * B.toInt / 2 ^ 64)) ∧
    Sets s (.mulhn d a b) d (BitVec.ofNat 64 (A.toNat * B.toNat / 2 ^ 64)) ∧
    Sets s (.and d a b) d (A &&& B) ∧ Sets s (.or d a b) d (A ||| B) ∧ Sets s (.xor d a b) d (A ^^^ B) ∧
    Sets s (.andn d a b) d (A &&& ~~~B) ∧
    Sets s (.shl d a b) d (BitVec.ofNat 64 (A.toNat * 2 ^ (B.toNat % 64))) ∧
    Sets s (.shr d a b) d (BitVec.ofNat 64 (A.toNat / 2 ^ (B.toNat % 64))) ∧
    Sets s (.sar d a b) d (BitVec.ofInt 64 (A.toInt / 2 ^ (B.toNat % 64))) ∧
    Sets s (.rol d a b) d (A.rotateLeft (B.toNat % 64)) ∧
    Sets s (.min d a b) d (if A.toInt < B.toInt then A else B) ∧
    Sets s (.max d a b) d (if A.toInt < B.toInt then B else A) ∧
    Sets s (.minn d a b) d (if A.toNat < B.toNat then A else B) ∧
    Sets s (.maxn d a b) d (if A.toNat < B.toNat then B else A) ∧
    Sets s (.cmpEq d a b) d (if A = B then 1 else 0) ∧ Sets s (.cmpNe d a b) d (if A = B then 0 else 1) ∧
    Sets s (.cmpLt d a b) d (if A.toInt < B.toInt then 1 else 0) ∧
    Sets s (.cmpLe d a b) d (if A.toInt ≤ B.toInt then 1 else 0) ∧
    Sets s (.cmpLtn d a b) d (if A.toNat < B.toNat then 1 else 0) ∧
    Sets s (.cmpLen d a b) d (if A.toNat ≤ B.toNat then 1 else 0) ∧
    Sets s (.sel d a b) d (if s.x d = 0 then B else A) ∧ Sets s (.mov d b) d B) ∧
  (∀ (s : State) (d a : XReg) (i : BitVec 14) (n : BitVec 6) (j : BitVec 20), s.clean →
    let A := s.x a
    Sets s (.addi d a i) d (BitVec.ofInt 64 (A.toInt + i.toInt)) ∧
    Sets s (.andi d a i) d (A &&& BitVec.ofNat 64 i.toNat) ∧ Sets s (.ori d a i) d (A ||| BitVec.ofNat 64 i.toNat) ∧
    Sets s (.xori d a i) d (A ^^^ BitVec.ofNat 64 i.toNat) ∧
    Sets s (.shlImm d a n) d (BitVec.ofNat 64 (A.toNat * 2 ^ n.toNat)) ∧
    Sets s (.shrImm d a n) d (BitVec.ofNat 64 (A.toNat / 2 ^ n.toNat)) ∧
    Sets s (.sarImm d a n) d (BitVec.ofInt 64 (A.toInt / 2 ^ n.toNat)) ∧
    Sets s (.rolImm d a n) d (A.rotateLeft n.toNat) ∧
    Sets s (.li d j) d (BitVec.ofInt 64 j.toInt) ∧
    Sets s (.lih d j) d (BitVec.ofInt 64 (j.toInt * 2 ^ 12) ||| BitVec.ofNat 64 ((s.x d).toNat % 2 ^ 12)) ∧
    Sets s (.lif d j) d (BitVec.ofNat 64 (j.toNat * 2 ^ 12)))

/-- The one-operand alu forms of R148: clz and ctz give the number of zeros above and below the highest and the lowest
set bit, 64 for 0; popc the number of set bits; sext.8, sext.16 and sext.32 the signed value of the low bits.

R149: the divisions truncate toward zero and never trap: division by zero gives all ones, or the dividend as
remainder, and -2^63 by -1 gives -2^63, or 0. The quotient and the remainder are said of the integers that the registers
hold. R131: the strand's next bundle is held until 20 clk after the issue. -/
def Obligations.BitCountsAndDivisions : Prop :=
  (∀ (s : State) (d a : XReg), s.clean →
    let A := s.x a
    (∃ n : Nat, Sets s (.clz d a) d (BitVec.ofNat 64 n) ∧ n ≤ 64 ∧ A.toNat < 2 ^ (64 - n) ∧
      (n < 64 → 2 ^ (63 - n) ≤ A.toNat)) ∧
    (∃ n : Nat, Sets s (.ctz d a) d (BitVec.ofNat 64 n) ∧ n ≤ 64 ∧ A.toNat % 2 ^ n = 0 ∧
      (n < 64 → A.toNat.testBit n = true)) ∧
    Sets s (.popc d a) d (BitVec.ofNat 64 ((List.range 64).filter fun i => A.toNat.testBit i).length) ∧
    Sets s (.sext8 d a) d (BitVec.ofInt 64 (BitVec.ofNat 8 A.toNat).toInt) ∧
    Sets s (.sext16 d a) d (BitVec.ofInt 64 (BitVec.ofNat 16 A.toNat).toInt) ∧
    Sets s (.sext32 d a) d (BitVec.ofInt 64 (BitVec.ofNat 32 A.toNat).toInt)) ∧
  (∀ (s : State) (d a : XReg) (b : SrcB), s.clean →
    let A := s.x a
    let B := s.b b
    let q : W64 := if B = 0 then BitVec.allOnes 64
      else if A.toInt = -2 ^ 63 ∧ B.toInt = -1 then BitVec.ofInt 64 (-2 ^ 63) else BitVec.ofInt 64 (A.toInt.tdiv B.toInt)
    let r : W64 := if B = 0 then A
      else if A.toInt = -2 ^ 63 ∧ B.toInt = -1 then 0 else BitVec.ofInt 64 (A.toInt - A.toInt.tdiv B.toInt * B.toInt)
    let qn : W64 := if B = 0 then BitVec.allOnes 64 else BitVec.ofNat 64 (A.toNat / B.toNat)
    let rn : W64 := if B = 0 then A else BitVec.ofNat 64 (A.toNat % B.toNat)
    ∀ p ∈ [(Instr.div d a b, q), (Instr.divn d a b, qn), (Instr.rem d a b, r), (Instr.remn d a b, rn)],
      Runs p.1 s fun t => s.seqFrame t [.x] ∧ s.xOnly t d p.2 ∧ t.me.holdUntil = s.cyc + 20)

/-! ### Control transfer -/

/-- R151, R153: the SB forms, call, jr and ret go on at their target when their condition holds and the target passes the
checks of R49, and at the next bundle when the condition does not hold; no register changes but x[a] of call, which
takes the return address of R50. Outside the strand, nothing differs from what the check of the target left (its read of
the code image may fill a translation cache).

R152: loop counts its level up and transfers while the new index is below the extent; else it clears the index and
falls through. The extent stays, and no register but l[N] changes.

R49, R151, R152: a transfer whose target fails a check leaves its bundle's effects in place, x[a] of call and the counted level
of loop included, and traps with the cause and value of the check; the trap record names the transferring bundle. -/
def Obligations.TransfersAndLoopsGoToTheirTarget : Prop :=
  (∀ (s : State) (a : XReg) (b : SrcB) (off : BitVec 20), s.clean →
    let H := s.cur.entry.bundle + BitVec.ofInt 64 (off.toInt * 4)
    let check : State → W64 → Option CodeErr × State := fun s T => s.target s.cur.core s.cur.strand false T
    let goes : Instr → W64 → Prop := fun i T => (check s.issued T).1 = none → Runs i s fun t =>
      s.hasIssued t T ∧ s.keepsBut t [] ∧ (check s.issued T).2.elsewhere t ∧ (check s.issued T).2.sameBytes t
    let stays : Instr → Prop := fun i => Runs i s fun t => s.seqFrame t []
    let called := s.issued.wx a s.cur.nextPc
    (s.x a = 0 → goes (.bcZ a off) H) ∧ (s.x a ≠ 0 → goes (.bcNz a off) H) ∧
    ((s.x a).toInt < 0 → goes (.bcLt a off) H) ∧ (0 ≤ (s.x a).toInt → goes (.bcGe a off) H) ∧
    (s.x a ≠ 0 → stays (.bcZ a off)) ∧ (s.x a = 0 → stays (.bcNz a off)) ∧
    (0 ≤ (s.x a).toInt → stays (.bcLt a off)) ∧ ((s.x a).toInt < 0 → stays (.bcGe a off)) ∧
    goes (.jr a b) (s.x a + s.b b) ∧ goes (.ret a) (s.x a) ∧
    ((check called H).1 = none → Runs (.call a off) s fun t =>
      s.hasIssued t H ∧ s.keepsBut t [.x] ∧ s.xOnly t a s.cur.nextPc ∧ (check called H).2.elsewhere t ∧
        (check called H).2.sameBytes t)) ∧
  (∀ (s : State) (n : BitVec 2) (off : BitVec 20), s.clean →
    let l := s.me.rl n.toNat
    let extent := l.toNat / 2 ^ 32
    let index := l.toNat % 2 ^ 32
    let H := s.cur.entry.bundle + BitVec.ofInt 64 (off.toInt * 4)
    let only : State → W64 → Prop := fun t v => ∀ r, t.me.rl r = if r = n.toNat then v else s.me.rl r
    let next := BitVec.ofNat 64 (extent * 2 ^ 32 + (index + 1))
    let looped := s.issued.modMe fun st => st.wl n.toNat next
    let check := looped.target s.cur.core s.cur.strand false H
    (index + 1 < extent → check.1 = none → Runs (.loop n off) s fun t =>
      s.hasIssued t H ∧ s.keepsBut t [.l] ∧ only t next ∧ check.2.elsewhere t ∧ check.2.sameBytes t) ∧
    (extent ≤ index + 1 → Runs (.loop n off) s fun t =>
      s.seqFrame t [.l] ∧ only t (BitVec.ofNat 64 (extent * 2 ^ 32)))) ∧
  (∀ (s : State) (a : XReg) (b : SrcB) (n : BitVec 2) (off : BitVec 20) (k : Nat) (v : W64), s.clean → s.me.trapped = false → k < 256 →
    let H := s.cur.entry.bundle + BitVec.ofInt 64 (off.toInt * 4)
    let check : State → W64 → Option CodeErr × State := fun s T => s.target s.cur.core s.cur.strand false T
    let traps : State → State → Prop := fun s t =>
      t.me.trapped = true ∧ t.me.rec_.cause.toNat % 256 = k ∧ t.me.rec_.val = v ∧ t.me.rec_.bundle = s.cur.entry.bundle ∧
        t.me.rec_.resume = s.cur.nextPc ∧ t.me.pc = s.cur.nextPc ∧ t.me.seq = s.me.seq + 1
    let called := s.issued.wx a s.cur.nextPc
    let l := s.me.rl n.toNat
    let next := BitVec.ofNat 64 (l.toNat / 2 ^ 32 * 2 ^ 32 + (l.toNat % 2 ^ 32 + 1))
    let looped := s.issued.modMe fun st => st.wl n.toNat next
    ((check s.issued (s.x a + s.b b)).1 = some (k, v) → Runs (.jr a b) s (traps s)) ∧
    ((check s.issued (s.x a)).1 = some (k, v) → Runs (.ret a) s (traps s)) ∧
    (s.x a = 0 → (check s.issued H).1 = some (k, v) → Runs (.bcZ a off) s (traps s)) ∧
    (s.x a ≠ 0 → (check s.issued H).1 = some (k, v) → Runs (.bcNz a off) s (traps s)) ∧
    ((s.x a).toInt < 0 → (check s.issued H).1 = some (k, v) → Runs (.bcLt a off) s (traps s)) ∧
    (0 ≤ (s.x a).toInt → (check s.issued H).1 = some (k, v) → Runs (.bcGe a off) s (traps s)) ∧
    (l.toNat % 2 ^ 32 + 1 < l.toNat / 2 ^ 32 → (check looped H).1 = some (k, v) → Runs (.loop n off) s fun t =>
      traps s t ∧ ∀ r, t.me.rl r = if r = n.toNat then next else s.me.rl r) ∧
    ((check called H).1 = some (k, v) → Runs (.call a off) s fun t =>
      traps s t ∧ (s.me.wait = .none → s.xOnly t a s.cur.nextPc)))

/-! ### Special state -/

/-- R160, R161, R163, R164, R159: idx, cyc, time, csrr, eget and adda write the item, CYC, TIME, the special register, the
event counter as it stood at the start of the clk, and the wrapped scratchpad address; an unassigned selector or
register raises 0x01 in place of the issue.

R164, R165: csrw writes the loop registers and, of the trap registers, tresume, the skip bit of tctl and tscratch; to
any other register it raises 0x01 in place of the issue.

R162: lit writes the sign-extended 32-bit word of a constant line that the address names; a bad address raises 0x06 in
place of the issue, and x[d] is unchanged.

Where the spec leaves a point open, the statement takes the model's reading: log entry 92. -/
def Obligations.SpecialRegistersAreReadAndWritten : Prop :=
  (∀ (s : State) (d a : XReg) (b : SrcB) (sel : BitVec 6) (n : BitVec 4), s.clean →
    Sets s (.cyc d) d (BitVec.ofNat 64 s.cyc) ∧ Sets s (.time d) d s.time ∧
    Sets s (.eget d n) d (BitVec.ofNat 64 (s.me.re0 n.toNat).toNat) ∧
    Sets s (.adda d a b) d (BitVec.ofNat 64 ((s.x a + s.b b).toNat % 2 ^ 20)) ∧
    (∀ k, s.idxItem sel.toNat = some k → Sets s (.idx d sel) d (BitVec.ofNat 64 k)) ∧
    (∀ v, s.csr sel.toNat = some v → Sets s (.csrr d sel) d v) ∧
    (s.idxItem sel.toNat = none → exec (.idx d sel) s = .next (s.raiseAtIssue 0x01 0)) ∧
    (s.csr sel.toNat = none → exec (.csrr d sel) s = .next (s.raiseAtIssue 0x01 0))) ∧
  (∀ (s : State) (b : SrcB), s.clean →
    (∀ n : BitVec 6, n.toNat < 4 → Runs (.csrw n b) s fun t =>
      s.seqFrame t [.l] ∧ ∀ r, t.me.rl r = if r = n.toNat then s.b b else s.me.rl r) ∧
    (Runs (.csrw 0x13 b) s fun t => s.seqFrame t [.trap] ∧ t.me.rec_ = { s.me.rec_ with resume := s.b b }) ∧
    (Runs (.csrw 0x18 b) s fun t => s.seqFrame t [.trap] ∧ t.me.rec_ = { s.me.rec_ with ctl := s.b b &&& 1 }) ∧
    (Runs (.csrw 0x1A b) s fun t => s.seqFrame t [.trap] ∧ t.me.rec_ = { s.me.rec_ with scratch := s.b b }) ∧
    (∀ n : BitVec 6, 4 ≤ n.toNat → n ≠ 0x13 → n ≠ 0x18 → n ≠ 0x1A → exec (.csrw n b) s = .next (s.raiseAtIssue 0x01 0))) ∧
  (∀ (s : State) (d a : XReg) (b : SrcB),
    let A := s.x a + s.b b
    (A.toNat % 4 ≠ 0 ∨ 64 * s.myPlace.nlines ≤ A.toNat ∨ A.toNat % 64 / 4 = 0 →
      exec (.lit d a b) s = .next (s.raiseAtIssue 0x06 0)) ∧
    (∀ l t, s.clean → A.toNat % 4 = 0 → A.toNat < 64 * s.myPlace.nlines → A.toNat % 64 / 4 ≠ 0 →
      s.line0 s.cur.core A = (.ok l, t) → linkOwner (t.codeWord s.cur.core l 0) = 5 →
      Runs (.lit d a b) s fun u =>
        t.seqFrame u [.x] ∧ s.xOnly u d (BitVec.ofInt 64 (BitVec.ofNat 32 (t.codeWord s.cur.core l (A.toNat % 64 / 4))).toInt)) ∧
    (∀ l t, A.toNat % 4 = 0 → A.toNat < 64 * s.myPlace.nlines → A.toNat % 64 / 4 ≠ 0 →
      s.line0 s.cur.core A = (.ok l, t) → linkOwner (t.codeWord s.cur.core l 0) ≠ 5 →
      exec (.lit d a b) s = .next (t.raiseAtIssue 0x06 0)))

/-! ### Event counters -/

/-- R138, R136: esig on a legal target sends its increment. To the own strand with no fence open, e[n] grows by B[15:0] at
issue; otherwise the increment joins those to be applied, behind the strand's last open fence, and nothing else changes; what
happens before it goes with it. Every other target raises 0x42 in place of the issue.

R136, R159: eset gives e[N] the value B[15:0] plus what has been added to it in this clk, modulo 2^16, and touches
nothing else.

R159, R247: ewait goes on at once when its counter, as it stood at the start of the clk, satisfies its condition, and
otherwise holds the next bundle; cond 11 raises 0x01; wfe holds the next bundle, with its clk of issue, its limit and the register
that it is to write, which is none where a queued instruction of its bundle writes the same one (R48). No register changes.

R138, R247: EVENT_INCREMENT_APPLY applies the chosen increment when no fence and no earlier increment between the same
strands holds it: the counter of the target strand grows by it modulo 2^16, or it is discarded where the strand holds
no placement of the node. WFE_TIMEOUT ends a wfe that nothing woke with x[d] = 0, once CYC has reached its issue plus B.

Where the spec leaves a point open, the statement takes the model's reading: log entry 95. -/
def Obligations.EventCountersAreSetSignalledAndAwaited : Prop :=
  (∀ (s : State) (a : XReg) (b : SrcB), s.clean →
    let w := (s.x a).toNat
    let tgt := s.eventTarget w false
    let own : Prop := tgt = (s.cur.core, s.cur.strand)
    let legal : Prop := w < 2 ^ 13 ∧ w / 2 ^ 10 % 4 ≠ 3 ∧ s.holdsNode tgt.1 s.myPlace.node = true ∧
      (own ∨ tgt.2 < (s.placement tgt.1).nstrands)
    let amt := BitVec.ofNat 16 (s.b b).toNat
    (legal → own → s.issued.me.openFence = none → Runs (.esig a b) s fun t =>
      s.seqKnown t [.e] ∧ ∀ r, t.me.re r = if r = w % 16 then s.me.re r + amt else s.me.re r) ∧
    (legal → (own → s.issued.me.openFence ≠ none) → Runs (.esig a b) s fun t =>
      s.seqKnown { t with increments := s.increments } [] ∧
        ∃ i : Incr, t.increments = s.increments ++ [i] ∧ (i.core, i.strand) = tgt ∧ i.ctr = w % 16 ∧ i.amt = amt ∧
          i.node = s.myPlace.node ∧ (i.srcCore, i.srcStrand) = (s.cur.core, s.cur.strand) ∧ i.fence = s.issued.me.openFence) ∧
    (¬ legal → exec (.esig a b) s = .next (s.raiseAtIssue 0x42 0))) ∧
  (∀ (s : State) (n : BitVec 4) (b : SrcB), s.clean → Runs (.eset n b) s fun t =>
    s.seqKnown t [.e] ∧ ∀ r, t.me.re r =
      if r = n.toNat then BitVec.ofNat 16 ((s.b b).toNat + ((s.me.re r - s.me.re0 r).toNat)) else s.me.re r) ∧
  (∀ (s : State) (d : XReg) (n : BitVec 4) (cond : BitVec 2) (b : SrcB), s.clean →
    let e := (s.me.re0 n.toNat).toNat
    let v := (s.b b).toNat % 2 ^ 16
    let holds : Prop := (cond = 0 ∧ v ≤ e) ∨ (cond = 1 ∧ e = v) ∨ (cond = 2 ∧ e < v)
    (holds → Runs (.ewait n cond b) s fun t => s.seqKnown t [] ∧ t.me.wait = s.me.wait) ∧
    (cond ≠ 3 → ¬ holds → Runs (.ewait n cond b) s fun t => s.seqFrame t [] ∧ t.me.wait = .ewait n.toNat cond.toNat v) ∧
    exec (.ewait n 3 b) s = .next (s.raiseAtIssue 0x01 0) ∧
    Runs (.wfe d b) s fun t => s.seqFrame t [] ∧ t.me.wait = .wfe (s.lateDst d) s.cyc (s.b b) none 0) ∧
  (∀ s : State,
    (∀ i, s.increments[s.arg.n]? = some i → i.fence = none → blockedBy i (s.increments.take s.arg.n) = false →
      (s.reaches i.core i.strand i.node i.ownSig = true → Runs .eventIncrementApply s fun t =>
        t.increments = s.increments.eraseIdx s.arg.n ∧ ∀ r, (t.strand i.core i.strand).re r =
          if r = i.ctr then (s.strand i.core i.strand).re r + i.amt else (s.strand i.core i.strand).re r) ∧
      (s.reaches i.core i.strand i.node i.ownSig = false →
        ∃ k, exec .eventIncrementApply s = .next { s with increments := s.increments.eraseIdx s.arg.n, known := k })) ∧
    (∀ d issue (limit : W64) m, (s.strand s.arg.core s.arg.strand).wait = .wfe d issue limit none m → limit ≠ 0 →
      issue + limit.toNat ≤ s.cyc → Runs .wfeTimeout s fun t =>
        (t.strand s.arg.core s.arg.strand).wait = .none ∧ ∀ r, (t.strand s.arg.core s.arg.strand).rx r =
          if r = d.toNat then 0 else (s.strand s.arg.core s.arg.strand).rx r))

/-! ### Traps -/

/-- R223, R224, R225: what taking a trap records, for a strand that is not trapped yet: cause, bundle, value, resume address
and clk; tctl is cleared; the cause word holds code, word index, unit and the nested bit; the pc and the mode stay. The
registers v, m, e, t and l and the token counters stay, and so does x unless the trap ends a wfe that waits.

R243, R248: trap issues its bundle and then takes cause 0x07 with B as its value, and halt cause 0xA3; the strand is
trapped and has issued one bundle more, and resumes after it.

R225, R226, R231, R236: a trapped strand whose queues have settled and whose cause does not end its node enters handler mode: it
fetches from trapentry, it is no longer trapped, its queues are empty, and the records of what was in them stand by; no
v, m, e, t or l register changes. What settles is `Strand.settle`: the records of a queue are those of its instructions that have not
completed, in order, with those that still have to push among them, and records of an interrupted catch-up stay behind them.

R233, R234, R244: eret outside handler mode raises 0x08 in place of its issue; in handler mode, once the queues are empty, it
returns: with the resume address good and no pre-emption of the group in flight, handler mode ends and catch-up begins. In each clk of
it every queue with room takes its first record, a faulted one under skip as a skip entry, and with none left the strand goes on at
tresume, and skip is cleared. -/
def Obligations.TrapsAreTakenHandledAndReturnedFrom : Prop :=
  (∀ (st : Strand) (cyc cause widx unit : Nat) (bundle val resume : W64) (seq : Nat),
    st.trapped = false → cause < 256 → widx < 16 → unit < 8 →
    let t := st.raise cyc cause widx unit bundle val resume seq
    t.trapped = true ∧ t.rec_.bundle = bundle ∧ t.rec_.val = val ∧ t.rec_.resume = resume ∧ t.rec_.ctl = 0 ∧
      t.rec_.cyc = BitVec.ofNat 64 cyc ∧ t.rec_.scratch = st.rec_.scratch ∧
      t.rec_.cause = BitVec.ofNat 64 (cause + 2 ^ 8 * widx + 2 ^ 12 * unit + 2 ^ 15 * (if st.handler then 1 else 0)) ∧
      (∀ p ∈ [Part.v, .m, .e, .t, .l, .tokens], t.agrees st p) ∧
      ((∀ d i l w m, st.wait ≠ .wfe d i l w m) → t.agrees st .x) ∧ t.handler = st.handler ∧ t.pc = st.pc) ∧
  (∀ (s : State) (b : SrcB), s.clean → s.me.trapped = false →
    let takes : Instr → Nat → Prop := fun i k => Runs i s fun t =>
      t.me.trapped = true ∧ t.me.rec_.cause.toNat % 256 = k ∧ t.me.rec_.val = s.b b ∧
        t.me.rec_.bundle = s.cur.entry.bundle ∧ t.me.rec_.resume = s.cur.nextPc ∧ t.me.pc = s.cur.nextPc ∧ t.me.seq = s.me.seq + 1 ∧
        (∀ q, q ≠ .seq → t.me.queue q =
          (s.me.queue q ++ (s.cur.rest.filter fun p => p.1 = q).map Prod.snd).map fun e => { e with faulted := false }) ∧
        s.elsewhere t ∧ s.sameBytes t
    takes (.trap b) 0x07 ∧ takes (.halt b) 0xA3) ∧
  ((∀ s : State,
    let c := s.arg.core
    let h := s.arg.strand
    let st := s.strand c h
    st.trapped = true → st.stopped = false → st.inQop = false →
      st.endCause (s.placement c).trapentry = none → st.settled s.cyc = true → s.outstanding c h = false →
      Runs .handlerEntry s fun t =>
        (t.strand c h).handler = true ∧ (t.strand c h).trapped = false ∧
          (t.strand c h).pc = BitVec.ofNat 64 (s.placement c).trapentry ∧
          (∀ q, (t.strand c h).queue q = [] ∧ (t.strand c h).replay q = ((s.prepareSettle c h).strand c h).settle.replay q) ∧
          ∀ p ∈ [Part.v, .m, .e, .t, .l], (t.strand c h).agrees st p) ∧
  (∀ (st : Strand) (q : Unit5), q ≠ .seq → st.settle.queue q = [] ∧
    ∃ l, st.settle.replay q = l ++ st.replay q ∧
      List.Forall₂ Entry.recordOf ((st.queue q).filter fun e => !e.done && e.until_.isNone) (l.filter fun e => !e.done) ∧
      ∀ e ∈ l, e.done = true → e.pushes q ≠ [])) ∧
  (∀ s : State,
    (s.me.handler = false → exec .eret s = .next (s.raiseAtIssue 0x08 0)) ∧
    (s.clean → s.me.handler = true → s.cur.rest = [] → s.me.drained = true →
      s.outstanding s.cur.core s.cur.strand = false →
      let u := s.issued.modMe fun st => { st with wait := .eret }
      (u.target s.cur.core s.cur.strand false s.me.rec_.resume).1 = none → s.preempting s.cur.core = false →
      Runs .eret s fun t =>
        t.me = Strand.catchUpTurn { u.me with handler := false, wait := .none, catchUp := true } s.cyc ∧
          t.me.handler = false ∧ t.me.wait = .none ∧ ∀ p ∈ [Part.x, .v, .m, .e, .t, .l, .tokens], t.me.agrees s.me p) ∧
    ∀ (st : Strand) (cyc : Nat),
      let t := st.catchUpTurn cyc
      let left := queues.any fun q => !(t.replay q).isEmpty
      (∀ p ∈ [Part.x, .v, .m, .e, .t, .l, .tokens, .bars], t.agrees st p) ∧ t.catchUp = left ∧
      (left = true → t.pc = st.pc ∧ t.rec_ = st.rec_) ∧
      (left = false → t.pc = st.rec_.resume ∧ t.rec_ = { st.rec_ with ctl := st.rec_.ctl &&& ~~~(1 : W64) }) ∧
      ∀ q, q ≠ .seq →
        (st.replay q = [] ∨ queueSize q ≤ (st.queue q).length → t.queue q = st.queue q ∧ t.replay q = st.replay q) ∧
        ∀ r rs, st.replay q = r :: rs → (st.queue q).length < queueSize q → t.replay q = rs ∧
          ∃ e, t.queue q = st.queue q ++ [e] ∧ (r.done = false → r.recordOf e ∧ e.skip = (r.faulted && st.rec_.ctl.getLsbD 0)) ∧
            (r.done = true → e = { r with faulted := false }))

/-- R245, R246: ctxs and ctxr check their frame address and the join counter at issue, raising 0x09, and else wait for the
strand's queues to empty. ctxs then writes the 9216 bytes of the frame, with the next bundle as its resume address, and no
other byte of the scratchpad; no register changes. ctxr then, unless the frame's join field is not 0, loads the registers and the token
counters of the frame, and its event counters with what has been added to them in this clk, and transfers to its resume address; a
join field that is not 0 raises 0x09, and a bad resume address the cause of its check.

Where the spec leaves a point open, the statement takes the model's reading: log entry 53. -/
def Obligations.ContextFramesAreSavedAndLoaded : Prop :=
  ∀ (s : State) (a : XReg),
    let A := s.x a
    (s.me.frameBad A = true →
      exec (.ctxs a) s = .next (s.raiseAtIssue 0x09 0) ∧ exec (.ctxr a) s = .next (s.raiseAtIssue 0x09 0)) ∧
    (s.clean → s.me.frameBad A = false →
      (Runs (.ctxs a) s fun t => s.seqFrame t [] ∧ t.me.wait = .ctxs A) ∧
      (Runs (.ctxr a) s fun t => s.seqFrame t [] ∧ t.me.wait = .ctxr A)) ∧
    (∀ (c h : Nat) (A : W64), s.quiet c h = true → (s.strand c h).frameBad A = false →
      let t := s.ctxsTry c h A
      (t.strand c h).wait = .none ∧ (∀ p : Part, (t.strand c h).agrees (s.strand c h) p) ∧
        (∀ i, i < 9216 → Mem.get (t.core c).sp (A.toNat + i) = ((s.strand c h).frame (s.strand c h).pc).getD i 0) ∧
        ∀ n, n < A.toNat ∨ A.toNat + 9216 ≤ n → Mem.get (t.core c).sp n = Mem.get (s.core c).sp n) ∧
    (∀ (c h : Nat) (A : W64), s.quiet c h = true → (s.strand c h).frameBad A = false →
      let st := s.strand c h
      let f := fun off n => (s.core c).spNat (A.toNat + off) n
      let t := s.ctxrTry c h A
      let y := t.strand c h
      let T := BitVec.ofNat 64 (f 0x2300 8)
      let loaded := (∀ i, i < 32 → y.rv i = BitVec.ofNat 2048 (f (256 * i) 256)) ∧
        (∀ i, 0 < i → i < 64 → y.rx i = BitVec.ofNat 64 (f (0x2000 + 8 * i) 8)) ∧
        (∀ i, 0 < i → i < 8 → y.rm i = BitVec.ofNat 64 (f (0x2200 + 8 * i) 8)) ∧
        (∀ i, i < 16 → y.rt i = BitVec.ofNat 64 (f (0x2240 + 8 * i) 8) ∧
          y.re i = BitVec.ofNat 16 (f (0x22E0 + 2 * i) 2) + (st.re i - st.re0 i)) ∧
        (∀ i, i < 4 → y.rl i = BitVec.ofNat 64 (f (0x22C0 + 8 * i) 8)) ∧
        y.lc + 16 * y.cl + 256 * y.cs + 4096 * y.sc = f 0x2308 8 % 2 ^ 16
      let u := (s.forgetCounters c h).setStrand c h (((st.loadFrame f).loadEvents f).addEvents st)
      (f 0x2310 8 ≠ 0 → t = s.raiseWaiting c h 0x09 0) ∧
      (f 0x2310 8 = 0 → (u.target c h false T).1 = none → loaded ∧ y.pc = T ∧ y.wait = .none ∧ y.holdUntil = s.cyc + 1 ∧
        ∀ p ∈ [Part.trap, .bars], y.agrees st p) ∧
      ∀ k v, f 0x2310 8 = 0 → (u.target c h false T).1 = some (k, v) → t = (u.target c h false T).2.raiseWaiting c h k v)

/-- R131, R105, R209: a fence issues and puts one marker of its scope into each of the four queues, behind the queue
instructions of its own bundle; no register, no byte and nothing elsewhere changes, and it holds nothing. While a marker heads a queue,
no entry behind it begins. Once all four markers of the fence head their queues and no request of the strand is out, so that every
earlier access has been performed, the fence completes: its markers leave, and no increment waits for it any more (R138).

Where the spec leaves a point open, the statement takes the model's reading: log entry 14. -/
def Obligations.FencesPutAMarkerInEveryQueue : Prop :=
  (∀ (s : State) (c h f : Nat) (q : Unit5) (m : Entry) (es : List Entry) (sc : Scope),
    let me := s.strand c h
    let t := s.turn c h q
    let heads := q ≠ .seq ∧ me.queue q = m :: es ∧ m.marker = some (f, sc) ∧ ∀ x ∈ m :: es, x.done = false ∧ x.until_ = none ∧ x.underWay = false
    let complete := me.fenceReady f = true ∧ s.outstanding c h = false
    (heads → ¬ complete → t.slot = s.slot ∧ (∀ k, (t.strand c h).ctr k = me.ctr k) ∧ ∀ p, (t.strand c h).queue p = me.queue p) ∧
    (heads → complete → me.trapped = false → me.stopped = false → s.nodeEnding c = false → t.slot = s.slot ∧
      (∀ p, p ≠ .seq → (t.strand c h).queue p = (me.queue p).tail) ∧ (∀ k, (t.strand c h).ctr k = me.ctr k) ∧
        ∀ i ∈ t.increments, ¬ (i.srcCore = c ∧ i.srcStrand = h ∧ i.fence = some f))) ∧
  ∀ s : State, s.clean →
    ∀ p ∈ [(Instr.fenceStrand, Scope.strand), (.fenceCore, .core), (.fenceGroup, .group), (.fenceDev, .dev), (.fenceWin, .win),
        (.fenceSys, .sys)],
      Runs p.1 s fun t =>
        t.me.pc = s.cur.nextPc ∧ t.me.seq = s.me.seq + 1 ∧ t.me.wait = s.me.wait ∧ s.keepsBut t [] ∧ s.elsewhere t ∧
          s.sameBytes t ∧ ∀ q, q ≠ .seq → ∃ m : Entry, m.marker = some (s.me.fences, p.2) ∧ m.seq = s.me.seq ∧
            t.me.queue q = s.me.queue q ++ (s.cur.rest.filter fun x => x.1 = q).map Prod.snd ++ [m]

/-! ### Barriers -/

/-- R261: bdecl of a legal set that no other node holds, on an unused slot, fills the slot and claims every free id of the
set for the node; other slots and registers stay. In a task or in handler mode it raises 0x56.

R262, R265: badv #i rotates the offsets of its slot by one, modulo the set's depth; bstat writes the status word of a
slot, 0 for an unused one. An unused slot raises 0x54 for badv, and a task or handler mode raises 0x56. -/
def Obligations.BarrierSetsAreDeclaredAndRotated : Prop :=
  (∀ (s : State) (i : BitVec 2) (a : XReg) (b : SrcB),
    (s.barForbidden = true → exec (.bdecl i a b) s = .next (s.raiseAtIssue 0x56 0)) ∧
    (s.clean → s.barForbidden = false → s.bdeclCause i.toNat (s.x a).toNat (s.b b).toNat = none →
      (s.me.bar i.toNat).valid = false → Runs (.bdecl i a b) s fun t =>
        s.seqFrame { t with bars := s.bars } [.bars] ∧
          (∀ j, t.me.bar j = if j = i.toNat then { valid := true, setw := (s.x a).toNat, relw := (s.b b).toNat } else s.me.bar j) ∧
          ∀ p, setBase (s.x a).toNat ≤ p → p < setBase (s.x a).toNat + setDepth (s.x a).toNat →
            (Map.get {} s.bars p).node = none → (Map.get {} t.bars p).node = some s.myPlace.node) ∧
    (∀ k, s.barForbidden = false → s.bdeclCause i.toNat (s.x a).toNat (s.b b).toNat = some k →
      exec (.bdecl i a b) s = .next (s.raiseAtIssue k 0))) ∧
  (∀ (s : State) (d : XReg) (i : BitVec 2),
    let badvs := [(Instr.badv0, 0), (Instr.badv1, 1), (Instr.badv2, 2), (Instr.badv3, 3)]
    (s.barForbidden = true → exec (.bstat d i) s = .next (s.raiseAtIssue 0x56 0) ∧
      ∀ p ∈ badvs, exec p.1 s = .next (s.raiseAtIssue 0x56 0)) ∧
    (s.clean → s.barForbidden = false →
      (∀ p ∈ badvs, (s.me.bar p.2).valid = false → exec p.1 s = .next (s.raiseAtIssue 0x54 0)) ∧
      (∀ p ∈ badvs, (s.me.bar p.2).valid = true → Runs p.1 s fun t =>
        s.seqFrame t [.bars] ∧ ∀ j, t.me.bar j =
          if j = p.2 then { s.me.bar j with rot := ((s.me.bar j).rot + 1) % setDepth (s.me.bar j).setw } else s.me.bar j) ∧
      Sets s (.bstat d i) d (s.me.bar i.toNat).status))

/-- R256, R263, R264: an arrival sets A[k] and clears D[k] of its slot, k being the relative id by the slot's rotation, and
one arrival on the physical id goes to the unit; barv.rel marks it as a release. barw completes at once where D[k] is set,
clearing it, and else holds the next bundle; bara arrives and holds. A form that fails a check raises the cause of it, the lowest
code of several (R13), in place of its issue.

R252, R253, R254, R255: the unit counts an eligible arrival, and one short of the set's count adds one; the arrival that
reaches the count completes the id: its count restarts at 0 and a delivery becomes due at every core that holds the id, in
its phase. Arrivals of one strand count in issue order, and in one sclk those of cores and strands in ascending order, none before one of a lower
place whose 64 clk are over; one whose node no longer holds the id is discarded. A delivery goes to the lowest core that is due, at most
128 cores in a clk: what is due there leaves the list, and A is cleared and D is set in every slot of its strands that holds the id.

Where the spec leaves a point open, the statement takes the model's reading: log entries 19 and 103. -/
def Obligations.BarriersAreArrivedAtCountedAndDelivered : Prop :=
  (∀ (s : State) (i : BitVec 2) (j : BitVec 4),
    let b := s.me.bar i.toNat
    let k := (b.rot + j.toNat) % setDepth b.setw
    let one : BitVec 16 := 1 <<< k
    let arrived : State → Bool → Prop := fun t rel =>
      s.seqKnown { t with barArr := s.barArr } [.bars] ∧
        (∀ n, t.me.bar n = if n = i.toNat then { b with arr := b.arr ||| one, del := b.del &&& ~~~one } else s.me.bar n) ∧
        ∃ a : BarArr, t.barArr = s.barArr ++ [a] ∧ a.core = s.cur.core ∧ a.strand = s.cur.strand ∧ a.id = setBase b.setw + k ∧
          a.rel = rel ∧ a.node = s.myPlace.node
    (∀ c, s.barCause i.toNat j.toNat true = some c → ∀ f ∈ [Instr.barvRel i j, .barvRlx i j, .bara i j],
      exec f s = .next (s.raiseAtIssue c 0)) ∧
    (∀ c, s.barCause i.toNat j.toNat false = some c → exec (.barw i j) s = .next (s.raiseAtIssue c 0)) ∧
    (s.clean →
    (s.barCause i.toNat j.toNat true = none →
      Runs (.barvRel i j) s (fun t => arrived t true ∧ t.me.wait = s.me.wait) ∧
      Runs (.barvRlx i j) s (fun t => arrived t false ∧ t.me.wait = s.me.wait) ∧
      Runs (.bara i j) s (fun t => arrived t false ∧ t.me.wait = .bara i.toNat k)) ∧
    (s.barCause i.toNat j.toNat false = none →
      (b.del.getLsbD k = true → Runs (.barw i j) s fun t =>
        s.seqKnown t [.bars] ∧ t.me.wait = s.me.wait ∧
          ∀ n, t.me.bar n = if n = i.toNat then { b with del := b.del &&& ~~~one, kept := false } else s.me.bar n) ∧
      (b.del.getLsbD k = false → Runs (.barw i j) s fun t => s.seqFrame t [] ∧ t.me.wait = .barw i.toNat k)))) ∧
  (∀ s : State,
    (∀ a, s.barArr[s.arg.n]? = some a →
      (s.barArr.take s.arg.n).any (fun b => b.core == a.core && b.strand == a.strand && b.node == a.node) = false →
      (a.rel = true → s.performedTo a.core a.strand a.seq = true) → s.mayServe unitBarrier (4 * a.core + a.strand) = true →
      s.arrivalDue (4 * a.core + a.strand) = false →
      let b := Map.get {} s.bars a.id
      (b.node ≠ some a.node → ∃ k, exec .barrierArrivalCount s = .next { s with barArr := s.barArr.eraseIdx s.arg.n, known := k }) ∧
      (b.node = some a.node → Runs .barrierArrivalCount s fun t =>
        t.barArr = s.barArr.eraseIdx s.arg.n ∧
          (b.count + 1 ≠ setCount b.setw → (Map.get {} t.bars a.id).count = b.count + 1 ∧ t.barDue = s.barDue) ∧
          (b.count + 1 = setCount b.setw → (Map.get {} t.bars a.id).count = 0 ∧
            ∀ c ∈ s.cores, c.2.wantsId a.id = true →
              ∃ d ∈ t.barDue, d.core = c.1 ∧ d.id = a.id ∧ d.clk = s.cyc + 1 + c.1 % 8 % relPhases b.relw * relDelta b.relw))) ∧
    (s.dueCores.head? = some s.arg.core → s.delivered < 128 → Runs .barrierDelivery s fun t =>
      t.delivered = s.delivered + 1 ∧ (∀ d ∈ t.barDue, d.core = s.arg.core → s.cyc < d.clk) ∧
        ∀ d ∈ s.barDue, d.core = s.arg.core → d.clk ≤ s.cyc → ∀ h, h < 4 → ∀ i, i < 4 →
          let b := (s.strand s.arg.core h).bar i
          let y := (t.strand s.arg.core h).bar i
          b.has d.id = true → y.del.getLsbD (d.id - setBase b.setw) = true ∧ y.arr.getLsbD (d.id - setBase b.setw) = false))

/-! ### Tasks and placements -/

/-- R155: spawn in a strand outside handler mode, with its registers in range and its entry and signal word good. With the
core's queue full it writes 0 and queues nothing. Otherwise it writes 1, the join counter of the strand's depth grows by
one, and the record with the entry, the spawner's place, the signal word and six arguments stands behind the others; no byte of the scratchpad outside
the queue's 2048 bytes changes.

R155, R171: what spawn refuses, in place of its issue: a register field above 57 or handler mode is 0x01, an entry whose bits
[20:0] are no task's its target cause, and a reserved bit of the entry or the signal word, or scope 11, is 0x43.

R131, R156, R157, R158: join goes on at once when the join counter at the strand's depth is 0 and otherwise holds the next
bundle; yield goes on at once when no record is eligible and otherwise holds it; exit holds it. No register changes.

R142, R143, R145, R146: TASK_TAKE: an idle strand of a core that holds a placement, with no pre-emption of its group in flight,
takes a record: the newest of its own core, else the oldest of the first core that has one. It runs the task at depth 1 from the
record's entry with the record's six arguments in x1 to x6, its other registers and token counters 0 and its tensor registers
those of the launch of the placement that spawned it. The first bundle of the task does not issue before the spawner's accesses
up to the spawn have been performed.

Where the spec leaves a point open, the statement takes the model's reading: log entries 47, 48 and 49. -/
def Obligations.TasksAreSpawnedJoinedAndTaken : Prop :=
  (∀ (s : State) (d a : XReg) (b : SrcB),
    let T := s.x a
    let sig := (s.b b).toNat
    let check := s.target s.cur.core s.cur.strand true (T &&& 0x1FFFFF)
    let u := check.2
    let base := s.myPlace.taskbase
    let n := (u.taskRecs s.cur.core).length
    let record := [T.toNat % 2 ^ 21 + 2 ^ 32 * (s.linIndex % 2 ^ 32), s.cur.core % 16 + 16 * (s.cur.strand % 4) +
      64 * (s.me.depth % 8) + 2 ^ 32 * sig] ++ (List.range 6).map fun i => (s.me.rx (a.toNat + 1 + i)).toNat
    s.clean → s.me.handler = false → a.toNat ≤ 57 → check.1 = none → sig < 2 ^ 13 → sig / 2 ^ 10 % 4 ≠ 3 → T.toNat < 2 ^ 21 →
      (32 ≤ n → Runs (.spawn d a b) s fun t => u.seqFrame t [.x] ∧ s.xOnly t d 0 ∧ t.me.join = s.me.join) ∧
      (n < 32 → Runs (.spawn d a b) s fun t =>
        s.hasIssued t s.cur.nextPc ∧ s.keepsBut t [.x] ∧ s.xOnly t d 1 ∧ t.me.join = s.me.join + 1 ∧
          (∀ k, k < 8 → leNat (Mem.read t.myCore.sp (base + 64 * n + 8 * k) 8) = record.getD k 0) ∧
          ∀ x, x < base ∨ base + 2048 ≤ x → Mem.get t.myCore.sp x = Mem.get s.myCore.sp x)) ∧
  (∀ (s : State) (d a : XReg) (b : SrcB),
    let check := s.target s.cur.core s.cur.strand true (s.x a &&& 0x1FFFFF)
    (s.me.handler = true ∨ 57 < a.toNat → exec (.spawn d a b) s = .next (s.raiseAtIssue 0x01 0)) ∧
    (s.me.handler = false → a.toNat ≤ 57 → ∀ k v, check.1 = some (k, v) →
      exec (.spawn d a b) s = .next (check.2.raiseAtIssue k v)) ∧
    (s.me.handler = false → a.toNat ≤ 57 → check.1 = none →
      (2 ^ 13 ≤ (s.b b).toNat ∨ (s.b b).toNat / 2 ^ 10 % 4 = 3 ∨ 2 ^ 21 ≤ (s.x a).toNat) →
      exec (.spawn d a b) s = .next (check.2.raiseAtIssue 0x43 0))) ∧
  (∀ s : State, s.clean →
    (s.me.join = 0 → Runs .join s fun t => s.seqKnown t [] ∧ t.me.wait = s.me.wait) ∧
    (s.me.join ≠ 0 → Runs .join s fun t => s.seqFrame t [] ∧ t.me.wait = .join) ∧
    (s.nestEligible s.cur.core s.cur.strand = false → Runs .yield s fun t => s.seqFrame t [] ∧ t.me.wait = s.me.wait) ∧
    (s.nestEligible s.cur.core s.cur.strand = true → Runs .yield s fun t => s.seqFrame t [] ∧ t.me.wait = .yield) ∧
    (Runs .exit s fun t => s.seqFrame t [] ∧ t.me.wait = .exit)) ∧
  (∀ (s : State) (d : Nat),
    let c := s.arg.core
    let h := s.arg.strand
    let i := if d = c then (s.taskRecs d).length - 1 else 0
    let r := (s.taskRecs d).getD i 0
    (h < 4 → (s.strand c h).idle = true → (s.strand c h).trapped = false → s.preempting c = false →
      s.holdsNode c (s.placement c).node = true → s.takeFrom c = some d →
      Runs .taskTake s fun t =>
        let st := t.strand c h
        st.run = .running ∧ st.depth = 1 ∧ st.join = 0 ∧ st.pc = BitVec.ofNat 64 (recEntry r) ∧
          (∀ k, k < 64 → st.rx k = if 1 ≤ k ∧ k ≤ 6 then recArg r k else 0) ∧ (∀ k, st.rv k = 0) ∧
          (∀ k, k ≠ 0 → st.rm k = 0) ∧ (∀ k, st.rl k = 0) ∧ (∀ k, st.ctr k = 0) ∧ (∀ k, st.re k = 0) ∧
          (∀ k, k < 16 → st.rt k = (s.spawnRefs c r).getD k 0) ∧
          st.gate = some (d % 16, recPstrand r, (s.core d).taskMarks.getD i 0)) ∧
    (s.gated c h = true → (s.strand c h).catchUp = false → (s.strand c h).inQop = false → exec .bundleIssue s = .next s))

/-- R22, R118, R124, R126, R127: PLACEMENT_START of a placement that waits to start, its launch reads good: each of its
strands runs from its entry with the arguments in x1 to x8, every other scalar, vector and mask register and every event
and token counter 0, empty queues, no trap record, and the loop registers at index 0; accumulators, column store and
scratchpad are zero but for the preloaded bytes.

R147, R24, R29, R429: PLACEMENT_RETIRE of a placement that can retire: its core holds no placement, its strands are idle, and
the completion record of kind 1 for its node and core stands behind those on the completion path, and behind those, of kind 4, of
the commands that it detaches.

Where the spec leaves a point open, the statement takes the model's reading: log entries 50 and 51. -/
def Obligations.PlacementsStartAndRetire : Prop :=
  (∀ (s : State) (p : Placement) (bs : List (List Byte)) (u : State),
    let c := s.arg.core
    let pre := p.kf 480 16
    (s.core c).place = some p → p.started = false → s.coreBusy c = false →
      s.launchReads c ([(p.kf 128 32, 1024), (p.kf 160 32, 256), (p.kf 192 32, 256), (p.kf 224 32, 8192)] ++
        (if pre = 0 then [] else [(p.kf 448 32, 64 * pre)])) = (.ok bs, u) →
      Runs .placementStart s fun t =>
        (∀ h, h < p.nstrands →
          let st := t.strand c h
          st.run = .running ∧ st.pc = BitVec.ofNat 64 (p.entry h) ∧
            (∀ k, k < 64 → st.rx k = if 1 ≤ k ∧ k ≤ 8 then p.args.getD (k - 1) 0 else 0) ∧ (∀ k, st.rv k = 0) ∧
            (∀ k, k ≠ 0 → st.rm k = 0) ∧ (∀ k, st.re k = 0) ∧ (∀ k, st.ctr k = 0) ∧ (∀ q, st.queue q = []) ∧
            st.rec_ = {} ∧ ∀ k, (st.rl k).toNat % 2 ^ 32 = 0) ∧
        (∀ a, Mem.get (t.core c).acc a = 0 ∧ Mem.get (t.core c).cst a = 0) ∧
        ∀ a, a < 64 * p.kf 496 16 ∨ 64 * p.kf 496 16 + (bs.getD 4 []).length ≤ a → Mem.get (t.core c).sp a = 0) ∧
  (∀ s : State, s.canRetire s.arg.core = true → Runs .placementRetire s fun t =>
    let c := s.arg.core
    let p := s.placement c
    (t.core c).place = none ∧ (∀ h, (t.strand c h).run = .idle) ∧
      ∃ (l : List CompRec) (r : CompRec), t.fe.recs = s.fe.recs ++ l ++ [r] ∧ (∀ q ∈ l, q.data.toNat % 16 = 4) ∧ r.data.toNat % 16 = 1 ∧ r.data.toNat / 2 ^ 4 % 2 ^ 8 = 0 ∧
        r.data.toNat / 2 ^ 12 % 2 ^ 12 = p.node % 2 ^ 12 ∧ r.data.toNat / 2 ^ 24 % 2 ^ 10 = c % 2 ^ 10)

/-! ### Translation forms and KV handles -/

/-- R131, R283, R284, R285, R288: probe and pgreq check their reference and layout, and that their coordinate registers lie at or
below x59, and raise the cause of a failing check in place of their issue; else they issue, with the reference and the
coordinates read and x[d] pending. When they complete, they write x[d] and touch nothing else of their strand: probe the fields
of the element's entry, all but inbounds 0 outside the bounds; pgreq 2 for an element out of bounds or a tile that is
resident, 0 where the tenant's record names no ring or the ring has no free slot, and 1 where it has claimed a slot for its
request, the 32 bytes of which then stand in that slot, which is filled. tdesc writes its checked reference to t[N]; a failing check is raised in place of the issue.

R286, R287: tinv with a good count and reference issues, and for each of its tiles inside the tensor the companion word at
its home is 0 and one invalidation is in flight, with the groups that the word named when the tile's turn came; a count of 0 or a reserved bit
raises 0x01, and a bad reference its cause. tsync issues and holds the next bundle. At its turn no port cache, and no group that an invalidation of its
strand names, holds a translation that the invalidation hits; while an access that used one is still to be performed it waits,
and else it completes with no invalidation of its strand in flight.

R275, R281, R282: TRANSLATION_WALK by a group's cache or that of a memory port, which holds no translation of a tile, for a tensor that the group still uses:
a tile whose entry is resident, well formed and keyed gets its translation; no register and no core changes.

Where the spec leaves a point open, the statement takes the model's reading: log entries 27, 40, 55, 56, 92, 97, 104, 106, 115 and 117. -/
def Obligations.TranslationsAreCheckedFilledAndInvalidated : Prop :=
  (∀ (s : State) (d : XReg) (t : BitVec 4) (c : XReg) (b : SrcB),
    let ref := s.me.rt t.toNat
    let both := [(Instr.probe d t c, false), (.pgreq d t c, true)]
    (∀ k, s.desc s.myPlace.tenant ref = .error k → ∀ p ∈ both, exec p.1 s = .next (s.raiseAtIssue k 0)) ∧
    (∀ q, s.desc s.myPlace.tenant ref = .ok q → 60 < c.toNat + q.dims.length → ∀ p ∈ both, exec p.1 s = .next (s.raiseAtIssue 0x01 0)) ∧
    (∀ q, s.clean → s.desc s.myPlace.tenant ref = .ok q → c.toNat + q.dims.length ≤ 60 → ∀ p ∈ both, Runs p.1 s fun y =>
      s.seqFrame y [] ∧ ∃ r : LateReq, y.me.late = s.me.late ++ [r] ∧ r.request = p.2 ∧ r.d = (s.lateDst d).toNat ∧ r.ref = ref ∧
        r.coords = (List.range q.dims.length).map (fun i => (s.me.rx (c.toNat + i)).toInt) ∧ r.due = s.cyc + 512) ∧
    (∀ (r : LateReq) (q : Desc), s.desc s.myPlace.tenant r.ref = .ok q →
      let answers := fun v : W64 => ∃ y, s.lateStep r = some y ∧ s.keepsBut y [.x] ∧
        (∀ k, y.me.rx k = if k = r.d ∧ k ≠ 0 then v else s.me.rx k) ∧ y.me.late = s.me.late.erase r
      (q.map r.coords = none → answers (if r.request then 2 else 0)) ∧
      ∀ tile off, q.map r.coords = some (tile, off) →
        let e := s.entry q tile
        let w := BitVec.ofNat 64 (s.tenantField s.myPlace.tenant 24 8)
        (r.request = false → ∃ v : W64, answers v ∧ v.toNat % 16 = e.toNat % 16 ∧ v.toNat / 16 % 2 = 1 ∧
          (v.toNat / 32 % 2 = 1 ↔ s.keyOk q e = true) ∧ v.toNat / 64 % 2 ^ 26 = 0 ∧ v.toNat / 2 ^ 32 = tile % 2 ^ 32) ∧
        (r.request = true → entResident e = true → answers 2) ∧
        (r.request = true → entResident e = false → w = 0 → answers 0) ∧
        ∀ n u, r.request = true → entResident e = false → w ≠ 0 → s.ringOf s.cur.core s.myPlace.tenant w r.tref true = (.ok n, u) →
          (u.ring n).valid = true →
          ((u.ring n).claim = none → answers 0) ∧
          ∀ k g ls v, (u.ring n).first true = none → (u.ring n).claim = some (k, g) → u.slotPlaces (u.ring n) k 32 = (.ok ls, v) →
            let p := BitVec.ofNat 64 (u.ring n).base
            let bytes := leBytes 8 r.ref.toNat ++ leBytes 8 tile ++ leBytes 8 s.cur.core ++ leBytes 8 s.cyc
            let z := ((v.flatStored (tcOf s.cur.core) s.myPlace.tenant (s.me.rt (ptrReg p)) ((ptrCoord p : Int) + (k * (u.ring n).stride : Nat)) 32).strandWrites
              (ls.zip bytes)).ringStored s.cur.core s.myPlace.tenant w r.tref
            (s.lateReleased r = true → answers 1 ∧ ∀ y, s.lateStep r = some y →
              (k < 64 → k < (u.ring n).count → (y.ring n).slot k = 3) ∧
              ∀ l, (∀ a i, n = .global a → i < 256 → l ≠ .dev (a + i)) → y.locGet l = z.locGet l) ∧
            (s.lateReleased r = false → s.lateStep r = none)) ∧
    (∀ c h, s.lateTurn c h = s ∨ ∃ r ∈ (s.strand c h).late, (s.lateCtx c h r).lateStep r = some (s.lateTurn c h)) ∧
    (∀ c h, (∃ r ∈ (s.strand c h).late, ((s.lateCtx c h r).lateStep r).isSome = true) →
      ∃ r ∈ (s.strand c h).late, (s.lateCtx c h r).lateStep r = some (s.lateTurn c h)) ∧
    (s.clean → (∀ k, s.desc s.myPlace.tenant (s.b b) = .error k → k = 0x26) → Runs (.tdesc t b) s fun u =>
      s.seqFrame u [.t] ∧ ∀ r, u.me.rt r = if r = t.toNat then s.b b else s.me.rt r) ∧
    (∀ k, k ≠ 0x26 → s.desc s.myPlace.tenant (s.b b) = .error k → exec (.tdesc t b) s = .next (s.raiseAtIssue k 0))) ∧
  (∀ (s : State) (t : BitVec 4) (b : SrcB),
    let B := (s.b b).toNat
    let n := B / 2 ^ 32 % 2 ^ 16
    (n = 0 ∨ B / 2 ^ 48 ≠ 0 → exec (.tinv t b) s = .next (s.raiseAtIssue 0x01 0)) ∧
    (∀ q, s.clean → n ≠ 0 → B / 2 ^ 48 = 0 → s.desc s.myPlace.tenant (s.me.rt t.toNat) = .ok q →
      Runs (.tinv t b) s fun u =>
        s.hasIssued u s.cur.nextPc ∧ s.keepsBut u [] ∧
          ∃ l : List TInv, u.tinvs = s.tinvs ++ l ∧
            l.map (fun i => i.tile) = ((List.range n).map fun i => B % 2 ^ 32 + i).filter (fun i => decide (i < q.ntiles)) ∧
            (∀ i ∈ l, i.core = s.cur.core ∧ i.strand = s.cur.strand ∧ i.tenant = q.tenant ∧ i.index = q.index ∧ i.gen = q.gen ∧
              i.groups = s.devRead (q.cwbase + 8 * i.tile) 8) ∧
            ∀ i ∈ l, u.devRead (q.cwbase + 8 * i.tile) 8 = 0) ∧
    (∀ k, n ≠ 0 → B / 2 ^ 48 = 0 → s.desc s.myPlace.tenant (s.me.rt t.toNat) = .error k →
      exec (.tinv t b) s = .next (s.raiseAtIssue k 0)) ∧
    (s.clean → Runs .tsync s fun u => s.seqFrame u [] ∧ u.me.wait = .tsync) ∧
    (∀ c h, let u := s.tsyncTry c h
      let mine := s.tinvs.filter fun i => i.core == c && i.strand == h
      (∀ i ∈ mine, (∀ p ∈ u.ports, ∀ e ∈ p.2, i.hits e = false) ∧
        ∀ p ∈ u.groups, i.groups.testBit p.1 = true → ∀ e ∈ p.2.tcache, i.hits e = false) ∧
      (mine.any s.usesTile = true → (u.strand c h).wait = (s.strand c h).wait ∧ u.tinvs = s.tinvs) ∧
      (mine.any s.usesTile = false → (u.strand c h).wait = .none ∧ ∀ i ∈ u.tinvs, ¬ (i.core = c ∧ i.strand = h)))) ∧
  (∀ (s : State) (d : Desc), s.desc s.arg.m s.arg.word = .ok d →
    (∀ g, s.arg.cache = .group g → s.groupUses g s.arg.m s.arg.word = true) → (∀ n, s.arg.cache = .port n → n < 50) →
    s.arg.cache ≠ .memory → s.arg.n < d.ntiles →
    (s.tcache s.arg.cache).any (fun t => t.is d s.arg.n) = false →
    Map.has s.keys d.tenant = true → entResident (s.entry d s.arg.n) = true → s.entOk d (s.entry d s.arg.n) = true →
      Runs .translationWalk s fun t =>
        (∃ e ∈ t.tcache s.arg.cache, e.is d s.arg.n = true ∧ e.entry = s.entry d s.arg.n) ∧ t.cores = s.cores ∧ t.keys = s.keys)

/-- R33, R370, R371, R372: the handle instructions. kvchk reports and raises nothing. A bad handle raises 0x79 with its reason after the bundle. kvalloc
with an empty block cache writes 0, registers its event counter and asks for a refill; with a block it writes the handle
with the new bound, takes the block from the cache, writes it in the block table as the sequence's next, and counts it in the length.
kvfree writes the handle with its new bound and sets the length; the blocks that it takes off, the newest first, go to the block cache
as far as that has room, and the rest back to the pool. A read-only handle, an operand out of range, and a sequence that is full or is
shorter than asked for raise 0x7D. Both raise 0x79 with reason 2 where a block table that they read or write has no key.

Where the spec leaves a point open, the statement takes the model's reading: log entry 60. -/
def Obligations.KvHandleInstructionsAnswer : Prop :=
  ∀ (s : State) (d a : XReg) (b : SrcB), s.clean →
    let h := s.x a
    let i := hIndex h
    let r := s.kvReason s.myPlace.tenant h
    let n := s.kvLength i
    let B := s.b b
    Sets s (.kvchk d a) d (if r ≠ 0 then BitVec.ofNat 64 r else BitVec.ofNat 64 (2 ^ 16 * n + 2 ^ 32 * min (hBound h) n)) ∧
    (r ≠ 0 → exec (.kvalloc d a b) s = .next (s.issued.raiseAfter 0x79 (BitVec.ofNat 64 r)) ∧
      exec (.kvfree d a b) s = .next (s.issued.raiseAfter 0x79 (BitVec.ofNat 64 r))) ∧
    (r = 0 → hRo h = false → B.toNat < 16 → s.myCore.kvCache = [] → Runs (.kvalloc d a b) s fun t =>
      s.hasIssued t s.cur.nextPc ∧ s.keepsBut t [.x] ∧ s.xOnly t d 0 ∧ t.myCore.kvAsked = true ∧
        t.me.refills = s.me.refills ||| 1 <<< B.toNat ∧ s.sameBytes t) ∧
    (∀ p ps, r = 0 → hRo h = false → B.toNat < 16 → s.myCore.kvCache = p :: ps → n ≠ 65535 → Map.has s.keys s.myPlace.tenant = true → Runs (.kvalloc d a b) s fun t =>
      s.hasIssued t s.cur.nextPc ∧ s.keepsBut t [.x] ∧ s.xOnly t d (withBound h (n + 1)) ∧ t.myCore.kvCache = ps ∧
        t.kvLength i = n + 1 ∧
        ((∀ x y, x < 4 → y < 2 → s.kvBlockAddr i n + x ≠ kvEntryAddr i + 4 + y) → t.devRead (s.kvBlockAddr i n) 4 = p % 2 ^ 32) ∧
        ∀ l, (∀ x, x < 4 → l ≠ .dev (s.kvBlockAddr i n + x)) → (∀ x, x < 2 → l ≠ .dev (kvEntryAddr i + 4 + x)) →
          t.locGet l = s.locGet l) ∧
    (r = 0 → hRo h = false → B.toNat ≤ n → B.toNat < 65536 → B.toNat = n ∨ Map.has s.keys s.myPlace.tenant = true →
      Runs (.kvfree d a b) s fun t => s.hasIssued t s.cur.nextPc ∧ s.keepsBut t [.x] ∧ s.xOnly t d (withBound h B.toNat) ∧
        t.kvLength i = B.toNat ∧
        let back := (List.range (n - B.toNat)).map fun j => s.kvBlock i (n - 1 - j)
        let room := 16 - s.myCore.kvCache.length
        t.myCore.kvCache = (back.take room).reverse ++ s.myCore.kvCache ∧
          t.heldOf s.myPlace.tenant = s.heldOf s.myPlace.tenant - (n - B.toNat - room)) ∧
    (r = 0 → hRo h = true ∨ 16 ≤ B.toNat ∨ (s.myCore.kvCache ≠ [] ∧ n = 65535) →
      exec (.kvalloc d a b) s = .next (s.issued.raiseAfter 0x7D 0)) ∧
    (r = 0 → hRo h = true ∨ 65536 ≤ B.toNat ∨ n < B.toNat → exec (.kvfree d a b) s = .next (s.issued.raiseAfter 0x7D 0)) ∧
    (r = 0 → hRo h = false → Map.has s.keys s.myPlace.tenant = false →
      (B.toNat < 16 → s.myCore.kvCache ≠ [] → n ≠ 65535 → exec (.kvalloc d a b) s = .next (s.issued.raiseAfter 0x79 2)) ∧
      (B.toNat < n → B.toNat < 65536 → exec (.kvfree d a b) s = .next (s.issued.raiseAfter 0x79 2)))

/-! ### Loads, stores and atomics -/

/-- R97, R198, R201: lds of a good address, with no scoreboard range and no access under way before it in its way, reads the bytes
at the address, as one element where it is naturally aligned and else byte by byte: once they are all read, in this turn or in
the next, x[d] takes the zero-extended little-endian number and the load completes. sts stores the low bytes of its register
there, by the same elements. Nothing else changes: no other register, and no byte but the stored ones.

R198, R199, R202, R225: a scratchpad access whose address has a reserved bit set or passes the end of the scratchpad raises
0x20 with the address, one that is not aligned as its form asks 0x21, and one that names a core without a placement of the
node 0x22.

Where the spec leaves a point open, the statement takes the model's reading: log entry 24. -/
def Obligations.ScratchpadScalarsAreLoadedAndStored : Prop :=
  (∀ (s : State) (d a : XReg) (size : BitVec 2) (off : Off) (tok : Tok) (c o : Nat), s.cur.entry.fails = none →
    let n := 2 ^ size.toNat
    let E := fun i => s.cap i + offBytes n off
    let byte := fun b : Nat => BitVec.ofNat 8 ((s.cap 0).toNat / 2 ^ (8 * b))
    let srcs := if o % n = 0 then [Src.at (.sp c o) n] else (List.range n).map fun i => Src.at (.sp c (o + i)) 1
    let es : List (List (Loc × Byte)) := if o % n = 0 then [(List.range n).map fun b => (.sp c (o + b), byte b)]
      else (List.range n).map fun b => [(.sp c (o + b), byte b)]
    (s.cur.entry.left = none → s.spTarget (E 0) 1 [0] n = .ok (c, o) → s.spStall (E 0) false [(o, n)] = false →
      s.behind (srcs.flatMap Src.locs) = false → Runs (.lds d a size off tok) s fun t =>
        (s.headFrame t [.x] ∧ s.xOnly t d (BitVec.ofNat 64 (leNat (s.spRead c o n)))) ∨
        ∃ now, sampled s.srcRead srcs now ∧ t = s.modHead fun e => { e with left := some 0, srcs := now }) ∧
    (s.cur.entry.left ≠ none → Runs (.lds d a size off tok) s fun t =>
      s.headFrame t [.x] ∧ s.xOnly t d (BitVec.ofNat 64 (leNat (s.cur.entry.srcs.flatMap fun x => match x with
        | .got bs => bs
        | .at l k => s.srcRead l k
        | .gone k => List.replicate k 0)))) ∧
    (s.cur.entry.later = [] → s.spTarget (E 1) 1 [0] n = .ok (c, o) → s.spStall (E 1) true [(o, n)] = false →
      s.behind (es.flatten.map Prod.fst) = false → Runs (.sts d a size off tok) s fun t => s.storesSome t false es) ∧
    (s.cur.entry.later ≠ [] → s.storeFine → Runs (.sts d a size off tok) s fun t => s.storesSome t true s.cur.entry.later)) ∧
  (∀ (s : State) (d a : XReg) (size : BitVec 2) (v : VReg) (m : MReg) (off : Off) (tok : Tok) (k : Nat),
    let n := 2 ^ size.toNat
    let offs := (enabled (s.mreg m.toNat 0)).map fun i => 4 * i
    let E := fun i => s.cap i + offBytes n off
    let V := s.cap 0 + offBytes 256 off
    (s.cur.entry.left = none → s.cur.entry.later = [] →
      (s.spTarget (E 0) 1 [0] n = .error k → exec (.lds d a size off tok) s = .next (s.raiseHead k (E 0))) ∧
      (s.spTarget (E 1) 1 [0] n = .error k → exec (.sts d a size off tok) s = .next (s.raiseHead k (E 1))) ∧
      (s.spTarget V 4 offs 4 = .error k → exec (.vlds v a m off tok) s = .next (s.raiseHead k V) ∧
        exec (.vsts v a m off tok) s = .next (s.raiseHead k V))) ∧
    (∀ (A : W64) al l, 2 ^ 25 ≤ A.toNat → s.spTarget A al l 4 = .error 0x20) ∧
    (∀ A : W64, A.toNat < 2 ^ 20 → A.toNat % 4 ≠ 0 → s.spTarget A 4 [] 4 = .error 0x21) ∧
    (∀ A : W64, 2 ^ 24 ≤ A.toNat → A.toNat < 2 ^ 25 → A.toNat % 2 ^ 20 = 0 →
      s.holdsNode (16 * (s.cur.core / 16) + A.toNat / 2 ^ 20 % 16) s.myPlace.node = false → s.spTarget A 1 [0] 4 = .error 0x22))

/-- R97, R202: vlds fills the lanes of v that its mask enables from 4 * lane bytes past the address, and vsts stores those lanes
there, element by element, in this turn or in later ones; no other lane, register or byte changes.

R97, R203: vldsg fills each enabled lane from the own scratchpad at (x[a] + lane of vi) mod 2^20, aligned down to 4, and vstss
stores each enabled lane there in lane order, so that the highest lane of one address remains; element by element, in this turn
or in later ones. No other lane, register or byte changes.

Where the spec leaves a point open, the statement takes the model's reading: log entry 24. -/
def Obligations.ScratchpadVectorsAreLoadedAndStored : Prop :=
  (∀ (s : State) (v : VReg) (a : XReg) (m : MReg) (off : Off) (tok : Tok) (c o : Nat), s.cur.entry.fails = none →
    let E := s.cap 0 + offBytes 256 off
    let mk := s.mreg m.toNat 0
    let ls := enabled mk
    let srcs := (List.range 64).map fun i => if mk.getLsbD i then Src.at (.sp c (o + 4 * i)) 4 else .got [0, 0, 0, 0]
    let es : List (List (Loc × Byte)) := ls.map fun i => (List.range 4).map fun b =>
      (.sp c (o + 4 * i + b), BitVec.ofNat 8 ((lane (s.vreg v.toNat 1) i).toNat / 2 ^ (8 * b)))
    (s.cur.entry.left = none → s.spTarget E 4 (ls.map fun i => 4 * i) 4 = .ok (c, o) →
      s.spStall E false (ls.map fun i => (o + 4 * i, 4)) = false → s.behind (srcs.flatMap Src.locs) = false →
      Runs (.vlds v a m off tok) s fun t => s.loadsSome t false s.srcRead v 0 mk srcs 0 fun i =>
        BitVec.ofNat 32 (leNat (s.spRead c (o + 4 * i) 4))) ∧
    (∀ left, s.cur.entry.left = some left → s.loadFine s.srcRead → Runs (.vlds v a m off tok) s fun t =>
      s.loadsSome t true s.srcRead v 0 left s.cur.entry.srcs 0 (lane (srcVec (s.cur.entry.srcs.map (Src.take s.srcRead))))) ∧
    (s.cur.entry.later = [] → s.spTarget E 4 (ls.map fun i => 4 * i) 4 = .ok (c, o) →
      s.spStall E true (ls.map fun i => (o + 4 * i, 4)) = false → s.behind (es.flatten.map Prod.fst) = false →
      Runs (.vsts v a m off tok) s fun t => s.storesSome t false es) ∧
    (s.cur.entry.later ≠ [] → s.storeFine → Runs (.vsts v a m off tok) s fun t => s.storesSome t true s.cur.entry.later)) ∧
  (∀ (s : State) (v vi : VReg) (a : XReg) (m : MReg) (tok : Tok), s.cur.entry.fails = none →
    let mk := s.mreg m.toNat 0
    let c := s.cur.core
    let at_ := fun i => ((s.cap 0).toNat + (lane (s.vreg vi.toNat 1) i).toNat) % 2 ^ 20 / 4 * 4
    let srcs := (List.range 64).map fun i => if mk.getLsbD i then Src.at (.sp c (at_ i)) 4 else .got [0, 0, 0, 0]
    let es : List (List (Loc × Byte)) := (enabled mk).map fun i => (List.range 4).map fun b =>
      (.sp c (at_ i + b), BitVec.ofNat 8 ((lane (s.vreg v.toNat 2) i).toNat / 2 ^ (8 * b)))
    (s.cur.entry.left = none → (enabled mk).any (fun i => s.stalled c s.cur.entry false (at_ i) 4) = false →
      s.behind (srcs.flatMap Src.locs) = false → Runs (.vldsg v a vi m tok) s fun t =>
        s.loadsSome t false s.srcRead v 0 mk srcs 0 fun i => BitVec.ofNat 32 (leNat (s.spRead c (at_ i) 4))) ∧
    (∀ left, s.cur.entry.left = some left → s.loadFine s.srcRead → Runs (.vldsg v a vi m tok) s fun t =>
      s.loadsSome t true s.srcRead v 0 left s.cur.entry.srcs 0 (lane (srcVec (s.cur.entry.srcs.map (Src.take s.srcRead))))) ∧
    (s.cur.entry.later = [] → (enabled mk).any (fun i => s.stalled c s.cur.entry true (at_ i) 4) = false →
      s.behind (es.flatten.map Prod.fst) = false → Runs (.vstss v a vi m tok) s fun t => s.storesSome t false es) ∧
    (s.cur.entry.later ≠ [] → s.storeFine → Runs (.vstss v a vi m tok) s fun t => s.storesSome t true s.cur.entry.later))

/-- R97, R205, R272, R273, R471: ldg of a good reference, with no cause at any element, begins, and is performed in this turn or in
later ones: each enabled lane takes its elements from their places, or zeros where it has a byte of an element out of bounds or not
resident; for a mask other than m0, the bits of the enabled lanes that have such a byte are cleared, the last of them with the last
lane. No other register changes. Where what a turn reads of this chip or of a peer is poisoned, 0xA6 is raised instead. R399: an
access of which a part has failed at a peer chip ends with the cause reported against its strand.

R97, R205, R277, R278, R279: stg of a good reference, no element of which meets a cause or is absent, begins, and in this turn
or in later ones the bytes of the enabled lanes are stored at the places of their elements, element by element, an element out
of bounds being dropped; no register changes, and every byte that is at none of the stored places is as the translation left
it, the dirty bits of the tiles set.

Where the spec leaves a point open, the statement takes the model's reading: log entries 24, 32 and 37. -/
def Obligations.TensorElementsAreLoadedAndStored : Prop :=
  (∀ (s : State) (v : VReg) (t : BitVec 4) (x : XReg) (m : MReg) (tok : Tok),
    let mk := s.mreg m.toNat 0
    (∀ (d : Desc) (hs : List Hit) (u : State), s.cur.entry.srcs = [] → s.myDesc = .ok d →
      s.elems (tcOf s.cur.core) d false (wantElems d mk) s.coords none = (hs, u) → firstFault hs = none →
      let w := u.touch (hitLocs hs)
      (hitLocs hs).any w.locPoisoned = false → w.peersFine (hitLocs hs) →
      let found := fun h => match h with | Hit.at _ => true | _ => false
      let bytes := fun h => match h with | Hit.at l => w.srcRead l d.ebytes | _ => List.replicate d.ebytes 0
      let bad := fun i => (((hs.flatMap fun h => List.replicate d.ebytes (found h)).drop (4 * i)).take 4).any (fun b => !b)
      u.cores = s.cores ∧ Runs (.ldg v t x m tok) s fun y => s.putOff y ∨
        w.loadsSome y true w.srcRead v m mk (hitSrcs d.ebytes mk hs) (maskOf ((List.range 64).map fun i => mk.getLsbD i && bad i)) fun i =>
          if bad i then 0 else BitVec.ofNat 32 (leNat (((hs.flatMap bytes).drop (4 * i)).take 4))) ∧
    (∀ left, s.cur.entry.srcs ≠ [] → s.cur.entry.left = some left → s.loadFine s.srcRead → Runs (.ldg v t x m tok) s fun y =>
      s.loadsSome y true s.srcRead v m left s.cur.entry.srcs (goneLanes s.cur.entry.srcs)
        (lane (srcVec (s.cur.entry.srcs.map (Src.take s.srcRead))))) ∧
    (s.cur.entry.srcs ≠ [] → (s.readsNow s.srcRead).any s.locPoisoned = true → exec (.ldg v t x m tok) s = .next s.integrity) ∧
    (∀ k, s.accessEnds none = s.finish ∧ (s.accessEnds (some k)).me.trapped = true ∧
      (s.me.trapped = false → k.1 < 256 → (s.accessEnds (some k)).me.rec_.cause.toNat % 256 = k.1 ∧ (s.accessEnds (some k)).me.rec_.val = k.2))) ∧
  (∀ (s : State) (v : VReg) (t : BitVec 4) (x : XReg) (m : MReg) (tok : Tok),
    let mk := s.mreg m.toNat 0
    let data := bytesOf (s.vreg v.toNat 1)
    (∀ (d : Desc) (hs : List Hit) (u : State), s.cur.entry.later = [] → s.myDesc = .ok d →
      s.elems (tcOf s.cur.core) d true (wantElems d mk) s.coords none = (hs, u) →
      firstFault (hs.map fun h => if h = .absent then .fault 0x28 else h) = none → u.peersFine (hitLocs hs) →
      let w := u.stored (tcOf s.cur.core) d (u.hitCoords s.coords hs)
      let es := hs.zipIdx.filterMap fun p => match p.1 with
        | .at l => some ((List.range d.ebytes).filterMap fun b =>
          if mk.getLsbD ((p.2 * d.ebytes + b) / 4) then some (l.plus b, data.getD (p.2 * d.ebytes + b) 0) else none)
        | _ => none
      w.cores = s.cores ∧ Runs (.stg v t x m tok) s fun y => s.putOff y ∨ w.storesSome y true es) ∧
    (s.cur.entry.later ≠ [] → s.storeFine → Runs (.stg v t x m tok) s fun y => s.storesSome y true s.cur.entry.later))

/-- R116, R206: ldro of a good flat pointer, with no cause at any byte, begins, and in this turn or in later ones each enabled lane
takes an element through the read-only cache, or zeros where a byte of it is out of bounds or not resident; no other register
changes and no flag is set. The value of an element is the present one or one of those that R116 leaves open.
R207: pref completes, whatever its reference, with no register changed, no cause and no byte changed.

R204, R208, R277: an atomic at a good flat pointer, homed in this chip's memory and not poisoned, begins, and in this turn or in
the next reads the old value, stores the value of its operation in the access's width, and writes the old value zero-extended
to x[d]; of a wide and a narrow form alike. Signed minimum and maximum compare the width's two's complement values; cas stores
its operand where the old value is the comparand. No other register changes and no byte but those of the access differs from
what the translation, with the tile's dirty bit set, left.

Where the spec leaves a point open, the statement takes the model's reading: log entries 6, 24 and 32. -/
def Obligations.FlatPointersAreReadAndUpdated : Prop :=
  (∀ (s : State) (v : VReg) (a x : XReg) (m : MReg) (off : Off) (tok : Tok) (ro : Bool) (t : BitVec 4),
    let p := s.cap 0
    let at_ := ((p.toNat % 2 ^ 48 : Nat) : Int) + (offBytes 256 off).toInt
    let mk := s.mreg m.toNat 0
    (∀ d hs u, s.cur.entry.srcs = [] → p.toNat / 2 ^ 52 = 0 → at_ % 4 = 0 → s.myDesc = .ok d → d.flat = true →
      s.elems (tcOf s.cur.core) d false (wantElems d mk) [at_] none = (hs, u) → firstFault hs = none →
      (hitLocs hs).any (u.touch (hitLocs hs)).locPoisoned = false → u.peersFine (hitLocs hs) →
      let w := (((hitLocs hs).map Loc.lineBase).eraseDups).foldl State.roFill (u.touch (hitLocs hs))
      let four := fun i => (hs.drop (4 * i)).take 4
      Runs (.ldro v a m off tok) s fun y => s.putOff y ∨
        w.loadsSome y true w.roRead v 0 mk (roSrcs mk hs) 0 fun i => match four i with
          | [.at l, .at _, .at _, .at _] => BitVec.ofNat 32 (leNat (w.roRead l 4))
          | _ => 0) ∧
    (∀ left, s.cur.entry.srcs ≠ [] → s.cur.entry.left = some left → s.loadFine s.roRead → Runs (.ldro v a m off tok) s fun y =>
      s.loadsSome y true s.roRead v 0 left s.cur.entry.srcs 0 (lane (srcVec (s.cur.entry.srcs.map (Src.take s.roRead))))) ∧
    (∀ l, s.roRead l 4 = s.locRead l 4 ∨ ∃ w ∈ s.roPasts l, s.roRead l 4 = leBytes 4 w.toNat) ∧
    Runs (.pref ro t x tok) s fun y => s.headDone y ∧ s.keepsBut y [.tokens] ∧ y.host = s.host ∧ y.peers = s.peers ∧
      ∀ d, s.myDesc = .ok d →
        ∀ l, y.locGet l = (s.elems (tcOf s.cur.core) d false (wantElems d (BitVec.allOnes 64)) s.coords none).2.locGet l) ∧
  (∀ (s : State) (d a : XReg) (wide : Bool) (l : Lit) (tok : Tok) (ls : List Loc) (u : State),
    let n := if wide then 8 else 4
    let M := 2 ^ (8 * n)
    let off : Int := match l with | none => 0 | some w => w.toInt
    let sg : Nat → Int := fun x => if x < M / 2 then (x : Int) else (x : Int) - M
    s.flatAt s.cur.core s.myPlace.tenant (s.cap 0) s.cur.entry.tref off n n true true = (.ok ls, u) →
      ls.any (u.touch ls).locPoisoned = false → ls.length = n →
      let w := (u.touch ls).flatStored (tcOf s.cur.core) s.myPlace.tenant s.cur.entry.tref (((s.cap 0).toNat % 2 ^ 48 : Nat) + off) n
      let old := leNat (ls.map w.locGet)
      let v := (s.cap 1).toNat % M
      let cmp := (s.cap 2).toNat % M
      ∀ p ∈ [(Instr.amoAdd d a wide l tok, old + v), (.amoMin d a wide l tok, if sg v < sg old then v else old),
          (.amoMax d a wide l tok, if sg old < sg v then v else old), (.amoMinn d a wide l tok, min old v),
          (.amoMaxn d a wide l tok, max old v), (.amoAnd d a wide l tok, old &&& v), (.amoOr d a wide l tok, old ||| v),
          (.amoXor d a wide l tok, old ^^^ v), (.amoSwap d a wide l tok, v),
          (.amoCas d a wide l tok, if old = cmp then v else old)],
        Runs p.1 s fun t => s.putOff t ∨
          (s.headDone t ∧ s.keepsBut t [.x, .tokens] ∧ s.xOnly t d (BitVec.ofNat 64 old) ∧
            (ls.Nodup → leNat (ls.map t.locGet) = p.2 % M) ∧ ∀ q, q ∉ ls → t.locGet q = w.locGet q))

/-! ### Rings -/

/-- R214, R216: rclaim and rwait on a valid ring. When the ring answers a slot, the ring's new state is stored, x[d] takes the
slot and the form completes; when it answers none, the strand has joined the ring's waiters and the entry stays in its
queue, parked. No other register changes. A ring that is not valid raises 0x49.

R214, R216: RING_WAITER_WAKE: the first parked strand of a kind at a local ring, running and not stopped, gets its slot as
soon as it is eligible: it leaves the waiters, the register of its parked form takes the slot, and that form completes.

Where the spec leaves a point open, the statement takes the model's reading: log entry 36. -/
def Obligations.RingSlotsAreClaimedAndAwaited : Prop :=
  (∀ (s : State) (d a : XReg) (tok : Tok) (c id : Nat), s.myRing 0 true = (.ok (.local c id), s) → s.cur.entry.parked = false →
    ∀ p ∈ [(Instr.rclaim d a tok, true), (.rwait d a tok, false)],
      let r := s.ring (.local c id)
      let w : Waiter := { core := s.cur.core, agent := s.cur.strand, claims := p.2 }
      (r.valid = false → exec p.1 s = .next (s.raiseHead 0x49 0)) ∧
      (r.valid = true → ∀ k r', r.ask w s.cur.strand = (some k, r') → Runs p.1 s fun t =>
        s.headDone t ∧ s.keepsBut t [.x, .tokens] ∧ s.xOnly t d (BitVec.ofNat 64 k) ∧ t.ring (.local c id) = r' ∧ s.sameBytes t) ∧
      (r.valid = true → ∀ r', r.ask w s.cur.strand = (none, r') → Runs p.1 s fun t =>
        s.keepsBut t [] ∧ t.ring (.local c id) = r' ∧ s.sameBytes t ∧
          s.stays t fun e => { e with parked := true })) ∧
  (∀ (s : State) (c id : Nat) (w : Waiter) (k : Nat) (r' : Ring) (e : Entry),
    s.arg.ring = .local c id → (s.ring (.local c id)).first s.arg.flag = some w → w.agent < 4 →
      (s.strand w.core w.agent).trapped = false → (s.strand w.core w.agent).stopped = false →
      (s.ring (.local c id)).serve w.claims w.agent = some (k, r') → (s.strand w.core w.agent).lq.find? (fun e => e.parked) = some e →
      Runs .ringWaiterWake s fun t =>
        w ∉ (t.ring (.local c id)).waiters ∧
          (∀ q, (t.strand w.core w.agent).queue q = ((s.strand w.core w.agent).finishEntry .lq e).queue q) ∧
          ∀ q, (t.strand w.core w.agent).rx q =
            if q = fld e.word.toNat 18 6 ∧ q ≠ 0 then BitVec.ofNat 64 k else (s.strand w.core w.agent).rx q)

/-- R214, R215: a claim takes the tail slot exactly when it is free, marks it claimed, moves the tail on modulo the count and
counts it; a wait takes the head slot exactly when it is filled, marks it in use and moves the head on; a fill turns a
claimed slot into a filled one and a release a slot in use into a free one, and each refuses every other state.

R212, R214: rstat writes the status word of its ring, 0 for a local ring that is not valid; rinit with a legal setup makes
every slot of a free ring free, with head, tail and claimed at 0; rfill and rrel, once the strand's earlier accesses are performed, put their slot
of a valid ring on. Each completes, no register changes but x[d] of rstat, and a refused setup raises 0x4A, a ring that is
not free 0x48, and a slot in another state 0x48.

R213, R214, R277: the same on a global ring, whose state stands in its control line: when the operation succeeds, the 256
bytes at the line's address spell the new state, and every byte of memory outside the line is as the translation left it, the
dirty bit of the line's tile set. rinit sets up a free ring in the line, and refuses with 0x4A and 0x48 as for a local one; rstat reads
its status word; every other form raises 0x49 where the line holds no valid ring, and so does rstat.

Where the spec leaves a point open, the statement takes the model's reading: log entries 36 and 44. -/
def Obligations.RingsAreSetUpMovedAndReported : Prop :=
  (∀ (r : Ring) (h k : Nat),
    (r.slot r.tail ≠ 0 → r.claim = none) ∧ (r.slot r.head ≠ 3 → r.take h = none) ∧
    (r.slot r.tail = 0 → ∃ q : Ring, r.claim = some (r.tail, q) ∧ q.tail = (r.tail + 1) % r.count ∧ q.claimed = r.claimed + 1 ∧
      q.head = r.head ∧ ∀ j, q.slot j = if j = r.tail then 1 else r.slot j) ∧
    (r.slot r.head = 3 → ∃ q : Ring, r.take h = some (r.head, q) ∧ q.head = (r.head + 1) % r.count ∧ q.tail = r.tail ∧
      q.claimed = r.claimed ∧ ∀ j, q.slot j = if j = r.head then 4 else r.slot j) ∧
    (k < r.count → r.slot k = 1 → ∃ q : Ring, r.fill k = some q ∧ ∀ j, q.slot j = if j = k then 3 else r.slot j) ∧
    (k < r.count → r.slot k = 4 → ∃ q : Ring, r.release k = some q ∧ q.claimed = r.claimed - 1 ∧
      ∀ j, q.slot j = if j = k then 0 else r.slot j) ∧
    (r.count ≤ k ∨ r.slot k ≠ 1 → r.fill k = none) ∧ (r.count ≤ k ∨ r.slot k ≠ 4 → r.release k = none)) ∧
  (∀ (s : State) (d a : XReg) (tok : Tok) (c id : Nat),
    let r := s.ring (.local c id)
    (s.myRing 0 false = (.ok (.local c id), s) → Runs (.rstat d a tok) s fun t =>
      s.headFrame t [.x] ∧ s.xOnly t d (if r.valid then r.status false else 0)) ∧
    (s.myRing 2 true = (.ok (.local c id), s) →
      let free := r.waiters = [] ∧ ∀ k, k < r.count → r.slot k = 0
      (setupOk true (s.cap 0) (s.cap 1) = false → exec (.rinit d a tok) s = .next (s.raiseHead 0x4A 0)) ∧
      (setupOk true (s.cap 0) (s.cap 1) = true → ¬ free → exec (.rinit d a tok) s = .next (s.raiseHead 0x48 0)) ∧
      (setupOk true (s.cap 0) (s.cap 1) = true → free → Runs (.rinit d a tok) s fun t =>
        let q := t.ring (.local c id)
        s.headDone t ∧ s.keepsBut t [.tokens] ∧ s.sameBytes t ∧ q.valid = true ∧ q.head = 0 ∧ q.tail = 0 ∧ q.claimed = 0 ∧
          (∀ k, q.slot k = 0) ∧ q.count = (s.cap 0).toNat % 64 + 1 ∧ q.stride = (s.cap 0).toNat / 2 ^ 8 % 2 ^ 24 ∧
          q.base = (s.cap 1).toNat)) ∧
    (s.myRing 1 true = (.ok (.local c id), s) → s.performed s.cur.core s.cur.strand (fun x => x.before s.cur.entry) = true →
      ∀ p ∈ [(Instr.rfill d a tok, Ring.fill), (.rrel d a tok, Ring.release)],
        (r.valid = false → exec p.1 s = .next (s.raiseHead 0x49 0)) ∧
        (r.valid = true → p.2 r (s.cap 0).toNat = none → exec p.1 s = .next (s.raiseHead 0x48 0)) ∧
        (r.valid = true → ∀ q, p.2 r (s.cap 0).toNat = some q → Runs p.1 s fun t =>
          s.headDone t ∧ s.keepsBut t [.tokens] ∧ s.sameBytes t ∧ t.ring (.local c id) = q))) ∧
  (∀ (s : State) (d a : XReg) (tok : Tok) (addr : Nat) (u : State),
    let r := u.ring (.global addr)
    let stored : Nat → State → Ring → Prop := fun i t q =>
      let w := u.ringStored s.cur.core s.myPlace.tenant (s.cap i) s.cur.entry.tref
      (∀ i, i < 256 → t.devGet (addr + i) = (leBytes 256 (lineOfRing q)).getD i 0) ∧
        ∀ l, (∀ i, i < 256 → l ≠ .dev (addr + i)) → t.locGet l = w.locGet l
    (s.myRing 0 true = (.ok (.global addr), u) → s.cur.entry.parked = false → r.valid = true →
      ∀ p ∈ [(Instr.rclaim d a tok, true), (.rwait d a tok, false)], ∀ k q,
        r.ask { core := s.cur.core, agent := s.cur.strand, claims := p.2 } s.cur.strand = (some k, q) → Runs p.1 s fun t =>
          s.headDone t ∧ s.keepsBut t [.x, .tokens] ∧ s.xOnly t d (BitVec.ofNat 64 k) ∧ stored 0 t q) ∧
    (s.myRing 1 true = (.ok (.global addr), u) → s.performed s.cur.core s.cur.strand (fun x => x.before s.cur.entry) = true →
      r.valid = true → ∀ p ∈ [(Instr.rfill d a tok, Ring.fill), (.rrel d a tok, Ring.release)], ∀ q,
        p.2 r (s.cap 0).toNat = some q → Runs p.1 s fun t => s.headDone t ∧ s.keepsBut t [.tokens] ∧ stored 1 t q) ∧
    (s.myRing 2 true = (.ok (.global addr), u) →
      let free := r.waiters = [] ∧ ∀ k, k < r.count → r.slot k = 0
      (setupOk false (s.cap 0) (s.cap 1) = false → exec (.rinit d a tok) s = .next (u.raiseHead 0x4A 0)) ∧
      (setupOk false (s.cap 0) (s.cap 1) = true → ¬ free → exec (.rinit d a tok) s = .next (u.raiseHead 0x48 0)) ∧
      (setupOk false (s.cap 0) (s.cap 1) = true → free → Runs (.rinit d a tok) s fun t =>
        s.headDone t ∧ s.keepsBut t [.tokens] ∧ stored 2 t
          { valid := true, base := (s.cap 1).toNat, stride := (s.cap 0).toNat / 2 ^ 8 % 2 ^ 24, cnt := (s.cap 0).toNat % 64 })) ∧
    (s.myRing 0 false = (.ok (.global addr), u) →
      (r.valid = false → exec (.rstat d a tok) s = .next (u.raiseHead 0x49 0)) ∧
      (r.valid = true → Runs (.rstat d a tok) s fun t =>
        s.headDone t ∧ s.keepsBut t [.x, .tokens] ∧ s.xOnly t d (r.status true) ∧ ∀ l, t.locGet l = u.locGet l)) ∧
    (r.valid = false →
      (s.myRing 0 true = (.ok (.global addr), u) → ∀ i ∈ [Instr.rclaim d a tok, .rwait d a tok], exec i s = .next (u.raiseHead 0x49 0)) ∧
      (s.myRing 1 true = (.ok (.global addr), u) → s.performed s.cur.core s.cur.strand (fun x => x.before s.cur.entry) = true →
        ∀ i ∈ [Instr.rfill d a tok, .rrel d a tok], exec i s = .next (u.raiseHead 0x49 0))))

/-! ### The vector engine -/

/-- R174, R178, R180: the F32 forms, lane by lane under the mask, by their latency bound: sum, difference, product, the two
fused multiply-adds, minimum and maximum, on the lanes of va and of operand b. -/
def Obligations.VectorFloatFormsWriteTheirLanes : Prop :=
  ∀ (s : State) (vd va : VReg) (b : VecB) (tok : Tok),
    let O := fun i => lane (s.vreg vd.toNat 0) i
    let A := fun i => lane (s.vreg va.toNat 1) i
    let B := fun i => (s.vecB b).getD i 0
    let writes : Instr → Nat → (Nat → W32) → Prop := fun i L f => Runs i s fun t => s.wroteLanes t L 1 vd (s.vecMask b) f
    writes (.vaddF32 vd va b tok) 4 (fun i => fadd (A i) (B i)) ∧
    writes (.vsubF32 vd va b tok) 4 (fun i => fsub (A i) (B i)) ∧
    writes (.vmulF32 vd va b tok) 4 (fun i => fmul (A i) (B i)) ∧
    writes (.vfmaF32 vd va b tok) 5 (fun i => ffma (A i) (B i) (O i)) ∧
    writes (.vfmacF32 vd va b tok) 5 (fun i => ffma (O i) (A i) (B i)) ∧
    writes (.vminF32 vd va b tok) 2 (fun i => fminDev (A i) (B i)) ∧
    writes (.vmaxF32 vd va b tok) 2 (fun i => fmaxDev (A i) (B i))

/-- R174, R178, R181, R182: the integer and bit forms, lane by lane under the mask: wrapping and saturating sums and
differences, product, minimum and maximum, and, or, exclusive or; a shift counts B[7:0], and a count above 31 gives 0, or
for vsar the sign in every bit. -/
def Obligations.VectorIntegerFormsWriteTheirLanes : Prop :=
  ∀ (s : State) (vd va : VReg) (b : VecB) (tok : Tok),
    let A := fun i => lane (s.vreg va.toNat 1) i
    let B := fun i => (s.vecB b).getD i 0
    let writes : Instr → Nat → (Nat → W32) → Prop := fun i L f => Runs i s fun t => s.wroteLanes t L 1 vd (s.vecMask b) f
    let signed : Int → W32 := fun x => BitVec.ofInt 32 (max (-2 ^ 31) (min x (2 ^ 31 - 1)))
    let unsigned : Int → W32 := fun x => BitVec.ofInt 32 (max 0 (min x (2 ^ 32 - 1)))
    writes (.vaddI32 vd va b tok) 2 (fun i => BitVec.ofNat 32 ((A i).toNat + (B i).toNat)) ∧
    writes (.vsubI32 vd va b tok) 2 (fun i => BitVec.ofInt 32 ((A i).toInt - (B i).toInt)) ∧
    writes (.vmulI32 vd va b tok) 3 (fun i => BitVec.ofNat 32 ((A i).toNat * (B i).toNat)) ∧
    writes (.vaddsI32 vd va b tok) 2 (fun i => signed ((A i).toInt + (B i).toInt)) ∧
    writes (.vsubsI32 vd va b tok) 2 (fun i => signed ((A i).toInt - (B i).toInt)) ∧
    writes (.vaddsN32 vd va b tok) 2 (fun i => unsigned ((A i).toNat + (B i).toNat : Int)) ∧
    writes (.vsubsN32 vd va b tok) 2 (fun i => unsigned ((A i).toNat - (B i).toNat : Int)) ∧
    writes (.vminI32 vd va b tok) 2 (fun i => if (A i).toInt ≤ (B i).toInt then A i else B i) ∧
    writes (.vmaxI32 vd va b tok) 2 (fun i => if (A i).toInt ≤ (B i).toInt then B i else A i) ∧
    writes (.vminN32 vd va b tok) 2 (fun i => if (A i).toNat ≤ (B i).toNat then A i else B i) ∧
    writes (.vmaxN32 vd va b tok) 2 (fun i => if (A i).toNat ≤ (B i).toNat then B i else A i) ∧
    writes (.vand vd va b tok) 2 (fun i => A i &&& B i) ∧ writes (.vor vd va b tok) 2 (fun i => A i ||| B i) ∧
    writes (.vxor vd va b tok) 2 (fun i => A i ^^^ B i) ∧
    writes (.vshl vd va b tok) 2 (fun i => BitVec.ofNat 32 ((A i).toNat * 2 ^ ((B i).toNat % 256))) ∧
    writes (.vshr vd va b tok) 2 (fun i => BitVec.ofNat 32 ((A i).toNat / 2 ^ ((B i).toNat % 256))) ∧
    writes (.vsar vd va b tok) 2 (fun i => BitVec.ofInt 32 ((A i).toInt / 2 ^ ((B i).toNat % 256)))

/-- R178, R183: a compare writes the bit of each enabled lane and 0 for each disabled one, by the relation eq, lt, le or ne
on signed or unsigned lanes, or on F32 values; R195: the mask forms combine whole masks, and mcnt counts in every lane the
bits that both masks set. A write to m0 is discarded. -/
def Obligations.ComparesAndMaskFormsWriteTheirBits : Prop :=
  ∀ (s : State) (md ma mb : MReg) (vd va : VReg) (b : VecB) (rel : BitVec 2) (tok : Tok),
    let A := fun i => lane (s.vreg va.toNat 1) i
    let B := fun i => (s.vecB b).getD i 0
    let P := fun i => (s.mreg ma.toNat 0).getLsbD i
    let Q := fun i => (s.mreg mb.toNat 1).getLsbD i
    let compares : Instr → (Nat → Bool) → Prop := fun i f => Runs i s fun t =>
      s.wroteMask t 2 md fun k => (s.vecMask b).getLsbD k && f k
    let combines : Instr → (Nat → Bool) → Prop := fun i f => Runs i s fun t => s.wroteMask t 1 md f
    let by_ : Int → Int → Bool := fun x y => match rel.toNat with
      | 0 => decide (x = y)
      | 1 => decide (x < y)
      | 2 => decide (x ≤ y)
      | _ => decide (x ≠ y)
    compares (.vcmpF32 md rel va b tok) (fun i => fcmp (A i) (B i) rel.toNat) ∧
    compares (.vcmpI32 md rel va b tok) (fun i => by_ (A i).toInt (B i).toInt) ∧
    compares (.vcmpN32 md rel va b tok) (fun i => by_ (A i).toNat (B i).toNat) ∧
    combines (.mand md ma mb tok) (fun i => P i && Q i) ∧ combines (.mor md ma mb tok) (fun i => P i || Q i) ∧
    combines (.mxor md ma mb tok) (fun i => P i != Q i) ∧ combines (.mandn md ma mb tok) (fun i => P i && !Q i) ∧
    combines (.mnot md ma tok) (fun i => !P i) ∧ combines (.mmov md ma tok) P ∧
    Runs (.mcnt vd ma mb tok) s fun t => s.wroteLanes t 2 1 vd (BitVec.allOnes 64) fun _ =>
      BitVec.ofNat 32 ((List.range 64).filter fun i => P i && Q i).length

/-- R184, R185, R186: vsel takes va where the mask is 1 and b elsewhere and writes every lane; vperm, vrot, vext and vbcast move
lanes of va, and of the old vd, under the mask, their index taken modulo the number of lanes; vins writes lane n only;
vsplat writes b.

R188, R189: the one-operand forms, lane by lane under the mask, with their bounds and occupancies: conversions between F32
and integers, the value of an E8, 2^x, reciprocals, negation, magnitude and copy. A NaN of vneg.f32 and vabs.f32 gives the
canonical one. -/
def Obligations.VectorMovesAndUnaryForms : Prop :=
  (∀ (s : State) (vd va : VReg) (b : VecB) (tok : Tok),
    let O := fun i => lane (s.vreg vd.toNat 0) i
    let A := fun i => lane (s.vreg va.toNat 1) i
    let B := fun i => (s.vecB b).getD i 0
    let n := (B 0).toNat % 64
    let writes : Instr → W64 → (Nat → W32) → Prop := fun i m f => Runs i s fun t => s.wroteLanes t 3 1 vd m f
    let m := s.vecMask b
    Runs (.vsel vd va b tok) s (fun t => s.wroteLanes t 2 1 vd (BitVec.allOnes 64) fun i => if m.getLsbD i then A i else B i) ∧
    writes (.vperm vd va b tok) m (fun i => A ((B i).toNat % 64)) ∧
    writes (.vrot vd va b tok) m (fun i => A ((i + (B 0).toNat) % 64)) ∧
    writes (.vext vd va b tok) m (fun i => if i + n < 64 then A (i + n) else O (i + n - 64)) ∧
    Runs (.vins vd va b tok) s (fun t => s.wroteLanes t 3 1 vd (if m.getLsbD n then 1 <<< n else 0) fun _ => A 0) ∧
    writes (.vbcast vd va b tok) m (fun _ => A n) ∧
    Runs (.vsplat vd b tok) s (fun t => s.wroteLanes t 2 1 vd m B)) ∧
  (∀ (s : State) (vd va : VReg) (m : MReg) (tok : Tok),
    let writes : Instr → Nat → Nat → (W32 → W32) → Prop := fun i L occ f => Runs i s fun t =>
      s.wroteLanes t L occ vd (s.mreg m.toNat 3) fun k => f (lane (s.vreg va.toNat 1) k)
    writes (.cvtF32I32 vd va m tok) 4 1 (fun x => r32 (XR.ofInt x.toInt)) ∧
    writes (.cvtF32N32 vd va m tok) 4 1 (fun x => r32 (XR.ofInt (x.toNat : Int))) ∧
    writes (.cvtI32F32 vd va m tok) 4 1 (fun x => BitVec.ofNat 32 (cvtI 32 false (v32 x))) ∧
    writes (.cvtI32F32Rz vd va m tok) 4 1 (fun x => BitVec.ofNat 32 (cvtI 32 true (v32 x))) ∧
    writes (.cvtN32F32 vd va m tok) 4 1 (fun x => BitVec.ofNat 32 (cvtN 32 false (v32 x))) ∧
    writes (.cvtN32F32Rz vd va m tok) 4 1 (fun x => BitVec.ofNat 32 (cvtN 32 true (v32 x))) ∧
    writes (.cvtF32E8 vd va m tok) 4 1 (fun x => r32 (e8Val (x.toNat % 256))) ∧
    writes (.vexp2 vd va m tok) 10 1 exp2Dev ∧ writes (.vrcp vd va m tok) 12 2 rcpDev ∧ writes (.vrsq vd va m tok) 12 2 rsqDev ∧
    writes (.vnegF32 vd va m tok) 2 1 (fun x => if isNan32 x then nan32 else x ^^^ 0x80000000) ∧
    writes (.vabsF32 vd va m tok) 2 1 (fun x => if isNan32 x then nan32 else x &&& 0x7FFFFFFF) ∧
    writes (.vnegI32 vd va m tok) 2 1 (fun x => BitVec.ofInt 32 (-x.toInt)) ∧
    writes (.vabsI32 vd va m tok) 2 1 (fun x => BitVec.ofInt 32 |x.toInt|) ∧ writes (.vmov vd va m tok) 2 1 (fun x => x))

/-- R190: a pack writes every lane: the 64 elements of va, converted, 0 for each disabled one, stand in the low bits from lane 0
up, and the old vd moves up by as many bits, its highest bits being lost.

R191: an unpack writes lane k, where enabled, with the value of field k of the lowest lanes of va, sign- or zero-extended, or
as F32. -/
def Obligations.PacksAndUnpacksMoveElements : Prop :=
  (∀ (s : State) (vd va : VReg) (m : MReg) (tok : Tok),
    let on := fun i => (s.mreg m.toNat 3).getLsbD i
    let packs : Instr → Nat → (W32 → Nat) → Prop := fun i w f => Runs i s fun t =>
      s.hasDispatched t 4 ∧ s.keepsBut t [.v] ∧ s.sameBytes t ∧ (∀ r, r ≠ vd.toNat → t.me.rv r = s.me.rv r) ∧
        (∀ k, k < 64 → (t.me.rv vd.toNat).toNat / 2 ^ (w * k) % 2 ^ w =
          if on k then f (lane (s.vreg va.toNat 1) k) % 2 ^ w else 0) ∧
        (t.me.rv vd.toNat).toNat / 2 ^ (64 * w) = (s.vreg vd.toNat 0).toNat % 2 ^ (2048 - 64 * w)
    packs (.pkF16 vd va m tok) 16 (fun x => rne .f16 (v32 x)) ∧ packs (.pkBf16 vd va m tok) 16 (fun x => rne .bf16 (v32 x)) ∧
    packs (.pkBf16Rz vd va m tok) 16 (fun x => rz .bf16 (v32 x)) ∧
    packs (.pkF8e4Sat vd va m tok) 8 (fun x => rneSat .f8e4 (v32 x)) ∧
    packs (.pkF8e4Nan vd va m tok) 8 (fun x => rne .f8e4 (v32 x)) ∧ packs (.pkF8e5 vd va m tok) 8 (fun x => rne .f8e5 (v32 x)) ∧
    packs (.pkI16 vd va m tok) 16 (fun x => satI 16 x.toInt) ∧ packs (.pkI8 vd va m tok) 8 (fun x => satI 8 x.toInt) ∧
    packs (.pkN8 vd va m tok) 8 (fun x => satN 8 x.toInt) ∧
    packs (.pkT2 vd va m tok) 2 (fun x => if x = 0 then 0 else if x.toInt < 0 then 3 else 1)) ∧
  (∀ (s : State) (vd va : VReg) (m : MReg) (tok : Tok),
    let field := fun w k => (s.vreg va.toNat 1).toNat / 2 ^ (w * k) % 2 ^ w
    let writes : Instr → (Nat → W32) → Prop := fun i f => Runs i s fun t => s.wroteLanes t 4 1 vd (s.mreg m.toNat 3) f
    writes (.upkF16 vd va m tok) (fun k => r32 (fval .f16 (field 16 k))) ∧
    writes (.upkBf16 vd va m tok) (fun k => r32 (fval .bf16 (field 16 k))) ∧
    writes (.upkF8e4 vd va m tok) (fun k => r32 (fval .f8e4 (field 8 k))) ∧
    writes (.upkF8e5 vd va m tok) (fun k => r32 (fval .f8e5 (field 8 k))) ∧
    writes (.upkI16 vd va m tok) (fun k => BitVec.ofInt 32 (BitVec.ofNat 16 (field 16 k)).toInt) ∧
    writes (.upkI8 vd va m tok) (fun k => BitVec.ofInt 32 (BitVec.ofNat 8 (field 8 k)).toInt) ∧
    writes (.upkN8 vd va m tok) (fun k => BitVec.ofNat 32 (field 8 k)) ∧
    writes (.upkT2 vd va m tok) (fun k => BitVec.ofInt 32 (t2Val (field 2 k))))

/-- R192, R193, R194: a reduction combines its lanes by the tree of R92, each disabled lane replaced by the identity, and writes
the result to every lane; a scan writes lane i with the result of lanes 0 to i in order; vtopk writes the lanes of the best
enabled values, best first, and all ones behind them. -/
def Obligations.ReductionsScansAndTopK : Prop :=
  ∀ (s : State) (vd va : VReg) (m : MReg) (b : VecB) (tok : Tok),
    let xs := fun id => (List.range 64).map fun i => if (s.mreg m.toNat 3).getLsbD i then lane (s.vreg va.toNat 1) i else id
    let all := BitVec.allOnes 64
    let reduces : Instr → (W32 → W32 → W32) → W32 → Prop := fun i f id => Runs i s fun t =>
      s.wroteLanes t 8 1 vd all fun _ => redTree f id (xs id)
    let scans : Instr → (W32 → W32 → W32) → W32 → Prop := fun i f id => Runs i s fun t =>
      s.wroteLanes t 10 2 vd all fun k => ((xs id).take (k + 1)).foldl f id
    let k := min ((s.vecB b).getD 0 0).toNat 16
    let best := (sortBy ranksBefore (((List.range 64).filter fun i => (s.vecMask b).getLsbD i).map fun i =>
      (lane (s.vreg va.toNat 1) i, i))).take k
    reduces (.vrsumF32 vd va m tok) fadd 0x80000000 ∧ reduces (.vrmaxF32 vd va m tok) fmaxDev 0xFF800000 ∧
    reduces (.vrminF32 vd va m tok) fminDev 0x7F800000 ∧ reduces (.vrsumI32 vd va m tok) (fun x y => x + y) 0 ∧
    reduces (.vrmaxI32 vd va m tok) (fun x y => if x.toInt < y.toInt then y else x) 0x80000000 ∧
    reduces (.vrminI32 vd va m tok) (fun x y => if y.toInt < x.toInt then y else x) 0x7FFFFFFF ∧
    reduces (.vrmaxN32 vd va m tok) (fun x y => if x.toNat < y.toNat then y else x) 0 ∧
    reduces (.vrminN32 vd va m tok) (fun x y => if y.toNat < x.toNat then y else x) 0xFFFFFFFF ∧
    scans (.vscanF32 vd va m tok) fadd 0x80000000 ∧ scans (.vscanI32 vd va m tok) (fun x y => x + y) 0 ∧
    Runs (.vtopk vd va b tok) s fun t => s.wroteLanes t 16 4 vd all fun j =>
      match best[j]? with
      | some p => BitVec.ofNat 32 p.2
      | none => 0xFFFFFFFF

/-! ### The matrix engine -/

/-- R85, R316, R320, R329: a matrix step of the hasp's holder with a good operand, which it reads as it dispatches or in part in a later
turn of its window, adds to each cell of its region the products of 48
bytes of A's row with B's column and rounds the exact sum once: to F32, by satF32 where sat is set; the integer forms wrap or
saturate to 32 bits. A(i, k) is at E + e(64k + i) of scratchpad, B(k, j) at byte 48j + ek of the slot; mma.t2's B holds four
weights a byte. Nothing else changes. -/
def Obligations.MatrixStepsAccumulateExactSums : Prop :=
  ∀ (s : State) (z : BitVec 4) (sl : BitVec 8) (a : XReg) (l : Lit) (sat : Bool) (tok : Tok),
    let E := s.mxAddr l
    let A := fun sp e i k => leNat (Mem.read sp (E.toNat + e * (64 * k + i)) e)
    let B := fun e k j => leNat (Mem.read s.myCore.cst (3072 * sl.toNat + 48 * j + e * k) e)
    let old := fun i j => s.myCore.cell (64 * (z.toNat / 4) + i) (64 * (z.toNat % 4) + j)
    let float := fun fa fb e sp i j =>
      let x := XR.sum (v32 (old i j)) ((List.range (48 / e)).map fun k => (fval fa (A sp e i k)).mul (fval fb (B e k j)))
      w32 (if sat then rneSat .f32 x else rne .f32 x)
    let int := fun (p : Mem → Nat → Nat → Nat → Int) sp i j =>
      let x := ((List.range 48).map (p sp i j)).foldl (· + ·) (old i j).toInt
      w32 (if sat then satI 32 x else wrapN 32 x)
    s.holdsHasp →
    ∀ p ∈ [(Instr.mmaF8e4 z sl a l sat tok, 12, float .f8e4 .f8e4 1), (.mmaF8e5 z sl a l sat tok, 12, float .f8e5 .f8e5 1),
        (.mmaF8x z sl a l sat tok, 12, float .f8e4 .f8e5 1), (.mmaBf16 z sl a l sat tok, 12, float .bf16 .bf16 2),
        (.mmaF16 z sl a l sat tok, 12, float .f16 .f16 2),
        (.mmaI8 z sl a l sat tok, 12, int fun sp i j k => sval 8 (A sp 1 i k) * sval 8 (B 1 k j)),
        (.mmaI8n z sl a l sat tok, 12, int fun sp i j k => (A sp 1 i k : Int) * sval 8 (B 1 k j)),
        (.mmaT2 z sl a l sat tok, 6, int fun sp i j k => sval 8 (A sp 1 i k) *
          match leNat (Mem.read s.myCore.cst (3072 * sl.toNat + 48 * j + k / 4) 1) / 4 ^ (k % 4) % 4 with
            | 1 => 1
            | 3 => -1
            | _ => 0)],
      s.mxRuns p.1 E 3072 p.2.1 p.2.1 fun sp t => s.regionOnly t z.toNat (p.2.2 sp) ∧
        ∀ b, Mem.get t.myCore.sp b = Mem.get s.myCore.sp b ∧ Mem.get t.myCore.cst b = Mem.get s.myCore.cst b

/-- R87, R88, R330: mma.f32x3 splits its 12 pairs a cell into BF16 slices and makes six passes, each an exact sum rounded once: lo by
hi, hi by lo, mid by mid, mid by hi, hi by mid, and hi by hi, which alone multiplies zeros as they are. Only the region changes. -/
def Obligations.MatrixF32StepMakesSixPasses : Prop :=
  ∀ (s : State) (z : BitVec 4) (sl : BitVec 8) (a : XReg) (l : Lit) (sat : Bool) (tok : Tok),
    let E := s.mxAddr l
    let A := fun sp i k => split3 (w32 (leNat (Mem.read sp (E.toNat + 4 * (64 * k + i)) 4)))
    let B := fun k j => split3 (w32 (leNat (Mem.read s.myCore.cst (3072 * sl.toNat + 48 * j + 4 * k) 4)))
    let slice := fun (n : Nat) (x : Nat × Nat × Nat) => match n with
      | 0 => x.1
      | 1 => x.2.1
      | _ => x.2.2
    let pass := fun sp i j (c : W32) (q : Nat × Nat × Bool) =>
      let x := XR.sum (v32 c) ((List.range 12).map fun k => slicePair q.2.2 (slice q.1 (A sp i k)) (slice q.2.1 (B k j)))
      w32 (if sat then rneSat .f32 x else rne .f32 x)
    s.holdsHasp → s.mxRuns (.mmaF32x3 z sl a l sat tok) E 3072 36 36 fun sp t =>
      (∀ b, Mem.get t.myCore.sp b = Mem.get s.myCore.sp b ∧ Mem.get t.myCore.cst b = Mem.get s.myCore.cst b) ∧
        s.regionOnly t z.toNat fun i j => [(2, 0, false), (0, 2, false), (1, 1, false), (1, 0, false), (0, 1, false), (0, 0, true)].foldl
          (pass sp i j) (s.myCore.cell (64 * (z.toNat / 4) + i) (64 * (z.toNat % 4) + j))

/-- R103, R320, R331, R334: for the hasp's holder, csld copies 3072 bytes into a slot of the column store, csldt transposes them element by
element, acld fills a region from scratchpad with its conversion and acst stores a region there with its own; the bytes that acst replaces
stay open to reads until its bound; it writes as it dispatches, or part of its elements in a later turn of its window. No other byte
of the core, and no register, changes. -/
def Obligations.MatrixLoadsAndStoresMoveTheirBytes : Prop :=
  ∀ (s : State) (z : BitVec 4) (f e : BitVec 2) (sl : BitVec 8) (a : XReg) (l : Lit) (tok : Tok),
    let E := s.mxAddr l
    let B := E.toNat
    let w := 2 ^ e.toNat
    let n := [4, 2, 2, 1].getD f.toNat 0
    let from_ := fun (x : Nat) => [w32 x, r32 (fval .bf16 x), r32 (fval .f16 x), r32 (fval .f8e4 x)].getD f.toNat 0
    let into := fun (c : W32) => [c.toNat, rne .bf16 (v32 c), rne .f16 (v32 c), rneSat .f8e4 (v32 c)].getD f.toNat 0
    let cellAt := fun (x : Nat) => s.myCore.cell (64 * (z.toNat / 4) + (x - B) / n / 64) (64 * (z.toNat % 4) + (x - B) / n % 64)
    let slot := 3072 * sl.toNat
    let new := fun x => BitVec.ofNat 8 (into (cellAt x) / 2 ^ (8 * ((x - B) % n)))
    let acst := Instr.acst z f a l tok
    let others := fun (t : State) => ∀ x, Mem.get t.myCore.acc x = Mem.get s.myCore.acc x ∧ Mem.get t.myCore.cst x = Mem.get s.myCore.cst x
    let window := fun (t : State) =>
      ∃ w ∈ t.myCore.spWin, w.lo = B ∧ w.size = 4 ∧ w.until_ = s.cyc + 8 * n ∧ w.old = Mem.read s.myCore.sp B (4096 * n)
    s.holdsHasp →
    (s.mxRuns (.csld sl a l tok) E 3072 12 12 fun seen t => ∀ x,
      Mem.get t.myCore.sp x = Mem.get s.myCore.sp x ∧ Mem.get t.myCore.acc x = Mem.get s.myCore.acc x ∧
        Mem.get t.myCore.cst x = if slot ≤ x ∧ x < slot + 3072 then Mem.get seen (B + (x - slot)) else Mem.get s.myCore.cst x) ∧
    (e ≠ 3 → s.mxRuns (.csldt e sl a l tok) E 3072 12 12 fun seen t =>
      (∀ x, Mem.get t.myCore.sp x = Mem.get s.myCore.sp x ∧ Mem.get t.myCore.acc x = Mem.get s.myCore.acc x ∧
        (x < slot ∨ slot + 3072 ≤ x → Mem.get t.myCore.cst x = Mem.get s.myCore.cst x)) ∧
      ∀ j k b, j < 64 → k < 48 / w → b < w →
        Mem.get t.myCore.cst (slot + 48 * j + w * k + b) = Mem.get seen (B + w * (64 * k + j) + b)) ∧
    (s.mxRuns (.acld z f a l tok) E (4096 * n) (8 * n) (8 * n) fun seen t =>
      (∀ x, Mem.get t.myCore.sp x = Mem.get s.myCore.sp x ∧ Mem.get t.myCore.cst x = Mem.get s.myCore.cst x) ∧
        s.regionOnly t z.toNat fun r c => from_ (leNat (Mem.read seen (B + n * (64 * r + c)) n))) ∧
    (s.cur.entry.left = none → s.mxReady E (4096 * n) true → s.mxLate = false → Runs acst s fun t =>
      s.mxFrame t (8 * n) (8 * n) [] ∧ window t ∧ others t ∧
        ∀ x, Mem.get t.myCore.sp x = if B ≤ x ∧ x < B + 4096 * n then new x else Mem.get s.myCore.sp x) ∧
    (s.cur.entry.left = none → s.mxReady E (4096 * n) true → s.mxLate = true →
      ∃ (u : State) (now : Nat → Bool) (ls : List (List (Loc × Byte))),
        s.mxFrame u (8 * n) (8 * n) [] ∧ u.cur = s.cur ∧ window u ∧ others u ∧
          (∀ x, Mem.get u.myCore.sp x = if B ≤ x ∧ x < B + 4096 * n ∧ now ((x - B) / 4) = true then new x else Mem.get s.myCore.sp x) ∧
          (∀ p, p ∈ ls.flatten ↔ ∃ x, B ≤ x ∧ x < B + 4096 * n ∧ now ((x - B) / 4) = false ∧ p = (.sp s.cur.core x, new x)) ∧
          exec acst s = .next (u.modHead fun e => { e with left := some 0, later := ls })) ∧
    (s.cur.entry.left ≠ none → Runs acst s fun t =>
      others t ∧ s.keepsBut t [] ∧ (∀ c, c ≠ s.cur.core → t.core c = s.core c) ∧ s.sameMemory t ∧
        (∀ x, Mem.get t.myCore.sp x =
          ((s.cur.entry.later.flatten.filter fun p => p.1.addr = x).getLast?.map Prod.snd).getD (Mem.get s.myCore.sp x)) ∧
        t.me.queue s.cur.unit = modSame s.cur.entry (fun e => { e with left := none, srcs := [], later := [] }) (s.me.queue s.cur.unit))

/-- R86, R332, R333, R335, R336: for the hasp's holder, acsc folds region p into region z with the row and column scales of its
operand, rounding as its form says, and clears p where asked; acz clears a region; acmv copies the 64 by 64 block at its origin
word, modulo 256; acvr writes a row or column of 64 cells and acrd reads one. Nothing else changes. -/
def Obligations.AccumulatorFormsFoldAndMove : Prop :=
  ∀ (s : State) (z p : BitVec 4) (clr col : Bool) (v : VReg) (a : XReg) (l : Lit) (tok : Tok),
    let E := s.mxAddr l
    let o := (s.cap 0).toNat
    let row := o % 256
    let col0 := o / 256 % 256
    let cell := fun r c => s.myCore.cell r c
    let at_ := fun (q : BitVec 4) i j => cell (64 * (q.toNat / 4) + i) (64 * (q.toNat % 4) + j)
    let sp := fun (m : Mem) k n => leNat (Mem.read m (E.toNat + k) n)
    let e8 := fun m i j =>
      if sp m (4 * i) 1 = 255 ∨ sp m (4 * j + 1) 1 = 255 then nan32
      else r32 ((v32 (at_ z i j)).add ((v32 (at_ p i j)).scale ((sp m (4 * i) 1 : Int) + sp m (4 * j + 1) 1 - 254)))
    let f32 := fun m i j => fadd (at_ z i j) (fmul (fmul (at_ p i j) (w32 (sp m (4 * i) 4))) (w32 (sp m (256 + 4 * j) 4)))
    let folded := fun (t : State) (g : Nat → Nat → W32) => ∀ r c, r < 256 → c < 256 → t.myCore.cell r c =
      if clr ∧ r / 64 = p.toNat / 4 ∧ c / 64 = p.toNat % 4 then 0
      else if r / 64 = z.toNat / 4 ∧ c / 64 = z.toNat % 4 then g (r % 64) (c % 64) else cell r c
    let place := fun i => if col then ((row + i) % 256, col0) else (row, (col0 + i) % 256)
    let stores := fun (t : State) => ∀ b, Mem.get t.myCore.sp b = Mem.get s.myCore.sp b ∧ Mem.get t.myCore.cst b = Mem.get s.myCore.cst b
    s.holdsHasp →
    (s.mxRuns (.acscE8 z p clr a l tok) E 256 16 16 fun m t => stores t ∧ folded t (e8 m)) ∧
    (s.mxRuns (.acscF32 z p clr a l tok) E 512 16 16 fun m t => stores t ∧ folded t (f32 m)) ∧
    (Runs (.acz z tok) s fun t => s.mxFrame t 4 4 [] ∧ stores t ∧ s.regionOnly t z.toNat fun _ _ => 0) ∧
    (Runs (.acmv z a tok) s fun t => s.mxFrame t 16 16 [] ∧ stores t ∧
      s.regionOnly t z.toNat fun i j => cell ((row + i) % 256) ((col0 + j) % 256)) ∧
    (Runs (.acvr v col a tok) s fun t => s.mxFrame t 2 2 [] ∧ stores t ∧
      (∀ i, i < 64 → t.myCore.cell (place i).1 (place i).2 = lane (s.vreg v.toNat 0) i) ∧
        ∀ r c, r < 256 → c < 256 → (∀ i, i < 64 → place i ≠ (r, c)) → t.myCore.cell r c = cell r c) ∧
    (Runs (.acrd v col a tok) s fun t => s.mxFrame t 1 4 [.v] ∧ (∀ b, Mem.get t.myCore.acc b = Mem.get s.myCore.acc b) ∧ stores t ∧
      (∀ r, r ≠ v.toNat → t.me.rv r = s.me.rv r) ∧ ∀ i, i < 64 → lane (t.me.rv v.toNat) i = cell (place i).1 (place i).2)

/-- R319, R323 to R326: hasp.acq of a strand with no part in the hasp dispatches and waits for its grant; the array grants a free hasp
to the waiting strand of the highest priority whose request has reached it, the first after the last holder; hasp.rel of the holder dispatches, and once its
earlier accesses are performed it frees the hasp; a rejoining strand's withdraws its request. An MX form without the hasp raises
0x70, a hasp form out of place 0x72, and a bad operand 0x71. The holder's budget is renewed when nobody waits; when somebody
does, the form that finds no budget left releases the hasp, as hasp.rel does, and its strand rejoins.

Where the spec leaves a point open, the statement takes the model's reading: log entry 113. -/
def Obligations.HaspIsAcquiredGrantedAndReleased : Prop :=
  ∀ (s : State) (budget : BitVec 6) (prio : BitVec 2) (z : BitVec 4) (sl : BitVec 8) (a : XReg) (l : Lit) (tok : Tok) (h : Nat),
    let k := s.core s.arg.core
    let holder := s.myCore.haspHolder
    let me := some s.cur.strand
    let turn := fun i => (i + 3 + 3 * k.haspLast) % 4
    let asks := fun i => (k.strand i).wantsHasp = true ∧ s.haspHere s.arg.core i = true
    let here : Entry → Entry := fun e => { e with parked := e.parked || !s.cur.entry.parked }
    let early := s.performed s.cur.core s.cur.strand fun x => x.before s.cur.entry
    (s.me.hasp = .none → holder ≠ me → Runs (.haspAcq budget prio tok) s fun t =>
      t.me.hasp = .waiting ∧ t.me.haspBudget = budget.toNat + 1 ∧ t.me.haspPrio = prio.toNat ∧
        t.myCore.haspHolder = holder ∧ s.keepsBut t [] ∧ s.sameBytes t ∧ t.me.cq = modUndispatched here s.me.cq ∧
        (s.cur.entry.parked = false → t.myCore.arrayFree = max s.myCore.arrayFree (s.cyc + 1))) ∧
    ((s.me.hasp = .rejoining ∨ s.me.hasp = .none ∧ holder = me) →
      exec (.haspAcq budget prio tok) s = .next (s.raiseHead 0x72 0)) ∧
    (k.haspHolder = none → k.haspFree ≤ s.cyc → h < 4 → asks h →
      (∀ i, i < 4 → asks i →
        (k.strand i).haspPrio < (k.strand h).haspPrio ∨ (k.strand i).haspPrio = (k.strand h).haspPrio ∧ turn h ≤ turn i) →
      (k.strand h).haspPrio < 4 → Runs .haspGrant s fun t =>
        (t.core s.arg.core).haspHolder = some h ∧ (t.core s.arg.core).haspLeft = (k.strand h).haspBudget ∧
          (t.strand s.arg.core h).hasp = .none ∧ s.cyc < (t.core s.arg.core).haspFree ∧ s.sameBytes t) ∧
    (s.me.hasp ≠ .rejoining → holder = me → early = true →
      Runs (.haspRel tok) s fun t => t.myCore.haspHolder = none ∧ t.myCore.haspLast = s.cur.strand ∧ s.keepsBut t [] ∧ s.sameBytes t ∧
        t.me.cq = modUndispatched (fun e => { here e with until_ := some s.cyc }) s.me.cq) ∧
    (s.me.hasp ≠ .rejoining → holder = me → early = false →
      Runs (.haspRel tok) s fun t => t.myCore.haspHolder = holder ∧ s.keepsBut t [] ∧ s.sameBytes t ∧ t.me.cq = modUndispatched here s.me.cq) ∧
    (s.me.hasp = .rejoining → Runs (.haspRel tok) s fun t => t.me.hasp = .none ∧ t.myCore.haspHolder = holder ∧ s.sameBytes t) ∧
    (s.me.hasp ≠ .rejoining → holder ≠ me → exec (.haspRel tok) s = .next (s.raiseHead 0x72 0) ∧
      exec (.acz z tok) s = .next (s.raiseHead 0x70 0)) ∧
    (s.holdsHasp → s.cur.entry.left = none → ((s.mxAddr l).toNat % 64 ≠ 0 ∨ 2 ^ 20 < (s.mxAddr l).toNat + 3072) →
      exec (.csld sl a l tok) s = .next (s.raiseHead 0x71 (s.mxAddr l))) ∧
    (s.me.hasp ≠ .rejoining → holder = me → s.myCore.haspLeft = 0 → s.haspWanted = false → Runs (.acz z tok) s fun t =>
      t.myCore.haspLeft = s.me.haspBudget - 1 ∧ s.regionOnly t z.toNat fun _ _ => 0) ∧
    (s.me.hasp ≠ .rejoining → holder = me → s.myCore.haspLeft = 0 → s.haspWanted = true →
      (early = false → exec (.acz z tok) s = .next s) ∧
      (early = true → Runs (.acz z tok) s fun t =>
        t.myCore.haspHolder = none ∧ t.myCore.haspLast = s.cur.strand ∧ t.me.hasp = .rejoining ∧ t.me.cq = s.me.cq))

/-! ### Engines -/

/-- R168, R169, R170, R384, R385, R386: epush and the attn forms at the head of EA, with a good operand, their release done and a
slot, enter the 128 bytes at x[a] with the tag B[15:0], the attn forms with their var in bits [1:0]; epop takes the strand's oldest
element, writes its 128 bytes at B and its status word to x[d]; attw takes the oldest with the tag B[15:0]; estat reports free slots,
elements and failures. A bad operand raises 0x60, with a cause value of 0 (R223): of a bundle that is issued, at issue.

Where the spec leaves a point open, the statement takes the model's reading: log entries 26, 96 and 118. -/
def Obligations.ApertureFormsPushAndPop : Prop :=
  ∀ (s : State) (d a : XReg) (eng : XReg) (b : SrcB) (r : ResElem),
    let A := s.cap 0
    let B := s.qb 0 b
    let g := groupOf s.cur.core
    let n := fun (e : XReg) => if e = 0 then 0 else 1
    let raw := leNat (s.spRead s.cur.core A.toNat 128)
    let good := fun (w : W64) => w.toNat % 128 = 0 ∧ w.toNat ≤ 0xFFF80
    let tag := (s.qb 1 b).toNat % 65536
    let mine := fun (r : ResElem) => r.core = s.cur.core ∧ r.strand = s.cur.strand
    let first := fun (l : List ResElem) (p : ResElem → Prop) => ∃ before after, l = before ++ r :: after ∧ p r ∧ ∀ x ∈ before, ¬ p x
    (∀ p ∈ [(Instr.epush eng a b, n eng, raw), (.attn a b, 0, raw / 4 * 4), (.attnP8 a b, 0, raw / 4 * 4 + 1),
        (.attnP8n a b, 0, raw / 4 * 4 + 2)],
      (good A → (s.performed s.cur.core s.cur.strand fun x => x.before s.cur.entry) = true →
        (s.cur.entry.resv = true ∨ s.canReserve s.cur.core s.cur.strand p.2.1 = true) → (n eng = eng.toNat) → Runs p.1 s fun t =>
          s.headDone t ∧ s.keepsBut t [.tokens] ∧ s.sameBytes t ∧ ∃ q : EngCmd, (t.group g).fifo p.2.1 = (s.group g).fifo p.2.1 ++ [q] ∧
            q.data = BitVec.ofNat 1024 p.2.2 ∧ q.tag = tag ∧ q.core = s.cur.core ∧ q.strand = s.cur.strand) ∧
      (¬ good A → exec p.1 s = .next (s.raiseHead 0x60 0) ∧ s.eaIssue p.1 = .error (0x60, 0))) ∧
    (first ((s.group g).results eng.toNat) mine → good B → Runs (.epop d eng b) s fun t =>
      s.headDone t ∧ s.keepsBut t [.x, .tokens] ∧ s.xOnly t d (r.data.truncate 64) ∧
        (t.group g).results eng.toNat = ((s.group g).results eng.toNat).erase r ∧ s.spStored t s.cur.core fun x =>
          if B.toNat ≤ x ∧ x < B.toNat + 128 then some (r.data.extractLsb' (8 * (x - B.toNat)) 8) else none) ∧
    (¬ good B → exec (.epop d eng b) s = .next (s.raiseHead 0x60 0) ∧ s.eaIssue (.epop d eng b) = .error (0x60, 0)) ∧
    (first (s.group g).attnOut (fun x => mine x ∧ x.tag = B.toNat % 65536) → Runs (.attw d b) s fun t =>
      s.headDone t ∧ s.keepsBut t [.x, .tokens] ∧ s.xOnly t d (r.data.truncate 64) ∧ s.sameBytes t ∧
        (t.group g).attnOut = (s.group g).attnOut.erase r) ∧
    (let own := ((s.group g).results eng.toNat).filter s.mine
      let fails := own.any fun r => if eng.toNat = 0 then decide (r.data.toNat % 4 = 1) else decide (r.data.toNat / 256 % 256 ≠ 0)
      Runs (.estat d eng) s fun t => s.headFrame t [.x] ∧ s.xOnly t d
        (BitVec.ofNat 64 (s.fifoFree g eng.toNat + 256 * own.length + 65536 * if fails then 1 else 0)))

/-- R301, R307: a copy form whose release is done passes the command built for it to its channel, behind at most 15 others, with a
free scoreboard entry where it needs one; nothing that software can read changes. R304, R305, R306, R309: drain with nothing left
to wait for reads and clears the flags of the commands that it covers, and before that stays; chlink links an unlinked chain and chkick adds credit; sbq reports the
scoreboard; ccan removes its strand's commands from the channel and sets flag 2, beside the flags that they have met.

Where the spec leaves a point open, the statement takes the model's reading: log entries 26, 61 and 119. -/
def Obligations.CopyFormsReachTheirChannel : Prop :=
  ∀ (s : State) (ch : BitVec 2) (d a : XReg) (b : SrcB) (q : CopyCmd),
    let c := s.cur.core
    let here := s.chan c ch.toNat
    let flags := Map.get 0 s.me.drains ch.toNat
    let other := Map.get 0 s.me.drainsNext ch.toNat
    let done : Prop := (s.performed c s.cur.strand fun x => x.before s.cur.entry) = true
    let quiet := fun t => s.headDone t ∧ s.keepsBut t [.tokens] ∧ s.sameBytes t
    let B := (s.qb 0 b).toNat
    let B1 := (s.qb 1 b).toNat
    let A := (s.cap 0).toNat
    (∀ p ∈ [(Instr.cpy ch b, 0, s.qb 0 b), (.cpym ch a b, 1, s.qb 2 b), (.cpyg ch a b, 2, s.qb 2 b)],
      done → s.headCmd p.2.1 p.2.2 = .ok q → here.queue.length < 16 →
        (q.sb ≠ none ∨ s.sbRange c q = none ∨ (s.core c).sbFree ≠ none) → Runs p.1 s fun t =>
          quiet t ∧ ∃ r : CopyCmd, (t.chan c ch.toNat).queue = here.queue ++ [r] ∧
            { r with id := q.id, bundle := q.bundle, seq := q.seq, sb := q.sb, since := q.since } = q ∧
            r.bundle = s.cur.entry.bundle ∧ r.seq = s.cur.entry.seq) ∧
    ((match s.cur.entry.cover with
        | none => ∀ x ∈ here.queue, x.chain ≠ none ∧ x.begun = false
        | some l => ∀ x ∈ here.queue, x.id ∉ l) → Runs (.drain d ch) s fun t =>
      s.headFrame t [.x] ∧ s.xOnly t d (flags ||| if s.cur.entry.cover = none then other else 0) ∧
        Map.get 0 t.me.drains ch.toNat = (if s.cur.entry.cover = none then 0 else other) ∧ Map.get 0 t.me.drainsNext ch.toNat = 0) ∧
    (∀ l, s.cur.entry.cover = some l → (∃ x ∈ here.queue, x.id ∈ l) → Runs (.drain d ch) s fun t =>
      s.keepsBut t [] ∧ s.sameBytes t ∧ s.stays t fun e => { e with cover := some l }) ∧
    (A % 128 = 0 → B1 < 16 → A + 128 * (B1 + 1) ≤ 2 ^ 20 → (∀ x ∈ here.queue, x.chain = none) → done →
      Runs (.chlink ch a b) s fun t => quiet t ∧ (t.chan c ch.toNat).linked = true ∧ (t.chan c ch.toNat).base = A ∧
        (t.chan c ch.toNat).n = B1 ∧ (t.chan c ch.toNat).next = 0 ∧ (t.chan c ch.toNat).queue = here.queue) ∧
    (¬ (A % 128 = 0 ∧ B1 < 16 ∧ A + 128 * (B1 + 1) ≤ 2 ^ 20) → exec (.chlink ch a b) s = .next (s.raiseHead 0x64 0)) ∧
    (B < 2 ^ 32 → Runs (.chkick ch b) s fun t => quiet t ∧ (t.chan c ch.toNat).credit = min (here.credit + B) (2 ^ 32 - 1)) ∧
    (2 ^ 32 ≤ B → exec (.chkick ch b) s = .next (s.raiseHead 0x64 0)) ∧
    (Runs (.sbq d b) s fun t => s.headFrame t [.x] ∧ s.xOnly t d (BitVec.ofNat 64
      (((List.range 8).map fun i => if Map.has s.myCore.sb i then 2 ^ i else 0).sum +
        if s.myCore.sb.any (fun p => decide (p.2.lo ≤ B % 2 ^ 20) && decide (B % 2 ^ 20 ≤ p.2.hi)) then 256 else 0))) ∧
    ∀ p ∈ [(Instr.ccan0, 0), (.ccan1, 1), (.ccan2, 2), (.ccan3, 3)], Runs p.1 s fun t =>
      s.headDone t ∧ s.keepsBut t [.tokens] ∧
        (∀ x ∈ (t.chan c p.2).queue, x.strand = s.cur.strand → x.detached = true) ∧
        (let f := Map.get 0 s.me.drains p.2
         let g := Map.get 0 t.me.drains p.2
         f &&& g = f ∧ if ∃ x ∈ (s.chan c p.2).queue, x.strand = s.cur.strand ∧ x.detached = false then g.getLsbD 2 = true else g = f)

/-- R353, R355: a tmb form whose line translates for writing sends its request with its operands, slot and line to the slice;
tmb.rlx and tmb.rel leave EA, the others stay at its head; tmb.rel waits for its release. R401, R403, R404: fwin writes its item to x[d];
famo sends its request with the operand at its width and fsig its signal, and both leave EA; R407, R408: coll with a legal descriptor
reads its source, adds its contribution, and stays until the collective ends; it waits while a link that it would send on is
stopped (R397), and ends with 0x86 where it cannot reach a participant (R413). Bad operands raise 0x80 and 0x81.

Where the spec leaves a point open, the statement takes the model's reading: log entries 15 and 16. -/
def Obligations.FabricAndSliceFormsSendTheirRequest : Prop :=
  ∀ (s u : State) (d a : XReg) (b : SrcB) (op : BitVec 4) (wide : Bool) (ls : List Loc),
    let P := s.cap 0
    let e := s.cur.entry
    let p := s.myPlace
    let done : Prop := (s.performed s.cur.core s.cur.strand fun x => x.before e) = true
    let quiet := fun t => s.headDone t ∧ s.keepsBut t [.tokens] ∧ t.cores = s.finish.cores
    let sent := fun (t : State) (form : Nat) => ∃ q : TmbReq, t.tmbs = u.tmbs ++ [q] ∧ q.form = form ∧ q.d = d.toNat ∧ q.ptr = P ∧
      q.o0 = s.cap 1 ∧ q.o1 = s.cap 2 ∧ q.slot = s.qb 3 b ∧ ls.head?.map Loc.addr = some q.line ∧ q.tenant = p.tenant ∧
      q.codeten = p.codeten ∧ q.core = s.cur.core ∧ q.strand = s.cur.strand
    let n := if wide then 8 else 4
    let desc := BitVec.ofNat 512 (leNat (s.spRead s.cur.core P.toNat 64))
    (s.flatAt s.cur.core p.tenant P e.tref 0 256 256 true true = (.ok ls, u) → ls ≠ [] → e.wait = none →
      (Runs (.tmbRlx d a b) s fun t => quiet t ∧ sent t 0x10) ∧ (done → Runs (.tmbRel d a b) s fun t => quiet t ∧ sent t 0x12) ∧
      ∀ q ∈ [(Instr.tmbAcq d a b, 0x11, False), (.tmbTRlx d a b, 0x14, False), (.tmbTAcq d a b, 0x15, False), (.tmbTRel d a b, 0x16, True)],
        (q.2.2 → done) → Runs q.1 s fun t => sent t q.2.1 ∧ s.keepsBut t [] ∧
          t.cores = (s.modHead fun e => { e with wait := some q.2.1 }).cores) ∧
    (∀ k, s.flatAt s.cur.core p.tenant P e.tref 0 256 256 true true = (.error k, u) → e.wait = none → done →
      ∀ i ∈ [Instr.tmbRlx d a b, .tmbAcq d a b, .tmbRel d a b, .tmbTRlx d a b, .tmbTAcq d a b, .tmbTRel d a b],
        exec i s = .next (u.raiseHead k P)) ∧
    (∀ v, s.fwinItem (s.qb 0 b).toNat = some v → Runs (.fwin d b) s fun t => s.headFrame t [.x] ∧ s.xOnly t d (BitVec.ofNat 64 v)) ∧
    (∀ i v, [s.rank, s.winSize, s.fab.winId.toNat + 2 ^ 16 * s.fab.epoch.toNat, s.reachable, s.me.colls, p.nc][i]? = some v ↔
      s.fwinItem i = some v) ∧
    (6 ≤ (s.qb 0 b).toNat → exec (.fwin d b) s = .next (s.raiseHead 0x80 0)) ∧
    (s.flatAt s.cur.core p.tenant P e.tref 0 n n true false = (.ok ls, u) → ls.any Loc.isHost = false →
      Runs (.famo op wide a b) s fun t => quiet t ∧ ∃ r : FabReq, t.fab.reqs = u.fab.reqs ++ [r] ∧ r.isSig = false ∧ r.op = op.toNat ∧
        r.width = n ∧ r.places = ls.map Loc.req ∧ r.amount.toNat = (s.qb 1 b).toNat % 2 ^ (8 * n) ∧ r.core = s.cur.core ∧
        r.strand = s.cur.strand ∧ r.tenant = p.tenant) ∧
    (sigOk P.toNat (s.qb 1 b).toNat p.nc = true → Runs (.fsig a b) s fun t => quiet t ∧ ∃ r : FabReq, t.fab.reqs = s.fab.reqs ++ [r] ∧
      r.isSig = true ∧ r.target = s.sigTarget p P ∧ r.amount = s.qb 1 b ∧ r.node = p.node ∧ r.core = s.cur.core ∧ r.strand = s.cur.strand) ∧
    (sigOk P.toNat (s.qb 1 b).toNat p.nc = false → exec (.fsig a b) s = .next (s.raiseHead 0x80 0)) ∧
    (e.wait = none → done → (P.toNat % 64 ≠ 0 ∨ 0xFFFC0 < P.toNat ∨ collOk desc p.nc = false) →
      exec (.coll d a) s = .next (s.raiseHead 0x81 0)) ∧
    (e.wait = none → done → P.toNat % 64 = 0 → P.toNat ≤ 0xFFFC0 → collOk desc p.nc = true →
      (∀ k ∈ s.others p, s.vcStopped k 2 = false) → Runs (.coll d a) s fun t =>
      s.keepsBut t [] ∧ s.sameBytes t ∧ (s.stays t fun e => { e with wait := some s.me.colls }) ∧
        ∃ q ∈ t.fab.colls, q.is p.node p.lin s.cur.strand s.me.colls = true ∧ Map.has q.contribs (s.participant p) = true ∧
          ((∃ k ∈ s.others p, k ∈ s.unreach) → q.cause = 0x86)) ∧
    (e.wait = none → done → P.toNat % 64 = 0 → P.toNat ≤ 0xFFFC0 → collOk desc p.nc = true →
      (∃ k ∈ s.others p, s.vcStopped k 2 = true) → exec (.coll d a) s = .next s)

/-- R441 to R443: qlaunch and qpatch issue, hold the next bundle, and act once their release is done; a load of the same bundle to
their register is what it keeps (R48). qlaunch in mode create raises 0x61 on a bad image, writes 0 where the node's entry is not
free, and else 1 with the node created, an empty one not behind what has been decremented in its sclk; in mode decrement it lowers
a waiting node, behind the completions of its sclk (R428), and writes 1, writes 0 for another state, and raises 0x61 outside its window; qpatch raises 0x62 on a bad image or another queue,
writes the packet, or writes 0 for a packet that is past.
R455, R464, R483: sstat writes the item of the bound stream, else 0x6E; R456: a legal encsub enters its stream's FIFO, its claim goes, and it
completes; an illegal one raises 0x6F.

Where the spec leaves a point open, the statement takes the model's reading: log entries 22, 80 and 101. -/
def Obligations.QueueAndStreamFormsReachTheFrontEnd : Prop :=
  ∀ (s : State) (d a : XReg) (b : SrcB) (sel : BitVec 6) (w A B : W64) (r n : Nat) (c : Claimed),
    let q := s.myPlace.queue
    let k := s.fq q
    let img := s.spImage A
    let raised := fun (cause : Nat) (v : W64) => s.raiseWaiting s.cur.core s.cur.strand cause v
    let quiet := fun t => s.headDone t ∧ s.keepsBut t [.tokens] ∧ s.sameBytes t
    let item := fun (x : Stream) =>
      [x.status, x.slack, x.release, x.deadline, BitVec.ofNat 64 (bitsAt (x.rungRec x.rung) 0 9 + 2 ^ 16 * bitsAt (x.rungRec x.rung) 16 34),
        BitVec.ofNat 64 (bitsAt (x.rungRec x.rung) 64 64), BitVec.ofNat 64 x.slot, x.encoded]
    (s.clean → (Runs (.qlaunch d a b) s fun t => s.seqFrame t [] ∧ t.me.wait = .qop false (s.lateDst d).toNat (s.x a) (s.b b)) ∧
      Runs (.qpatch d a b) s fun t => s.seqFrame t [] ∧ t.me.wait = .qop true (s.lateDst d).toNat (s.x a) (s.b b)) ∧
    ((s.performed s.cur.core s.cur.strand fun _ => true) = true → s.qopTry true r A B = s.unlessHeld (s.patchTry r A B) ∧
      s.qopTry false r A 0 = s.unlessHeld (s.launchCreate r A) ∧ s.qopTry false r A 1 = s.launchDec r A ∧
      (2 ≤ B.toNat → s.qopTry false r A B = raised 0x61 A)) ∧
    (imageOk A = false ∨ pktType img ≠ 1 ∨ nodePktOk img = false ∨ s.nodeAllowed q img = false →
      s.launchCreate r A = raised 0x61 A) ∧
    (imageOk A = true → pktType img = 1 → nodePktOk img = true → s.nodeAllowed q img = true →
      ((s.node (pf img 16 12)).st ≠ .free → s.launchCreate r A = s.qopDone r 0) ∧
      ((s.node (pf img 16 12)).st = .free → s.emptyHeld img = true → s.launchCreate r A = s) ∧
      ∀ y z, (s.node (pf img 16 12)).st = .free → s.emptyHeld img = false → s.createNode q img none = (.ok y, z) →
        s.launchCreate r A = y.qopDone r 1) ∧
    (s.inWindow k.fn A.toNat = true → A.toNat < 4096 →
      if s.mayServe unitNodes 1 = true ∧ s.emptyReady = false then
        ((s.node A.toNat).st = .waiting → s.launchDec r A = ((s.decrement A.toNat).servedAs unitNodes 1).qopDone r 1) ∧
        ((s.node A.toNat).st ≠ .waiting → s.launchDec r A = s.qopDone r 0)
      else s.launchDec r A = s) ∧
    (s.inWindow k.fn A.toNat = false ∨ 4096 ≤ A.toNat → s.launchDec r A = raised 0x61 A) ∧
    (imageOk A = false ∨ B.toNat / 2 ^ 32 ≠ q → s.patchTry r A B = raised 0x62 A) ∧
    (imageOk A = true → B.toNat / 2 ^ 32 = q → q < 2 ^ 10 → k.slots ≤ 2 ^ 31 →
      1 ≤ (k.consume + 2 ^ 32 - B.toNat % 2 ^ 32) % 2 ^ 32 → (k.consume + 2 ^ 32 - B.toNat % 2 ^ 32) % 2 ^ 32 ≤ 2 ^ 31 →
      s.patchTry r A B = s.qopDone r 0) ∧
    (imageOk A = true → B.toNat / 2 ^ 32 = q → q < 2 ^ 10 → (B.toNat % 2 ^ 32 + 2 ^ 32 - k.consume) % 2 ^ 32 < k.slots →
      ∀ y z, (s.patchPacket q (B.toNat % 2 ^ 32) img = (.ok y, z) → s.patchTry r A B = y.qopDone r 1) ∧
        ∀ n, s.patchPacket q (B.toNat % 2 ^ 32) img = (.error n, z) → s.patchTry r A B = z.raiseWaiting s.cur.core s.cur.strand n
          (BitVec.ofNat 64 (B.toNat % 2 ^ 32))) ∧
    (s.clean → ∀ i v, s.myStream = some n → sel.toNat = i → (item (s.stream n))[i]? = some v → Sets s (.sstat d sel) d v) ∧
    (sel.toNat ≤ 7 → s.myStream = none → exec (.sstat d sel) s = .next (s.issued.raiseAfter 0x6E 0)) ∧
    (7 < sel.toNat → exec (.sstat d sel) s = .next (s.issued.raiseAfter 0x01 0)) ∧
    (s.myStream = none → exec (.encsub a) s = .next (s.raiseHead 0x6E 0)) ∧
    (s.myStream = some n → (s.stream n).submission w.toNat = none → s.cap 0 = w → exec (.encsub a) s = .next (s.raiseHead 0x6F w)) ∧
    (s.myStream = some n → (s.stream n).submission (s.cap 0).toNat = some c → (s.stream n).fault = false →
      (s.performed s.cur.core s.cur.strand fun x => x.before s.cur.entry) = true →
      ((s.stream n).fifo.filter fun x => !x.picked).length < 8 → Runs (.encsub a) s fun t => quiet t ∧
        (∃ x : EncSub, (t.stream n).fifo = (s.stream n).fifo ++ [x] ∧ x.frame = c.frame ∧ x.slot = c.slot ∧ x.deadline = c.deadline) ∧
        c ∉ (t.stream n).claimed)

/-! ### Queues and packets -/

/-- R418, R420 to R425: the packet at the head of a queue whose thread runs takes its effect, and consume advances. NOP has none; NODE
creates its node where the entry is free, an empty one not behind what has been decremented in its sclk; DEC lowers each node that it
names, behind the completions of its sclk (R428); WAIT goes on when its word satisfies it and else blocks; SIGNAL waits for the queue's
nodes where it says so, and writes its word; FFENCE waits for a live node and drops what was read ahead; each packet with a bad field,
DEC of a node outside the window or not waiting, and an unknown type stop the queue with their error. A packet whose access waits for a stopped link does nothing yet (R397).

Where the spec leaves a point open, the statement takes the model's reading: log entries 66, 68, 69 and 70. -/
def Obligations.QueuePacketsTakeEffect : Prop :=
  ∀ (s u : State) (p : BitVec 512) (m : Nat),
    let q := s.arg.n
    let n := pf p 16 12
    let k := u.fq q
    let stops := fun (i : Instr) (code node : Nat) => exec i s = .next (u.packetError q code node)
    let goes := fun (i : Instr) (t : State) => (t.fe.linkHeld = false → exec i s = .next t) ∧ (t.fe.linkHeld = true → exec i s = .next s)
    s.headPacket q = (some (.ok p), u) → u.fe.linkHeld = false →
    ((∀ v : State, ((v.consumed q).fq q).consume = ((v.fq q).consume + 1) % 2 ^ 32 ∧ ((v.consumed q).fq q).run = none ∧
      (v.consumed q).fe.nodes = v.fe.nodes ∧ (v.consumed q).cores = v.cores ∧ (v.consumed q).host = v.host)) ∧
    (pktType p = 0 → goes .nop (u.consumed q)) ∧
    (pktType p = 1 → (nodePktOk p = false → stops .node 0x02 n) ∧
      (nodePktOk p = true → u.nodeAllowed q p = false → stops .node 0x04 n) ∧
      (nodePktOk p = true → u.nodeAllowed q p = true → (u.node n).st ≠ .free → stops .node 0x03 n) ∧
      (nodePktOk p = true → u.nodeAllowed q p = true → (u.node n).st = .free → u.emptyHeld p = true → exec .node s = .next u) ∧
      (nodePktOk p = true → u.nodeAllowed q p = true → (u.node n).st = .free → u.emptyHeld p = false → ∀ t v : State, u.createNode q p (some k.consume) = (.ok t, v) →
        goes .node (t.consumed q) ∧ (t.node n).pkt = p ∧ (t.node n).queue = q ∧ (t.node n).pred = pf p 32 16 ∧
          (t.node n).st = if pf p 32 16 = 0 then .ready else .waiting)) ∧
    (pktType p = 2 → (decPktOk p = false → stops .dec 0x02 0) ∧
      (∀ before after, decPktOk p = true → decNodes p = before ++ m :: after → (∀ j ∈ before, u.inWindow k.fn j = true) →
        u.inWindow k.fn m = false → stops .dec 0x04 m) ∧
      (∀ before after, decPktOk p = true → (∀ j ∈ decNodes p, u.inWindow k.fn j = true) → decNodes p = before ++ m :: after →
        (∀ j ∈ before, (u.node j).st = .waiting ∧ (decNodes p).count j ≤ (u.node j).pred) →
        ((u.node m).st ≠ .waiting ∨ (u.node m).pred < (decNodes p).count m) → stops .dec 0x05 m) ∧
      (decPktOk p = true → (∀ m ∈ decNodes p, u.inWindow k.fn m = true ∧ (u.node m).st = .waiting ∧ (decNodes p).count m ≤ (u.node m).pred) →
        let t := ((decNodes p).foldl State.decrement u).servedAs unitNodes 2
        (u.emptyReady = true → exec .dec s = .next u) ∧ (u.emptyReady = false → goes .dec (t.consumed q)) ∧ ∀ m, m ∈ decNodes p →
          (t.node m).pred = (u.node m).pred - (decNodes p).count m ∧
            (t.node m).st = if (u.node m).pred = (decNodes p).count m then .ready else .waiting)) ∧
    (pktType p = 3 → (waitPktOk p = false → stops .wait 0x02 0) ∧ (waitPktOk p = true → ∀ (w : W64) (v : State), u.waitWord q p = (.ok w, v) →
      (waitHolds p w = true → goes .wait (v.consumed q)) ∧
      (waitHolds p w = false → v.fe.linkHeld = false → Runs .wait s fun t =>
        (t.fq q).blocked = true ∧ (t.fq q).run = some p ∧ (t.fq q).consume = (v.fq q).consume))) ∧
    (pktType p = 4 → (pf p 10 54 ≠ 0 ∨ pf p 128 64 % 8 ≠ 0 ∨ pf p 256 256 ≠ 0) → stops .signal 0x02 0) ∧
    (pktType p = 4 → pf p 10 54 = 0 → pf p 128 64 % 8 = 0 → pf p 256 256 = 0 → pf p 8 1 = 1 → u.queueBusy q = true →
      exec .signal s = .next (u.holdPacket q p)) ∧
    (pktType p = 4 → pf p 10 54 = 0 → pf p 128 64 % 8 = 0 → pf p 256 256 = 0 → (pf p 8 1 = 0 ∨ u.queueBusy q = false) →
      ∀ v : State, u.portWrite k.tenant (w64 (pf p 64 64)) (pf p 128 64) (leBytes 8 (pf p 192 64)) = (.ok (), v) →
        goes .signal ((if pf p 9 1 = 1 then v.interrupt k.fn (k.f 192 11) else v).consumed q)) ∧
    (pktType p = 5 → (pf p 9 7 ≠ 0 ∨ pf p 28 484 ≠ 0) → stops .ffence 0x02 n) ∧
    (pktType p = 5 → pf p 9 7 = 0 → pf p 28 484 = 0 → pf p 8 1 = 1 → u.inWindow k.fn n = false → stops .ffence 0x04 n) ∧
    (pktType p = 5 → pf p 9 7 = 0 → pf p 28 484 = 0 →
      (pf p 8 1 = 1 → u.inWindow k.fn n = true → (u.node n).live = true → Runs .ffence s fun t =>
        (t.fq q).run = some p ∧ (t.fq q).consume = k.consume) ∧
      ((pf p 8 1 = 0 ∨ u.inWindow k.fn n = true ∧ (u.node n).live = false) →
        goes .ffence ((u.modQ q fun k => { k with pre := [] }).consumed q))) ∧
    (8 ≤ pktType p → stops .unknownPacketType 0x01 0)

/-- R417, R419, R420, R424, R440: a submission write ahead of the latched index latches it and makes the queue pending; firmware maps the
first pending queue on a free thread, taking the latched index; a blocked WAIT of a mapped queue goes on when its word satisfies
it; enable is set, where the queue's tenant is valid, and a reset clears the queue's control bits and indices, frees its waiting, ready
and error nodes and leaves the others to run on, and reaches the entries forwarded to other chips; the front end may read packets ahead,
up to 64 (R421); the reset of a virtual function
resets its queues; a queue error stops the queue once, with its code. In the recovery state the host reaches none of this (R467).

Where the spec leaves a point open, the statement takes the model's reading: log entries 71, 72, 75, 76, 108 and 115. -/
def Obligations.QueuesAreSubmittedMappedAndReset : Prop :=
  ∀ (s u : State) (q : Nat) (p : BitVec 512) (w : W64),
    let P := s.arg.word.toNat % 2 ^ 32
    let k := s.fq q
    (s.mg.recovery = false → s.queueOfReg s.arg.m s.arg.n = some q → (P + 2 ^ 32 - k.latched) % 2 ^ 32 ≠ 0 → (P + 2 ^ 32 - k.latched) % 2 ^ 32 < 2 ^ 31 →
      (P + 2 ^ 32 - k.consume) % 2 ^ 32 ≤ k.slots → Runs .submissionWrite s fun t =>
        (t.fq q).latched = P ∧ (t.fq q).pending = true ∧ (t.fq q).consume = k.consume ∧ ∀ r, r ≠ q → t.fq r = s.fq r) ∧
    (s.arg.flag = true → Runs .queueMap s fun t => t.fe.nodes = s.fe.nodes ∧ t.cores = s.cores ∧ (∀ r, r ≠ s.arg.n → t.fq r = s.fq r) ∧
      (t.fq s.arg.n).cb = (s.fq s.arg.n).cb ∧ (t.fq s.arg.n).taken = (s.fq s.arg.n).taken ∧
      ∃ more, (t.fq s.arg.n).pre = (s.fq s.arg.n).pre ++ more ∧ more.length ≤ 64 ∧ ∀ x ∈ more, x.patches = []) ∧
    (s.arg.flag = false → s.fe.up = true → s.mapNext = some q → (s.fe.queues.filter fun p => p.2.mapped).length < 32 → Runs .queueMap s fun t =>
      (t.fq q).mapped = true ∧ (t.fq q).blocked = false ∧ (t.fq q).pending = false ∧ (t.fq q).taken.toNat = k.latched ∧
        ∀ r, r ≠ q → t.fq r = s.fq r) ∧
    ((s.fq s.arg.n).run = some p → (s.fq s.arg.n).blocked = true → (s.fq s.arg.n).enabled = true → (s.fq s.arg.n).stopped = false →
      (s.fq s.arg.n).mapped = true → s.fe.up = true → s.waitWord s.arg.n p = (.ok w, u) → waitHolds p w = true →
      u.fe.linkHeld = false → s.arg.k = 0 → Runs .waitSatisfied s fun t => (t.fq s.arg.n).blocked = false ∧ (t.fq s.arg.n).run = none ∧
        (t.fq s.arg.n).consume = ((u.fq s.arg.n).consume + 1) % 2 ^ 32) ∧
    (s.arg.n < 1024 → s.mg.recovery = false → s.tenantValid (s.fq s.arg.n).tenant = true → Runs .queueEnable s fun t =>
      (t.fq s.arg.n).enabled = true ∧ ∀ r, r ≠ s.arg.n → t.fq r = s.fq r) ∧
    (s.arg.flag = true → Runs .queueReset s fun t => t.fe.queues = s.fe.queues ∧
      ∀ m, t.node m = if (s.node m).remote = true ∧ m ∈ s.arg.nats then (s.node m).queueReset else s.node m) ∧
    (s.arg.flag = false → s.arg.n < 1024 → s.mg.recovery = false → Runs .queueReset s fun t => (t.fq s.arg.n).enabled = false ∧ (t.fq s.arg.n).stopped = false ∧
      (t.fq s.arg.n).consume = 0 ∧ (t.fq s.arg.n).latched = 0 ∧ (t.fq s.arg.n).pending = false ∧
        ∀ m, Map.has s.fe.nodes m = true → (s.node m).queue = s.arg.n → (s.node m).remote = false →
          if (s.node m).st = .placing ∨ (s.node m).st = .running then t.node m = { s.node m with orphan := true } else (t.node m).st = .free) ∧
    (s.mg.recovery = true → s.arg.flag = false → exec .submissionWrite s = .next s ∧ exec .queueEnable s = .next s ∧ exec .queueReset s = .next s) ∧
    (0 < s.arg.n → s.arg.n < 64 → s.mg.recovery = false → Runs .functionLevelReset s fun t =>
      ∀ r, Map.has s.fe.queues r = true → (s.fq r).fn = s.arg.n → (t.fq r).enabled = false ∧ (t.fq r).consume = 0) ∧
    (∀ code pkt node, k.stopped = false → code < 256 → pkt < 2 ^ 32 → node < 2 ^ 12 → (k.fn = 0 ∨ k.f 192 11 < 64) →
      ((s.queueError q code pkt node).fq q).stopped = true ∧ ((s.queueError q code pkt node).fq q).f 8 8 = code ∧
        ((s.queueError q code pkt node).fq q).f 288 32 = pkt ∧ ((s.queueError q code pkt node).fq q).f 320 12 = node ∧
        (s.queueError q code pkt node).fe.vectors = s.fe.vectors ++ [(k.fn, k.f 192 11)]) ∧
    (∀ code pkt node, k.stopped = true → s.queueError q code pkt node = s)

/-- R32, R113, R417, R436, R467, R471, R476, R477: host accesses. A write of a tensor of a tenant stores its bytes at their places;
a read changes no byte; a failing one does nothing to them; a write to host memory lands there. A register write changes the RW
bits of a partition record or of a disabled queue's control block, the mailbox's command area, or in recovery the staging SRAM; a function record
takes its RW fields, or keeps the old with error 1 where its window is bad. A read of a virtual function gives telemetry, its submission
registers, and 0 elsewhere; one of the physical function, the records and control blocks too; in recovery, of the temperature alone.

Where the spec leaves a point open, the statement takes the model's reading: log entries 33, 65, 73, 74, 108 and 115. -/
def Obligations.HostAccessesReachTheirRegister : Prop :=
  ∀ (s u : State) (ls : List Loc),
    let a := s.arg
    let n := a.n
    let last := n + a.bytes.length
    let f := a.n
    let r := BitVec.ofNat 512 (a.block.toNat % 2 + 2 ^ 16 * (a.block.toNat / 2 ^ 16 % 2 ^ 25))
    (a.k = 1 → Runs .hostLinkAccess s fun t => t.cores = s.cores ∧ (∀ x, t.locGet (.dev x) = s.locGet (.dev x)) ∧
      (∀ c x, t.locGet (.peer c x) = s.locGet (.peer c x)) ∧ ∀ x, Mem.get t.host x =
        if a.word.toNat ≤ x ∧ x < a.word.toNat + a.bytes.length then a.bytes.getD (x - a.word.toNat) 0 else Mem.get s.host x) ∧
    (a.k ≠ 1 → s.mg.dataUp = true → a.flag = true → s.hostSpan a.m a.word a.ints a.bytes.length true = (some ls, u) → ls.Nodup →
      ls.length = a.bytes.length → Runs .hostLinkAccess s fun t =>
        (∀ i, i < ls.length → ∀ l, ls[i]? = some l → t.locGet l = a.bytes.getD i 0) ∧ ∀ l, l ∉ ls → t.locGet l = u.locGet l) ∧
    (a.k ≠ 1 → s.mg.dataUp = true → a.flag = false → s.hostSpan a.m a.word a.ints a.n false = (some ls, u) →
      Runs .hostLinkAccess s fun t => (∀ l, t.locGet l = u.locGet l) ∧
        ((ls.any u.locPoisoned = true ∧ u.bbFrozen = false) → ∃ e : BBEvent, t.blackBox.getLast? = some e ∧ e.kind = 4 ∧ e.cause = 0xA6)) ∧
    (a.k ≠ 1 → s.mg.dataUp = true → a.flag = true → s.hostSpan a.m a.word a.ints a.bytes.length true = (none, u) →
      exec .hostLinkAccess s = .next u) ∧
    (a.mbox = .host → s.mg.recovery = false → 0x2000 ≤ n → last ≤ 0x2200 → n % 32 + a.bytes.length ≤ 32 → Runs .registerWrite s fun t =>
      ∀ p i, i < 256 → (Map.get 0 t.fe.parts p).getLsbD i =
        if p = (n - 0x2000) / 32 ∧ 8 * (n % 32) ≤ i ∧ i < 8 * (n % 32 + a.bytes.length) ∧ partRw.getLsbD i = true
        then (a.bytes.getD (i / 8 - n % 32) 0).getLsbD (i % 8) else (Map.get 0 s.fe.parts p).getLsbD i) ∧
    (a.mbox = .host → s.mg.recovery = false → 0x8000 ≤ n → last ≤ 0x8100 → Runs .registerWrite s fun t =>
      t.mg.host.cmd = Mem.write s.mg.host.cmd (n - 0x8000) a.bytes) ∧
    (a.mbox = .host → s.mg.recovery = false → 0x20000 ≤ n → last ≤ 0x40000 → n % 128 + a.bytes.length ≤ 128 →
      (s.fq ((n - 0x20000) / 128)).enabled = false → Runs .registerWrite s fun t =>
        ∀ i, i < 1024 → (t.fq ((n - 0x20000) / 128)).cb.getLsbD i =
          if 8 * (n % 128) ≤ i ∧ i < 8 * (n % 128 + a.bytes.length) ∧ queueRw.getLsbD i = true
          then (a.bytes.getD (i / 8 - n % 128) 0).getLsbD (i % 8) else (s.fq ((n - 0x20000) / 128)).cb.getLsbD i) ∧
    (a.mbox = .recovery → s.mg.recovery = true → a.flag = true → last ≤ 2 ^ 22 → Runs .registerWrite s fun t =>
      t.mg.staging = Mem.write s.mg.staging n a.bytes) ∧
    (f < 64 → s.mg.recovery = false → s.windowBad f r = false → (∀ q ∈ s.fe.queues, q.2.fn ≠ f ∨ q.2.enabled = false) → Runs .functionRecordWrite s fun t =>
      t.fnRec f = r ∧ ∀ g, g ≠ f → t.fnRec g = s.fnRec g) ∧
    (f < 64 → s.mg.recovery = false → s.windowBad f r = true → Runs .functionRecordWrite s fun t =>
      t.fnRec f = s.fnRec f ||| 2 ∧ ∀ g, g ≠ f → t.fnRec g = s.fnRec g) ∧
    (∀ fn off, s.mg.recovery = false →
      (off < 0x200 → s.bar0 fn off = byteAt (s.telemetry (off / 8)).toNat (off % 8)) ∧
      (0x10000 ≤ off → off < 0x12000 → s.bar0 fn off = byteAt (s.submissionReg fn ((off - 0x10000) / 8)) (off % 8)) ∧
      (fn ≠ 0 → 0x200 ≤ off → (off < 0x10000 ∨ 0x12000 ≤ off) → s.bar0 fn off = 0) ∧
      (0x2000 ≤ off → off < 0x2200 → s.bar0 0 off = byteAt (Map.get 0 s.fe.parts ((off - 0x2000) / 32)).toNat (off % 32)) ∧
      (0x20000 ≤ off → off < 0x40000 → s.bar0 0 off = byteAt (s.fq ((off - 0x20000) / 128)).cb.toNat (off % 128))) ∧
    ∀ fn off, s.mg.recovery = true → off / 8 ≠ 3 → s.bar0 fn off = 0

/-! ### Nodes, deadline issue and streams -/

/-- R120, R427, R428, R430 to R432, R435, R437: an empty node that is ready completes; a refused one enters error behind its record;
another is checked. The arbiter goes through the free cores in ascending order, at most 8 placements in an sclk: where a node can be
placed on a core, the first such node in key order has its lowest unplaced placement put on that core. Such a node is one of the core's
partition, whose group is not held for another and has no pre-emption under way or saved group due; one whose frame would start behind a
FRAME or an sstat of its sclk is passed over (R454). It asks for a pre-emption where the rules of R437 hold. A completion record of a
source's oldest is taken, ahead of what qlaunch and DEC do in its sclk: a retirement counts, and only the first record of a terminated
placement does. A node's entry from another chip is entered ready in a free index; the report of one forwarded is struck off, and with
the last the node completes.

Where the spec leaves a point open, the statement takes the model's reading: log entries 1, 35, 77, 78 and 100. -/
def Obligations.NodesAreCheckedPlacedAndCounted : Prop :=
  ∀ (s u : State) (g k : Nat) (m : Nat),
    let n := s.arg.n
    let e := s.node n
    let fits := fun (v : State) (c i : Nat) => v.partHas (v.node i).part (groupOf c) = true ∧ v.heldFrom (v.node i).part (groupOf c) = false ∧
      v.startHeld (v.node i) = false
    let after := fun (l : List Nat) => l.foldl placeNext (s.dropHolds, s.placedNow)
    (e.st = .ready → e.checked = false → e.kref = 0 → exec .nodeReadyCheck s = .next (s.completeNode n)) ∧
    (∀ v, e.st = .ready → e.checked = false → e.kref ≠ 0 → s.nodeCheck e = (some v, u) → e.remote = false → u.fe.linkHeld = false →
      Runs .nodeReadyCheck s fun t => (t.node n).st = .error ∧
        t.fe.recs = u.fe.recs ++ [{ src := srcFront, data := recData 5 0 n 0 false 0 0 (BitVec.ofNat 64 v) }]) ∧
    (e.st = .ready → e.checked = false → e.kref ≠ 0 → s.nodeCheck e = (none, u) → u.fe.linkHeld = false → Runs .nodeReadyCheck s fun t =>
      (t.node n).checked = true ∧ (t.node n).total = u.placementsOf e ∧
        (t.node n).st = (if u.placementsOf e = 0 then .running else .ready) ∧ ∀ j, j ≠ n → t.node j = u.node j) ∧
    (s.mg.dataUp = false → exec .arbiterPlace s = .next s) ∧
    (s.mg.dataUp = true → Runs .arbiterPlace s fun t =>
      (∀ before after' c, s.freeCores = before ++ c :: after' → (after before).2 < 8 →
        ((after before).1.choice c = none → (t.core c).place = none) ∧
        ∀ i, (after before).1.choice c = some i → (after (before ++ [c])).2 = (after before).2 + 1 ∧ ∃ p : Placement,
          (t.core c).place = some p ∧ p.node = i ∧ p.lin = ((after before).1.node i).placed ∧ p.lin < (t.node i).placed ∧
            p.tenant = (s.node i).tenant ∧ p.kd = (s.node i).kd ∧ p.started = false) ∧
      (∀ c p, (s.core c).place = some p → (t.core c).place = some p) ∧
        (∀ c, (t.core c).place ≠ (s.core c).place → s.coreFree c = true ∧ ∃ p : Placement, (t.core c).place = some p ∧ p.started = false ∧
          s.partHas (s.node p.node).part (groupOf c) = true ∧ (s.node p.node).placed ≤ p.lin) ∧
        ((List.range 1024).filter fun c => (t.core c).place != (s.core c).place).length ≤ 8 - s.placedNow) ∧
    ((∃ i, s.placeable (s.node i) = true ∧ Map.has s.fe.nodes i = true) → ∀ c, c ∈ s.freeCores ↔ c < 1024 ∧ s.coreFree c = true) ∧
    (∀ (v : State) (c i : Nat), v.choice c = some i ↔
      (∀ p ∈ v.fe.preempts, p.group ≠ groupOf c) ∧ (∀ sv ∈ v.saved, v.canResume sv (groupOf c) = false) ∧
        ∃ ahead behind, v.keyOrder = ahead ++ i :: behind ∧ fits v c i ∧ ∀ j ∈ ahead, ¬ fits v c j) ∧
    (s.keyOrder.Pairwise fun i j => keyLt (s.key j) (s.key i) = false) ∧
    (∀ i, i ∈ s.keyOrder ↔ ∃ x, (i, x) ∈ s.fe.nodes ∧ s.placeable x = true) ∧
    (s.keyOrder.find? (fun i => (s.node i).part == n) = some m → (List.range (s.partF n 192 16)).find? (s.slotFree n) = some k →
      s.victim n = some g → s.mg.dataUp = true → n < 16 → s.partF n 67 1 = 1 → s.slack (s.node m) < sval 32 (s.partF n 96 32) →
      ((List.range 1024).any fun c => s.partHas n (groupOf c) && s.coreFree c) = false → (∀ p ∈ s.fe.preempts, p.part ≠ n) →
      Runs .preemptionDecision s fun t => t.fe.preempts = s.fe.preempts ++ [{ part := n, group := g, slot := k }] ∧ t.cores = s.cores) ∧
    (∀ r, s.fe.up = true → s.mayServe unitNodes 0 = true → s.fe.recs[n]? = some r → ((s.fe.recs.take n).any fun q => q.src == r.src) = false →
      r.data.toNat % 16 = 1 → ∀ j, j = bitsAt r.data.toNat 12 12 → (s.node j).st = .running → (s.node j).retired + 1 < (s.node j).placed →
      Runs .completionRecord s fun t => t.fe.recs = s.fe.recs.eraseIdx n ∧ (t.node j).retired = (s.node j).retired + 1 ∧
        (t.node j).st = .running ∧ ∀ i, i ≠ j → t.node i = s.node i) ∧
    (∀ r, s.fe.up = true → s.mayServe unitNodes 0 = true → s.fe.recs[n]? = some r → ((s.fe.recs.take n).any fun q => q.src == r.src) = false →
      r.data.toNat % 16 = 2 → r.first = false → Runs .completionRecord s fun t => t.fe.recs = s.fe.recs.eraseIdx n ∧ t.fe.nodes = s.fe.nodes) ∧
    (s.arg.flag = false → (s.node (n % 4096)).st = .free → s.fe.up = true → s.emptyHeld (BitVec.ofNat 512 s.arg.block.toNat) = true →
      exec .nodeForward s = .next s) ∧
    (s.arg.flag = false → (s.node (n % 4096)).st = .free → s.fe.up = true → s.emptyHeld (BitVec.ofNat 512 s.arg.block.toNat) = false →
      Runs .nodeForward s fun t =>
      (t.node (n % 4096)).st = .ready ∧ (t.node (n % 4096)).remote = true ∧ (t.node (n % 4096)).arrival = s.time ∧
        (t.node (n % 4096)).pkt = BitVec.ofNat 512 s.arg.block.toNat ∧ t.cores = s.cores) ∧
    (s.arg.k ∈ e.forwards → s.mayServe unitNodes 0 = true → e.st = .running → e.placed ≤ e.retired → e.failed = false →
      e.forwards.filter (fun j => j != s.arg.k) = [] → exec .forwardedEntryComplete s =
        .next (((s.servedAs unitNodes 0).modNode n fun e => { e with forwards := [] }).completeNode n)) ∧
    (s.arg.k ∈ e.forwards → s.mayServe unitNodes 0 = true → e.st = .placing → e.retired < e.placed → Runs .forwardedEntryComplete s fun t =>
      (t.node n).forwards = e.forwards.filter (fun j => j != s.arg.k) ∧ (t.node n).st = .placing ∧ ∀ j, j ≠ n → t.node j = s.node j)

/-- R446, R447, R452: STREAM packets set up, stop and release anchors of their stream, write their result word, and advance; a stop waits
for the stream's submissions, and for the sclk after an sstat where it has a frame to evaluate; anchors outlive a set-up; FRAME begins a frame of the stream bound to its queue, waits for its release, and claims the tail slot
of the frame ring, from which the frame is current, with its release and deadline; a ring that cannot be reached stops the queue. A packet whose access waits for a stopped link does
nothing yet (R397).

Where the spec leaves a point open, the statement takes the model's reading: log entries 79, 81 and 84. -/
def Obligations.StreamPacketsDriveTheirStream : Prop :=
  ∀ (s u v : State) (p : BitVec 512) (n : Nat),
    let q := s.arg.n
    let k := u.fq q
    let goes := fun (i : Instr) (t : State) => (t.fe.linkHeld = false → exec i s = .next t) ∧ (t.fe.linkHeld = true → exec i s = .next s)
    (s.headPacket q = (some (.ok p), u) → u.fe.linkHeld = false →
      (pktType p = 6 → pf p 10 6 = 0 → pf p 22 10 = 0 → pf p 40 24 = 0 → pf p 160 32 = 0 → pf p 288 224 = 0 → pf p 256 32 % 8 = 0 →
        k.fn = 0 → (∃ l, u.portSpan k.tenant (w64 (pf p 192 64)) (pf p 256 32) 8 true = (.ok l, v)) →
        (pf p 8 2 = 0 → pf p 128 32 % 64 = 0 → ∀ (bs : List Byte) (w : State),
          v.portRead (v.fq q).tenant (w64 (pf p 64 64)) (pf p 128 32) 256 = (.ok bs, w) →
            goes .streamSetup ((w.setup (pf p 16 6) (BitVec.ofNat 2048 (leNat bs))).2.streamResult q p
              (w.setup (pf p 16 6) (BitVec.ofNat 2048 (leNat bs))).1)) ∧
        (pf p 8 2 = 1 → (v.stream (pf p 16 6)).active = false → goes .streamStop (v.streamResult q p 1)) ∧
        (pf p 8 2 = 1 → (v.stream (pf p 16 6)).active = true →
          ((v.stream (pf p 16 6)).fifo ≠ [] ∨ (v.stream (pf p 16 6)).judged = false ∧ v.seenBy (pf p 16 6) = true) →
          goes .streamStop (v.holdPacket q p)) ∧
        (pf p 8 2 = 1 → (v.stream (pf p 16 6)).active = true → (v.stream (pf p 16 6)).fifo = [] →
          ((v.stream (pf p 16 6)).judged = true ∨ v.seenBy (pf p 16 6) = false) → goes .streamStop ((v.stopStream (pf p 16 6)).streamResult q p 0)) ∧
        (pf p 8 2 = 2 → (v.stream (pf p 16 6)).active = true → ∃ w : State,
          goes .streamReleaseAnchors (w.streamResult q p 0) ∧
            (w.stream (pf p 16 6)).anchors = (v.stream (pf p 16 6)).anchors &&& ~~~(BitVec.ofNat 8 (pf p 32 8)))) ∧
      (pktType p = 7 → k.framing = 0 → pf p 8 8 = 0 → pf p 22 490 = 0 → pf p 16 6 = n → u.boundStream q = some n →
        u.mayServe (unitStream n) 1 = true → u.seenBy n = false → Runs .frame s fun t =>
        (t.stream n).frame = (u.stream n).frame + 1 ∧ (t.fq q).framing = 1 ∧ (t.fq q).run = some p ∧ (t.fq q).consume = k.consume) ∧
      (pktType p = 7 → k.framing = 0 → pf p 8 8 = 0 → pf p 22 490 = 0 → pf p 16 6 = n → u.boundStream q = some n → u.seenBy n = true →
        exec .frame s = .next u)) ∧
    (∀ desc, (v.setup n desc).1 = 0 → let x := (v.setup n desc).2.stream n
      x.active = true ∧ x.desc = desc ∧ x.anchors = (v.stream n).anchors ∧ x.rung = bitsAt desc.toNat 22 3 ∧ x.frame = 0 ∧ x.fifo = []) ∧
    ((v.stopStream n).stream n).active = false ∧
    (∀ r nm, s.boundStream q = some n → (s.fq q).framing = 2 → s.threadRuns q = true → s.frameRing (s.stream n) = (.ok nm, u) →
      (u.ring nm).ask { core := n, agent := 9, claims := true } 0 = (none, r) → exec .frameSlotClaim s = .next (u.setRing nm r)) ∧
    (∀ c, s.boundStream q = some n → (s.fq q).framing = 2 → s.threadRuns q = true → s.frameRing (s.stream n) = (.error c, u) →
      exec .frameSlotClaim s = .next (u.packetError q 0x09 0)) ∧
    (s.boundStream q = some n → (s.fq q).framing = 1 → (s.stream n).releaseAt ((s.stream n).frame - 1) ≤ s.time.toNat →
      Runs .frameRelease s fun t => (t.fq q).framing = 2 ∧ t.streams = s.streams) ∧
    (∀ j r nm, s.boundStream q = some n → (s.fq q).framing = 2 → s.threadRuns q = true → s.frameRing (s.stream n) = (.ok nm, u) →
      (u.ring nm).ask { core := n, agent := 9, claims := true } 0 = (some j, r) → Runs .frameSlotClaim s fun t =>
        let x := t.stream n
        x.cur = some ((s.stream n).frame - 1) ∧ x.slot = j ∧ x.started = false ∧ x.judged = false ∧
          x.claimed = (s.stream n).claimed ++ [{ slot := j, frame := (s.stream n).frame - 1, deadline := x.deadline }] ∧
          x.release = BitVec.ofNat 64 ((s.stream n).releaseAt ((s.stream n).frame - 1)) ∧
          x.deadline = x.release + BitVec.ofNat 64 ((s.stream n).f 64 32) ∧ (t.fq q).framing = 0 ∧
          (t.fq q).consume = ((s.fq q).consume + 1) % 2 ^ 32)

/-- R453, R457, R458, R460: the ladder drops one rung on a late frame, to the last at most, and climbs one when the on-time run reaches the
stream's climb; what sstat shows changes only where the frame is current. An encoder takes the head slot for the submission of the
earliest deadline, reads the samples of its frame, and codes it; a coded frame is published with its header and padding, the producer
count last, its slot is released, and a record follows. A slot that is not the submission's, and a poisoned frame, end the stream.

Where the spec leaves a point open, the statement takes the model's reading: log entries 79, 81, 82, 83, 91 and 111. -/
def Obligations.StreamsAreJudgedAndEncoded : Prop :=
  ∀ (s u1 u2 u : State) (x : Stream) (n f j prod cons : Nat) (r : Ring) (nm : RingName) (ls ws : List Nat),
    let e := s.arg.n
    let y := s.stream n
    let q := y.first
    let ref := w64 (y.f 384 64)
    let out := y.f 448 32
    let size := 64 * ceilDiv (32 + q.pay.length) 64
    let osize := y.f 480 32
    let pad := if osize < prod % osize + size then osize - prod % osize else 0
    let late := decide (q.deadline.toNat < s.time.toNat)
    let head := fun (pay flags : Nat) => recordHeader pay q.frame n flags q.rung s.time
    let flags := natOf q.asKey + 2 * natOf late + 8 * bitsAt (y.rungRec q.rung) 8 1
    let here := out + (prod % osize + pad) % osize
    let coded := fun (late : Bool) =>
      ({ src := srcEncoder y.enc, data := recData 8 0 n y.enc late 0 0 (w64 (q.frame % 2 ^ 32 + 2 ^ 32 * natOf q.asKey + 2 ^ 33 * (q.rung % 8))) } : CompRec)
    let writes := (if pad = 0 then [] else [(out + prod % osize, head (pad - 32) 4)]) ++
      [(here + 32, q.pay), (here, head q.pay.length flags), (out + osize, leBytes 8 (prod + pad + size))]
    (x.rung < x.nrungs → let y := x.judge f true;
      y.rung = min (x.rung + 1) (x.nrungs - 1) ∧ y.run = 0 ∧
        (x.cur = some f → y.frung = x.rung ∧ y.late = true ∧ y.climb = false ∧ y.drop = decide (x.rung + 1 < x.nrungs))) ∧
    (let y := x.judge f false;
      (if x.climbAt ≤ min (x.run + 1) 15 ∧ 0 < x.rung then y.rung + 1 = x.rung ∧ y.run = 0 else y.rung = x.rung ∧ y.run = min (x.run + 1) 15) ∧
        (x.cur = some f → y.frung = x.rung ∧ y.late = false ∧ y.drop = false ∧ (y.climb = true ↔ x.climbAt ≤ min (x.run + 1) 15 ∧ 0 < x.rung))) ∧
    (∀ late, let y := x.judge f late;
      (y.judged = true ↔ x.judged = true ∨ f = x.frame - 1) ∧
        (x.cur ≠ some f → y.frung = x.frung ∧ y.late = x.late ∧ y.drop = x.drop ∧ y.climb = x.climb)) ∧
    (s.encoderPick e = some n → y.fifo ≠ [] → q.taken = false → s.frameRing y = (.ok nm, u) →
      (u.ring nm).ask { core := n, agent := 10, claims := false } 0 = (some j, r) → let v := u.setFrameRing y nm r;
      (j ≠ q.slot → Runs .encoderTakeSlot s fun t => (t.stream n).fault = true ∧ (t.stream n).fifo = []) ∧
      (j = q.slot → v.frameLines y = (.ok ls, u1) →
        u1.lineNos y.tenant (w64 (y.f 512 64)) (y.f 576 32) (ceilDiv (y.f 608 32) 256) = (.ok ws, u2) →
        let bad := u2.poison.any fun k => (ls ++ ws).contains (k / 4)
        (bad = true → Runs .encoderTakeSlot s fun t => (t.stream n).fault = true ∧ (t.stream n).fifo = []) ∧
        (bad = false → Runs .encoderTakeSlot s fun t => (∀ m, m ≠ n → t.stream m = s.stream m) ∧
          let z := (t.stream n).first
          z.taken = true ∧ z.frame = q.frame ∧ z.asKey = y.keyFrame ∧ z.pay = Config.codedFrame u2.free (y.f 13 2) (y.rungRec q.rung) y.keyFrame
            q.frame (u2.frameSamples y ls) (((ws.flatMap fun a => (List.range 256).map fun i => u2.devGet (256 * a + i))).take (y.f 608 32))))) ∧
    (s.encoderPick e = some n → q.taken = true → s.portNat y.tenant ref (out + osize) = (.ok prod, u1) →
      u1.portNat y.tenant ref (out + osize + 8) = (.ok cons, u2) →
      u.fe.linkHeld = false →
      (¬ osize < (prod + 2 ^ 64 - cons) % 2 ^ 64 + pad + size → u2.ringWrites y.tenant ref writes = (none, u) →
        exec .encoderRecordPublish s = .next (u.encodedFrame n late)) ∧
      (osize < (prod + 2 ^ 64 - cons) % 2 ^ 64 + pad + size → exec .encoderRecordPublish s = .next s)) ∧
    (∀ late, ((s.encodedFrame n late).stream n).encoded = y.encoded + 1 ∧ ((s.encodedFrame n late).stream n).fifo = y.fifo.tail ∧
      (s.encodedFrame n late).fe.recs = s.fe.recs ++ [coded late] ∧
      ((s.frameCounted n).frameRing y = (.ok nm, u) → (u.ring nm).release q.slot = some r →
        ((s.encodedFrame n late).ring nm).slot q.slot = 0))

/-! ### Copies, slices and the attention engine, at work -/

/-- R290, R297, R298: the first command of a channel that has not begun begins, behind at most three others, once each counter of its
wmask is at least 1, and takes 1 from each. R303: a gather skips an entry of all ones with flag 8, stops at a bad one with 0x67 and its
index, and lands a good block at its place, where no link that it needs is stopped (R397). R309, R310: a linked channel with credit takes its next entry, or unlinks where it is not good.

Where the spec leaves a point open, the statement takes the model's reading: log entries 21 and 119. -/
def Obligations.CopyCommandsBeginAndFetch : Prop :=
  ∀ (s : State) (q : CopyCmd),
    let c := s.arg.core
    let ch := s.arg.ch
    let k := s.chan c ch
    let mask := if q.again then 0 else tWmask q.tmpl
    let entry := leNat (s.spRead c (q.list.toNat % 2 ^ 20 + 4 * q.gnext) 4)
    let same := fun (t : State) (f : CopyCmd → Prop) => ∀ x ∈ (t.chan c ch).queue, x.id = q.id → f x
    ((∀ x ∈ k.queue, x.waited = false) → k.queue.find? (fun x => !x.begun) = some q → (k.queue.filter fun x => x.begun).length < 4 →
      (∀ r, r < 16 → mask.testBit r = true → 1 ≤ ((s.strand c q.strand).re r).toNat) → Runs .copyBegin s fun t =>
        same t (fun x => x.begun = true) ∧ (t.chan c ch).queue.length = k.queue.length ∧ ∀ r, r < 16 →
          (t.strand c q.strand).re r = (s.strand c q.strand).re r - if mask.testBit r then 1 else 0) ∧
    (k.queue.find? (fun x => x.begun && x.kind == 2 && decide (x.gnext < x.count) && !x.detached) = some q →
      (entry = 0xFFFFFFFF → Runs .gatherBlockBegin s fun t => (t.chan c ch).queue = k.queue.map fun x =>
        if x.id = q.id then { x with flags := x.flags ||| 8, gnext := x.gnext + 1 } else x) ∧
      (entry ≠ 0xFFFFFFFF → s.gatherOk q entry = false → Runs .gatherBlockBegin s fun t => (t.chan c ch).queue = k.queue.map fun x =>
        if x.id = q.id then { x with flags := x.flags ||| 16, fault := some (x.fault.getD (0x67, w64 x.gnext)), gnext := x.count } else x) ∧
      (entry ≠ 0xFFFFFFFF → s.gatherOk q entry = true → tRmode q.tmpl = 0 → (∀ l, s.placeHeld l = false) → Runs .gatherBlockBegin s fun t =>
        same t fun x => x.lands.getLast? = some { core := c, base := tSpbase q.tmpl + q.gnext * tGstride q.tmpl, block := q.gnext })) ∧
    (let t1 := BitVec.ofNat 1024 (leNat (s.spRead c (k.base + 128 * k.next) 128))
      let good := templateOk t1 = true ∧ (tRmode t1 = 1 ∨ tRmode t1 = 2) ∧ tf t1 768 3 ≤ 4 ∧ s.boxCheck c t1 1 0 = none
      k.linked = true → 0 < k.credit → (∀ x ∈ k.queue, x.chain = none ∨ x.begun = true) → k.queue.length < 16 →
      (good → Runs .chainEntryFetch s fun t => (t.chan c ch).credit = k.credit - 1 ∧ (t.chan c ch).next = (k.next + 1) % (k.n + 1) ∧
        (t.chan c ch).queue.length = k.queue.length + 1 ∧ ∃ x : CopyCmd, (t.chan c ch).queue.getLast? = some x ∧ x.chain = some k.next ∧ x.begun = false) ∧
      (¬ good → (s.strand c k.strand).hasExited = false → Runs .chainEntryFetch s fun t =>
        (t.chan c ch).linked = false ∧ (t.chan c ch).credit = 0))

/-- R215, R291, R297, R302: a landing begins at its receiver by taking its slot from claimed to filling, or is dropped; elements of its box
that are still to be read are read first (R109, R295, R471); it completes by writing its bytes there, in one turn or a part in each of several (R110), and filling its slot with the last of them. R298, R299, R304, R311: the first
command of a channel, all landed and its moves made, in an sclk in which its arrival may come (R252), leaves the channel and adds its flags to its strand's, for the drain that covers it or
a later one; without a fault it adds 1 to each counter of its smask and makes its barrier arrival, whose refusal is a record with 0x6D;
a fault is reported against its strand.

Where the spec leaves a point open, the statement takes the model's reading: log entries 30 and 119. -/
def Obligations.CopyCommandsLandAndComplete : Prop :=
  ∀ (s u : State) (q : CopyCmd) (l : Landing) (m : Moved),
    let c := s.arg.core
    let ch := s.arg.ch
    let rid := tRid q.tmpl
    let st := s.strand c q.strand
    let covered := match st.draining ch with
      | none => true
      | some l => l.contains q.id
    (s.cmd? c ch s.arg.n = some q → (q.kind ≠ 1 ∨ q.nb.toNat ≤ s.cyc) → q.detached = false →
      q.lands.find? (fun x => x.core == s.arg.m && x.block == s.arg.k) = some l → l.begun = false →
      (q.kind = 2 → ∀ x ∈ q.lands, x.begun = false → l.block ≤ x.block) →
      (s.landRefusal q l = none → Runs .landingBegin s fun t =>
        (∀ k, l.slot = some k → (t.ring (.local l.core rid)).slot k = 2) ∧ ∃ x : CopyCmd, t.cmd? c ch s.arg.n = some x ∧
          ∃ y ∈ x.lands, y.core = l.core ∧ y.slot = l.slot ∧ y.begun = true) ∧
      (∀ k, s.landRefusal q l = some k → k ≠ 0x6B → Runs .landingBegin s fun t => ∃ x : CopyCmd, t.cmd? c ch s.arg.n = some x ∧
        l ∉ x.lands ∧ x.refused ≠ none ∧ x.flags = q.flags ||| 16)) ∧
    (s.cmd? c ch s.arg.n = some q → q.detached = false → q.lands.find? (fun x => x.begun) = some l → q.todo ≠ [] → Runs .landingComplete s fun t =>
      s.sameBytes t ∧ ∃ (x : CopyCmd) (pick : Loc → Bool), t.cmd? c ch s.arg.n = some x ∧ x.lands = q.lands ∧
        x.todo = q.todo.filter (fun e => !pick e.2.1) ∧ (∀ p ∈ q.box, p ∈ x.box) ∧
        (∀ p ∈ x.box, p ∈ q.box ∨ ∃ e ∈ q.todo, pick e.2.1 = true ∧ p = (e.1, s.locRead e.2.1 e.2.2)) ∧
        (s.poison = [] → s.peerPoison = [] → s.checks = [] → x.fault = q.fault ∧ x.todo.length + x.box.length = q.todo.length + q.box.length)) ∧
    (s.cmd? c ch s.arg.n = some q → q.detached = false → q.lands.find? (fun x => x.begun) = some l → q.todo = [] → Runs .landingComplete s fun t =>
      (∀ k, l.slot = some k → (t.ring (.local l.core rid)).slot k = if wholeTurn s.free then 3 else (s.ring (.local l.core rid)).slot k) ∧
        (∀ a, (∀ p ∈ q.bytesOf l, a < l.base + p.1 ∨ l.base + p.1 + p.2.length ≤ a) → Mem.get (t.core l.core).sp a = Mem.get (s.core l.core).sp a) ∧
        ∀ p ∈ q.bytesOf l, (∀ r ∈ q.bytesOf l, r = p ∨ r.1 + r.2.length ≤ p.1 ∨ p.1 + p.2.length ≤ r.1) →
          ∀ i, i < p.2.length → let b := Mem.get (t.core l.core).sp (l.base + p.1 + i)
            b = p.2.getD i 0 ∨ (wholeTurn s.free = true → l.half ≠ []) ∧ b = Mem.get (s.core l.core).sp (l.base + p.1 + i)) ∧
    ((s.chan c ch).queue.head? = some q → q.landedAll = true → ¬ (tRmode q.tmpl = 2 ∧ q.slot = none) → q.detached = false →
      ¬ (tf q.tmpl 616 1 = 1 ∧ s.remoteHeld = true) →
      s.lastMoves c q (turnPart s.free q.half) (decide (tDir q.tmpl = 0) || wholeTurn s.free) = (m, u) → m.held = false → Runs .copyComplete s fun t =>
        if tDir q.tmpl = 0 ∨ wholeTurn s.free = true then
          (∃ v : State, (v.chan c ch).queue = (s.chan c ch).queue.filter (fun x => x.id ≠ q.id) ∧
            Map.get 0 (v.strand c q.strand).drains ch = Map.get 0 st.drains ch ||| (if covered then m.flags else 0) ∧
            Map.get 0 (v.strand c q.strand).drainsNext ch = Map.get 0 st.drainsNext ch ||| (if covered then 0 else m.flags) ∧
            (∀ k w, m.fault = some (k, w) → t = v.reportTo c q.strand q.node k q.bundle w q.seq) ∧
            (∀ j k w, m.fault = none → q.refused = some (j, k, w) → t = v.reportTo c q.strand q.node k q.bundle w q.seq) ∧
            (m.fault = none → q.refused = none → t = (v.postSignals c q.strand (tSmask q.tmpl)).postArrival c ch q))
        else (t.chan c ch).queue = (s.chan c ch).queue.map fun x =>
          if x.id = q.id then { x with half := s.free :: x.half, flags := m.flags, fault := m.fault } else x) ∧
    (∀ mask, ((∀ r, r < 16 → ((s.postSignals c q.strand mask).strand c q.strand).re r = st.re r + if mask.testBit r then 1 else 0) ∧
      (s.postSignals c q.strand mask).chan c ch = s.chan c ch ∧ s.sameBytes (s.postSignals c q.strand mask))) ∧
    (tf q.tmpl 616 1 = 0 → s.postArrival c ch q = s) ∧
    (∀ v, tf q.tmpl 616 1 = 1 → s.remoteArrival (tf q.tmpl 608 8) q.node = (true, v) → s.postArrival c ch q = v) ∧
    (∀ v, tf q.tmpl 616 1 = 1 → s.remoteArrival (tf q.tmpl 608 8) q.node = (false, v) → ∃ d : BitVec 128,
      s.postArrival c ch q = v.placeRec (srcChan c ch) d ∧ bitsAt d.toNat 0 12 = 6 + 16 * 0x6D ∧ bitsAt d.toNat 12 12 = q.node % 4096)

/-- R219, R343, R344: a line that is not pinned, has no waiter, and holds no ring while a pre-emption is under way leaves L2, its bytes
written back. R345, R347, R350, R353, R356, R471: a good routine is installed in its home slice, which holds at most 16; in its turn a routine runs
on its line, of which the bytes that it wrote change where it completes, and makes the tile dirty like a store (R277, R351); on a poisoned
line it faults with 0xA6; the result and status reach x[d] and x[d+1]. R374 to R377, R381, R386, R387: the attention engine begins the oldest
request and folds its blocks, of which a list skips entries of all ones; it writes the rows that result, and the pairs that the request
asks for, in one turn or a part in each of several (R110), and its result element follows in order, behind the last of them.

Where the spec leaves a point open, the statement takes the model's reading: log entries 30, 32, 42, 57, 58 and 112. -/
def Obligations.SlicesAndAttentionEnginesWork : Prop :=
  ∀ (s u : State) (q : TmbReq) (rt : Routine) (x : Nat) (res st : W64) (a : EngCmd) (rest : List EngCmd) (run : AttnRun),
    let n := s.arg.n
    let l := s.line n
    let e := sliceGo (rtnWord rt.code.toNat) q.o0 q.o1 24
    let r : Routine := { tenant := q.tenant, index := bitsAt q.codeten.toNat 0 20, gen := bitsAt q.codeten.toNat 30 14
                         off := q.rtnoff, slot := q.slot.toNat, node := q.node, code := BitVec.ofNat 1024 x }
    let g := s.group n
    let rows := fun (q : BitVec 1024) => List.replicate (aRows q + 1) { v := List.replicate (aHd q) 0 : FoldRow }
    let pos := fun (i : Nat) => leNat (s.spRead a.core (qf0 a.data 512 20 + 4 * i) 4)
    let R := run.cmd.data
    let part := decide (qf0 R 3 1 = 1)
    let words := run.rows.zipIdx.flatMap fun p =>
      ((p.1.out part).zipIdx.map fun x => (qf0 R 384 20 + p.2 * qf0 R 416 16 + 4 * x.2, x.1)) ++
        if part then [(qf0 R 448 20 + 8 * p.2, p.1.ms.1), (qf0 R 448 20 + 8 * p.2 + 4, p.1.ms.2)] else []
    (Map.has s.l2 n = true → l.pins = [] → Map.get [] s.gwait (256 * n) = [] →
      (Map.has s.gwait (256 * n) = false ∨ s.saved = [] ∧ s.fe.preempts = []) → Runs .sectorEviction s fun t =>
      Map.has t.l2 n = false ∧ ∀ b, t.devGet b = s.devGet b) ∧
    (s.tmbs[n]? = some q → q.ran = none → (s.routines q).any (fun r => r.is q) = false → q.slot.toNat < 64 → q.rtnoff % 128 = 0 →
      s.routineRead q = (.ok x, u) → u.fe.linkHeld = false → rtnCheck x = none → Runs .routineInstall s fun t =>
        t.routines q = (r :: u.routines q).take 16 ∧ t.tmbs = u.tmbs) ∧
    (s.tmbs[n]? = some q → (s.routines q).find? (fun r => r.is q) = some rt → q.ran = none → s.tmbBehind n q = false → q.dead = false →
      s.mayServe (unitSlice (q.line / 256)) q.rank = true → q.line % 256 = 0 →
      let ready := (s.servedAs (unitSlice (q.line / 256)) q.rank).flatStored (tcOf q.core) q.tenant q.tref (ptrCoord q.ptr : Int) 1
      (s.poison = [] → s.checks = [] → Runs .tmbRoutineRun s fun t =>
        ∃ d : BitVec 2048, (∀ i, i < 256 → d.extractLsb' (8 * i) 8 = ready.devGet (q.line + i)) ∧
        let z := e { data := d }
        t.tmbs[n]? = some { q with ran := some (z.result, z.status), fault := none } ∧
          ∀ b, t.devGet b = if z.outcome = 0 ∧ b / 256 = q.line / 256 ∧ z.run.mask.getLsbD (b % 256) = true
            then z.run.data.extractLsb' (8 * (b % 256)) 8 else ready.devGet b) ∧
      ((∃ k, k < 4 ∧ s.poisoned (q.line + 64 * k) = true) → Runs .tmbRoutineRun s fun t =>
        (∃ v, t.tmbs[n]? = some { q with ran := some (0, v), fault := some (0xA6, 0) } ∧ v.toNat % 2 ^ 16 = 0x402) ∧ ∀ b, t.devGet b = ready.devGet b)) ∧
    (s.tmbs[n]? = some q → q.ran = some (res, st) → q.dead = false → q.fault = none → q.form < 0x14 → q.form ≠ 0x11 → q.d < 63 →
      Runs .tmbResultReturn s fun t => t.tmbs = s.tmbs.eraseIdx n ∧ ∀ r, (t.strand q.core q.strand).rx r =
        if r = q.d + 1 then st else if r = q.d ∧ r ≠ 0 then res else (s.strand q.core q.strand).rx r) ∧
    (g.attnRun = none → g.attnIn = a :: rest → g.attnOut.length < 64 → (∀ l, s.placeHeld l = false) → Runs .attentionRequestBegin s fun t =>
      (t.group n).attnIn = rest ∧ (t.group n).attnOut = g.attnOut ∧ ∃ b : AttnRun, (t.group n).attnRun = some b ∧ b.cmd = a ∧
        (∀ k v, s.attnCheck a.core a.tenant a.data = some (k, v) → b.fault = some (k, v) ∧ b.folded = 0) ∧
        (s.attnCheck a.core a.tenant a.data = none → b.fault = none → b.folded + b.skipped = attnBlocks a.data) ∧
        (s.attnCheck a.core a.tenant a.data = none → aStaged a.data = true → attnBlocks a.data = 1 → b.fault = none ∧ b.rows =
          if pos 0 = 0xFFFFFFFF then rows a.data
          else s.foldBlock a.core a.data (s.queryRows a.core a.data) (rows a.data) (s.stagedBlock a.core a.data 0) (64 * pos 0))) ∧
    (∀ qs i, run.fault = none → aListed a.data = true → (pos i = 0xFFFFFFFF → s.attnBlock a qs run i = ({ run with skipped := run.skipped + 1 }, s)) ∧
      (pos i ≠ 0xFFFFFFFF → aStaged a.data = true → s.attnBlock a qs run i = ({ run with
        folded := run.folded + 1, rows := s.foldBlock a.core a.data qs run.rows (s.stagedBlock a.core a.data i) (64 * pos i) }, s)) ∧
      (pos i ≠ 0xFFFFFFFF → aStaged a.data = false → s.kvReach (w64 (qf0 a.data 64 64)) (pos i) = false →
        s.attnBlock a qs run i = ({ run with fault := some (0x7A, w64 (pos i)) }, s))) ∧
    (g.attnRun = some run → run.cmd.detached = false → run.fault = none → bitsAt run.cmd.data.toNat 20 2 = 0 →
      Runs .attentionRequestComplete s fun t => (t.group n).attnIn = g.attnIn ∧ s.sameMemory t ∧
        (wholeTurn s.free = true → run.half = [] →
          (t.core run.cmd.core).sp = words.foldl (fun m w => Mem.write m w.1 (leBytes 4 w.2.toNat)) (s.core run.cmd.core).sp) ∧
        (∀ b, Mem.get (t.core run.cmd.core).sp b = Mem.get (s.core run.cmd.core).sp b ∨
          ∃ w ∈ words, w.1 ≤ b ∧ b < w.1 + 4 ∧ Mem.get (t.core run.cmd.core).sp b = (leBytes 4 w.2.toNat).getD (b - w.1) 0) ∧
        (∀ c, c ≠ run.cmd.core → (t.core c).sp = (s.core c).sp) ∧
        if wholeTurn s.free = true then (t.group n).attnRun = none ∧
          ∃ o : ResElem, (t.group n).attnOut = g.attnOut ++ [o] ∧ o.core = run.cmd.core ∧ o.strand = run.cmd.strand ∧ o.tag = run.cmd.tag ∧
            bitsAt o.data.toNat 0 16 = 0 ∧ bitsAt o.data.toNat 16 16 = run.folded % 65536
        else (t.group n).attnOut = g.attnOut ∧
          (t.group n).attnRun = some { run with half := s.free :: run.half, cmd := { run.cmd with slot := none } }) ∧
    (∀ k v, g.attnRun = some run → run.cmd.detached = false → run.fault = some (k, v) → (s.strand run.cmd.core run.cmd.strand).hasExited = false →
      Runs .attentionRequestComplete s fun t => (t.group n).attnRun = none ∧ s.sameBytes t ∧
        ∃ o : ResElem, (t.group n).attnOut = g.attnOut ++ [o] ∧ bitsAt o.data.toNat 0 2 = 1 ∧ bitsAt o.data.toNat 8 8 = k % 256)

/-! ### The fabric at work -/

/-- R8, R395, R397, R398, R399, R403: a port counts the resends of a flit, at most eight, until one succeeds; a port whose flit has failed eight
goes down, the epoch advances in a formed window, and a rank left without a usable path is unreachable: the collectives that it takes part
in end with 0x86, and so do those of two other ranks whose path has failed; a stopped virtual channel goes on when told, and the responses
that waited for it leave; TIME is to be slewed by what a timing message of a formed window tells, up to 250 ns; an access of a peer chip
that is admitted writes its bytes under its tenant's key, or leaves every byte, and one that is not admitted waits. A famo, with those of
its kind that the fabric has combined it with, is applied at its home in one access, its store making the tile dirty (R277); one of a peer
chip, once admitted, under its tenant's key; poisoned bytes are not written (R471; log entry 116, the model's choice).

Where the spec leaves a point open, the statement takes the model's reading: log entries 41, 65, 98 and 105. -/
def Obligations.FabricLinksAndHomesWork : Prop :=
  ∀ (s : State) (r : FabReq),
    let a := s.arg
    let n := a.n
    let k := Map.get 0 s.fab.resends n
    let lost := s.ranksOn n
    let ls := r.places.map reqLoc
    let picked := n :: a.nats.filter fun i => match s.fab.reqs[i]? with
      | some x => i != n && r.combines x
      | none => false
    let all := (s.fab.reqs.zipIdx.filter fun p => picked.contains p.2).map Prod.fst
    let amount := fun (l : List Nat) => match l with
      | x :: xs => xs.foldl (famoOp r.op (8 * r.width)) x
      | [] => 0
    let home := (List.range n).map fun i => Loc.dev (a.word.toNat + i)
    let v := s.flatStored (tcOf r.core) r.tenant r.tref (ptrCoord r.ptr : Int) r.width
    let diff : Int := (a.word.toNat : Int) - (s.time.toNat : Int)
    let w := a.bytes.length
    let here : Loc → Bool := fun l => match l with
      | .dev x => decide (a.word.toNat ≤ x) && decide (x < a.word.toNat + w)
      | _ => false
    (n < 64 → n ∉ s.fab.down → a.flag = false → k < 8 → Runs .linkFlitResend s fun t =>
      Map.get 0 t.fab.resends n = k + 1 ∧ ∀ m, m ≠ n → Map.get 0 t.fab.resends m = Map.get 0 s.fab.resends m) ∧
    (n < 64 → n ∉ s.fab.down → a.flag = true → Runs .linkFlitResend s fun t => Map.get 0 t.fab.resends n = 0) ∧
    (a.flag = false → 8 ≤ k → n ∉ s.fab.down → Runs .linkDown s fun t => ∃ u : State, t = u.failPaths lost ∧
      u.fab.down = s.fab.down ++ [n] ∧ u.fab.epoch = (if s.fab.formed then s.fab.epoch + 1 else s.fab.epoch) ∧
        (∀ m ∈ lost, (a.nats[m]? = none → m ∈ u.unreach)) ∧ (∀ m ∈ s.unreach, m ∈ u.unreach) ∧
        ∀ m, m < 64 → m ∉ lost → u.fab.routes.getD m 0 = s.fab.routes.getD m 0) ∧
    (∀ ranks, s.fab.reqs = [] → s.failPaths ranks = { s with fab := { s.fab with colls := s.fab.colls.map fun q =>
      if (∃ m ∈ ranks, m < (s.node q.node).shape.chips.getD 0) ∧ q.half = [] then { q with cause := 0x86 } else q } }) ∧
    (a.flag = true → a.k = 1 → a.m ≠ s.rank → n ≠ s.rank → a.m ≠ n → Runs .linkDown s fun t => t.fab.colls = s.fab.colls.map fun q =>
      if max a.m n < (s.node q.node).shape.chips.getD 0 ∧ q.half = [] then { q with cause := 0x86 } else q) ∧
    (n < 64 → a.k < 4 → Runs .flowStop s fun t => (n, a.k) ∈ t.fab.stopped ∧ (∀ p ∈ s.fab.stopped, p ∈ t.fab.stopped)) ∧
    (Runs .flowGo s fun t => (n, a.k) ∉ t.fab.stopped ∧ (∀ p ∈ s.fab.stopped, p = (n, a.k) ∨ p ∈ t.fab.stopped) ∧
      ∀ p, p ∈ t.fab.resps ↔ p ∈ s.fab.resps ∧ ¬ (a.k = 1 ∧ s.portOf p.1 = n)) ∧
    (Runs .timingMessage s fun t => t = if s.fab.formed ∧ diff.natAbs ≤ 250 then { s with fab := { s.fab with slew := diff } } else s) ∧
    (a.k ≠ 1 → s.admits a.pos = true → a.word.toNat + w ≤ mgmtBase → Map.has s.keys a.m = true → Runs .remoteAccessHome s fun t =>
      (a.flag = false → ∀ l, t.locGet l = s.locGet l) ∧
        (a.flag = true → ∀ l, t.locGet l = if here l = true then a.bytes.getD (l.addr - a.word.toNat) 0 else s.locGet l)) ∧
    (a.k ≠ 1 → s.admits a.pos = true → Map.has s.keys a.m = false → exec .remoteAccessHome s = .next (s.respond a.pos)) ∧
    (a.k ≠ 1 → s.admits a.pos = false → exec .remoteAccessHome s = .next s) ∧
    (a.k = 1 → a.flag = false → a.m ≠ s.rank → a.m < 64 → Runs .remoteAccessHome s fun t => (∀ x, t.locGet (.dev x) = s.locGet (.dev x)) ∧
      ∀ c x, t.locGet (.peer c x) = if c = a.m ∧ a.word.toNat ≤ x ∧ x < a.word.toNat + w then a.bytes.getD (x - a.word.toNat) 0
        else s.locGet (.peer c x)) ∧
    (∀ m, s.vcStopped m 1 = false → s.respond m = s) ∧
    (a.flag = false → s.fab.reqs[n]? = some r → r.isSig = false → (∀ x ∈ all, s.famoBehind n picked x = false) → s.flowHeld r.touch = false →
      ls.findSome? (fun l => s.peerFault r.tenant l) = none →
      (s.famoSpoilt ls = false → ls.Nodup → ls.length = r.width → (r.width = 4 ∨ r.width = 8) →
        Runs .famoApply s fun t => t.fab.reqs = (s.fab.reqs.zipIdx.filter fun p => !picked.contains p.2).map Prod.fst ∧
          (∀ l, l ∉ ls → t.locGet l = v.locGet l) ∧
          leNat (ls.map t.locGet) = famoOp r.op (8 * r.width) (leNat (ls.map v.locGet)) (amount (all.map fun x => x.amount.toNat)) % 2 ^ (8 * r.width) ∧
          (a.nats = [] → t.fab.reqs = s.fab.reqs.eraseIdx n ∧ all = [r])) ∧
      (s.famoSpoilt ls = true → all = [r] → r.dead = false → (s.strand r.core r.strand).hasExited = false → Runs .famoApply s fun t =>
        t.fab.reqs = (s.fab.reqs.zipIdx.filter fun p => !picked.contains p.2).map Prod.fst ∧ ∀ l, t.locGet l = s.locGet l)) ∧
    (a.flag = true → (n = 4 ∨ n = 8) → a.word.toNat % n = 0 → a.word.toNat + n ≤ mgmtBase → a.k ≤ 9 → s.admits a.pos = true →
      Map.has s.keys a.m = true → s.famoSpoilt home = false → Runs .famoApply s fun t =>
        (∀ l, l ∉ home → t.locGet l = s.locGet l) ∧
          leNat (home.map t.locGet) = famoOp a.k (8 * n) (leNat (home.map s.locGet)) (leNat (a.bytes.take n)) % 2 ^ (8 * n)) ∧
    (a.flag = true → (n = 4 ∨ n = 8) → a.word.toNat % n = 0 → a.word.toNat + n ≤ mgmtBase → a.k ≤ 9 → s.admits a.pos = true →
      Map.has s.keys a.m = false → exec .famoApply s = .next (s.respond a.pos))

/-- R404, R405, R406: a signal to this chip, the oldest of its strand, adds its amount to the counter it names, and goes. R408, R411, R412, R413: a
rank's contribution joins its collective; once every rank has contributed alike, the result is written to the destination, in one turn or a
part in each of several (R110), and with the last of it the status word of outcome 0 reaches x[d] and the status block, and coll leaves EA.
The result of a gather is every contribution in rank order, that of a sum of I32 elements their sum modulo 2^32 (R409, R411).
Contributions that differ, or one that a participant that has retired never made, end the collective with 0x83 in the status block, with
no other byte written. R414: one that has not completed 65 536 clk after a request ends its node with 0x88.

Where the spec leaves a point open, the statement takes the model's reading: log entries 15, 16, 17, 30, 98 and 114. -/
def Obligations.SignalsAndCollectivesArrive : Prop :=
  ∀ (s : State) (r : FabReq) (q : Coll) (e : Entry) (es : List Entry) (c : Nat) (d : BitVec 512) (bs : List Byte),
    let a := s.arg
    let w := r.target.toNat
    let p := s.placement q.core
    let st := s.strand q.core q.hw
    let status := fun k => collStatus k p.nc q.k
    let root := rootWrites d ((List.range p.nc).map fun r => (Map.get (0, []) q.contribs r).2)
    let block := (bitsAt d.toNat 224 20, leBytes 8 (status 0).toNat ++ leBytes 8 root.2.1 ++ leBytes 8 root.2.2 ++ leBytes 8 0)
    let sp := fun (t : State) => (t.core q.core).sp
    let dst := BitVec.ofNat 6 (fld e.word.toNat 18 6)
    (a.k ≠ 1 → s.fab.reqs[a.n]? = some r → r.isSig = true → bitsAt w 16 6 = s.rank → bitsAt w 6 1 = 0 → s.vcStopped s.rank 0 = false →
      ((s.fab.reqs.take a.n).any fun x => x.isSig && x.core == r.core && x.strand == r.strand && bitsAt x.target.toNat 16 6 == s.rank) = false →
      s.coreOfPlace r.node (bitsAt w 24 32) = some c → bitsAt w 4 2 < (s.placement c).nstrands → Runs .fsigApply s fun t =>
        t.fab.reqs = s.fab.reqs.eraseIdx a.n ∧ ∀ k, (t.strand c (bitsAt w 4 2)).re k =
          (s.strand c (bitsAt w 4 2)).re k + if k = bitsAt w 0 4 then r.amount.truncate 16 else 0) ∧
    (a.n < (s.node a.m).shape.chips.getD 0 → a.n ≠ s.rank → (s.node a.m).st ≠ .free → a.flag = false →
      (∀ x ∈ s.fab.colls, x.is a.m a.pos a.strand a.k = true → Map.has x.contribs a.n = false) → Runs .collContributionMerge s fun t =>
        ∃ x ∈ t.fab.colls, x.is a.m a.pos a.strand a.k = true ∧ Map.get (0, []) x.contribs a.n = (BitVec.ofNat 512 a.block.toNat, a.bytes)) ∧
    (a.n < (s.node a.m).shape.chips.getD 0 → a.n ≠ s.rank → (s.node a.m).st ≠ .free → a.flag = true → Runs .collContributionMerge s fun t =>
      ∀ x ∈ t.fab.colls, x.is a.m a.pos a.strand a.k = true → Map.has x.contribs a.n = false → x.half = [] → x.cause ≠ 0) ∧
    (s.fab.colls[a.n]? = some q → st.ea = e :: es → (q.contribs.find? fun x => x.1 == s.participant p) = some (s.participant p, d, bs) →
      s.collLate q = false → e.wait = some q.k → s.holdsNode q.core q.node = true → p.lin = q.place → q.hw = q.strand →
      (q.ends p.nc = some 0 → Runs .collComplete s fun t =>
        s.sameMemory t ∧ (∀ c, c ≠ q.core → t.core c = s.core c) ∧
        (∀ b, (wholeTurn s.free = true → b < block.1 ∨ block.1 + 32 ≤ b) → Mem.get (sp t) b = Mem.get (sp s) b ∨
          ∃ w ∈ root.1, w.1 ≤ b ∧ b < w.1 + w.2.length ∧ Mem.get (sp t) b = w.2.getD (b - w.1) 0) ∧
        if wholeTurn s.free = false then t.fab.colls = s.fab.colls.set a.n { q with half := s.free :: q.half } ∧
          (t.strand q.core q.hw).ea = st.ea ∧ ∀ n, (t.strand q.core q.hw).rx n = st.rx n
        else t.fab.colls = s.fab.colls.eraseIdx a.n ∧ (q.half = [] → sp t = (root.1 ++ [block]).foldl (fun m w => Mem.write m w.1 w.2) (sp s)) ∧
          leNat (Mem.read (sp t) block.1 8) = (status 0).toNat ∧ (t.strand q.core q.hw).colls = q.k + 1 ∧
          ((∀ x ∈ es, x.same e = false) → (t.strand q.core q.hw).ea = es) ∧
          ∀ n, (t.strand q.core q.hw).rx n = if n = dst.toNat ∧ n ≠ 0 then status 0 else st.rx n) ∧
      (q.ends p.nc = some 0x83 → st.trapped = false → Runs .collComplete s fun t =>
        t.fab.colls = s.fab.colls.eraseIdx a.n ∧ (t.strand q.core q.hw).trapped = true ∧
          (t.strand q.core q.hw).rec_.cause.toNat % 256 = 0x83 ∧ (t.strand q.core q.hw).rec_.val = status 0x83 ∧
          ∀ x, x < bitsAt d.toNat 224 20 ∨ bitsAt d.toNat 224 20 + 32 ≤ x → Mem.get (t.core q.core).sp x = Mem.get (s.core q.core).sp x)) ∧
    (∀ cs : List (List Byte), bitsAt d.toNat 0 2 = 2 → rootWrites d cs = ([(bitsAt d.toNat 96 20, cs.flatten)], 0, 0)) ∧
    (∀ (cs : List (List Byte)) (m : Nat), bitsAt d.toNat 0 2 = 0 → bitsAt d.toNat 2 2 = 1 → 0 < cs.length → cs.length ≤ 64 →
      (∀ x ∈ cs, x.length = 4 * m) → ∃ out : List Byte, rootWrites d cs = ([(bitsAt d.toNat 96 20, out)], 0, 0) ∧ out.length = 4 * m ∧
        ∀ i, i < m → leNat ((out.drop (4 * i)).take 4) = (cs.map fun x => leNat ((x.drop (4 * i)).take 4)).sum % 2 ^ 32) ∧
    (s.fab.colls[a.n]? = some q → (∃ x ∈ s.fe.preempts, x.asked = true ∧ x.group = groupOf q.core ∧ x.at_ + 65536 ≤ s.cyc) →
      st.ea = e :: es → e.wait = some q.k → s.holdsNode q.core q.node = true →
      exec .collPreemptTimeout s = .next (s.terminate q.node 0x88 0 none))

/-! ### The planes and the management plane -/

/-- R6, R7, R8, R18, R19, R20, R136, R465, R473: power-on clears the volatile state and starts TIME at 0, with a new device key in its slot, keeping boot flash and host memory; a
module reset keeps TIME; loss of power clears the black-box record too. The front end reports ready, and the data plane leaves reset with
CYC at 0; a firmware restart takes the latched indices again; an edge of clk, once what belongs to the clk that ends is done, and the
arbiter's decision of its sclk, advances CYC and shows every strand its counters; TIME advances alone, and of 10 000 counts one is doubled or left out while it is slewed.

Where the spec leaves a point open, the statement takes the model's reading: log entries 85, 86, 93, 94 and 105. -/
def Obligations.PlanesResetAndClocksAdvance : Prop :=
  ∀ s : State,
    let m := s.mg
    let cleared := fun (t : State) => t.cores = [] ∧ t.gddr = [] ∧ (∀ T, T ≠ 1024 → Map.has t.keys T = false) ∧ t.mg.dataUp = false ∧ t.mg.flash = m.flash ∧
      t.mg.floor = m.floor ∧ t.host = s.host ∧ t.peers = s.peers
    let booted := fun (t : State) => t.mg.up = true ∧ (t.fe.up = true ↔ t.mg.booted ≠ none) ∧ (t.mg.recovery = true ↔ t.mg.booted = none)
    (Runs .powerOnReset s fun t => cleared t ∧ booted t ∧ t.deviceKey = true ∧ t.time = 0) ∧
    (Runs .moduleReset s fun t => cleared t ∧ booted t ∧ t.deviceKey = true ∧ t.time = s.time ∧ t.bbFrozen = s.bbFrozen) ∧
    (Runs .lossOfPower s fun t => cleared t ∧ t.keys = [] ∧ t.mg.up = false ∧ t.blackBox = [] ∧ t.time = 0) ∧
    (m.up = true → s.fe.up = true → Runs .frontEndReady s fun t => t = { s with mg := { m with feReady := true } }) ∧
    (m.up = true → m.feReady = true → m.dataUp = false → Runs .dataPlaneRelease s fun t =>
      t.mg.dataUp = true ∧ t.cyc = 0 ∧ t.time = s.time ∧ t.cores = s.cores) ∧
    (m.booted ≠ none → s.fe.up = true → Runs .frontEndFirmwareRestart s fun t => t = { s with fe := { s.fe with up := false } }) ∧
    (m.booted ≠ none → s.fe.up = false → Runs .frontEndFirmwareRestart s fun t => t.fe.up = true ∧ t.fe.nodes = s.fe.nodes ∧
      ∀ q, (s.fq q).mapped = true → (t.fq q).taken.toNat = (s.fq q).latched ∧ (t.fq q).pending = false ∧ (t.fq q).consume = (s.fq q).consume) ∧
    (m.booted ≠ none → Runs .managementCoreReset s fun t => t = { s with mg := { m with up := !m.up } }) ∧
    (s.arg.flag = false → (s.clkDue = true ∨ s.emptyReady = true ∨ s.placeDue = true ∨ s.half = false ∧ s.placeLater = true) →
      exec .clkEdge s = .next s) ∧
    (s.arg.flag = true → (s.half = true ∨ s.emptyReady = true ∨ s.placeDue = true) → exec .clkEdge s = .next s) ∧
    (s.clkDue = false → s.emptyReady = false → s.placeDue = false → (s.half = true ∨ s.placeLater = false) → s.arg.flag = false → Runs .clkEdge s fun t =>
      t.cyc = s.cyc + 1 ∧ t.half = false ∧ t.tick = s.tick + (if s.half then 1 else 2) ∧ t.time = s.time ∧ ∀ c h r, (t.strand c h).re0 r = (s.strand c h).re r ∧ (t.strand c h).re r = (s.strand c h).re r) ∧
    (s.emptyReady = false → s.placeDue = false → s.arg.flag = true → s.half = false → Runs .clkEdge s fun t =>
      t.tick = s.tick + 1 ∧ t.half = true ∧ t.cyc = s.cyc ∧ t.cores = s.cores) ∧
    (s.fab.slew = 0 ∨ s.fab.slewAt < 9999 → Runs .timeAdvance s fun t =>
      t = { s with time := s.time + 1, fab := { s.fab with slewAt := s.fab.slewAt + 1 } }) ∧
    (s.fab.slew ≠ 0 → 9999 ≤ s.fab.slewAt → Runs .timeAdvance s fun t =>
      t.time = (if 0 < s.fab.slew then s.time + 2 else s.time) ∧ t.fab.slewAt = 0 ∧ t.fab.slew.natAbs + 1 = s.fab.slew.natAbs ∧
        t.cyc = s.cyc ∧ t.cores = s.cores)

/-- R6, R28, R470 to R473, R476, R481: a snapshot copies every telemetry register; errors are counted and a poisoned sector marked, once
also one whose check value is found not to be that of its data, and a write of the whole sector drops both; clk steps by 25 MHz, never above
600; each of these events but the corrected error and the snapshot stands last in the black-box record, which a fatal fault freezes. R23, R368, R474: the management
core serves the oldest command of the group whose turn it is, and answers with its opcode, code and value.

Where the spec leaves a point open, the statement takes the model's reading: log entries 8, 10, 91 and 107 to 110. -/
def Obligations.ManagementEventsAndGroupCommands : Prop :=
  ∀ (s : State) (g : Nat) (q : EngCmd) (rest : List EngCmd),
    let m := s.mg
    let last := fun (t : State) (kind : Nat) => s.bbFrozen = false → ∃ e : BBEvent, t.blackBox.getLast? = some e ∧ e.kind.toNat = kind ∧ e.time = s.time
    let k := s.group g
    let s' : State := { s with mg := { s.mg with turn := g } }
    let served := fun (i : Instr) (code : Nat) (v : W64) => Runs i s fun t => (t.group g).mboxIn = rest ∧ t.mg.turn = g ∧
      ∃ r : ResElem, (t.group g).mboxOut = k.mboxOut ++ [r] ∧ r.core = q.core ∧ r.strand = q.strand ∧ r.tag = q.tag ∧
        r.data = BitVec.ofNat 1024 (q.opcode + 2 ^ 8 * code + 2 ^ 64 * v.toNat)
    let w := (q.word 1).toNat
    let h := q.word 1
    (s.mg.recovery = true → exec .telemetrySnapshot s = .next s) ∧
    (s.mg.recovery = false → Runs .telemetrySnapshot s fun t => ∀ i, i < 64 → t.mg.snapshot[i]? = some (s.telemetry i)) ∧
    (Runs .softErrorCorrected s fun t => t = { s with mg := { m with softErrors := m.softErrors + 1 } }) ∧
    (64 * s.arg.n < gddrSize → s.arg.k = 1 → Runs .sectorPoison s fun t => t.poison = s.poison ∧ t.mg = m ∧
      ((s.arg.n ∈ (t.verifySector s.arg.n).poison) ↔ s.arg.n ∈ s.poison ∨ w32 s.arg.word.toNat ≠ s.sectorCheck s.arg.n)) ∧
    (∀ i, i ∉ (s.wroteSector i).poison ∧ Map.has (s.wroteSector i).checks i = false) ∧
    (64 * s.arg.n < gddrSize → s.arg.k ≠ 1 → s.arg.flag = true → Runs .sectorPoison s fun t =>
      t.locPoisoned (.peer s.arg.m (64 * s.arg.n)) = true ∧ t.poison = s.poison ∧ t.mg = m) ∧
    (64 * s.arg.n < gddrSize → s.arg.k ≠ 1 → s.arg.flag = false → Runs .sectorPoison s fun t => s.arg.n ∈ t.poison ∧ Map.has t.checks s.arg.n = false ∧
      t.mg.poisonCount = (if s.arg.n ∈ s.poison then m.poisonCount else m.poisonCount + 1) ∧ last t 4) ∧
    (m.up = true → 25 < m.mhz → Runs .thermalThrottleStep s fun t => t.mg.mhz = m.mhz - 25 ∧ last t 5) ∧
    (m.up = true → m.mhz ≤ 575 → Runs .thermalRecoverStep s fun t => t.mg.mhz = m.mhz + 25 ∧ last t 5) ∧
    (Runs .fatalFault s fun t => t.bbFrozen = true ∧ last t 7) ∧
    (∀ kind cause tenant core data, s.bbFrozen = true → s.mayServe unitRecord 0 = true → s.bbEvent kind cause tenant core data = s) ∧
    (∀ kind cause tenant core data, s.bbFrozen = true → s.mayServe unitRecord 0 = false → s.blackBox ≠ [] →
      (s.bbEvent kind cause tenant core data).blackBox.getLast? = s.blackBox.getLast?) ∧
    (s.arg.mbox = .group g → k.mboxIn = q :: rest → s.mboxTurn g = true → k.mboxOut.length < 16 → q.detached = false →
      (q.opcode = 0x10 → w < 64 → served .telemetryRead 0 (s'.telemetry w)) ∧
      (q.opcode = 0x10 → 64 ≤ w → served .telemetryRead 3 0) ∧
      (q.opcode = 0x11 → served .blackBoxNote 0 0) ∧
      (q.opcode = 0x20 → 0 < s.arg.k → s.arg.k < 2 ^ 20 → s.kvField s.arg.k 0 1 = 0 → mgmtBase ≤ s.arg.word.toNat → s.arg.word.toNat < gddrSize →
        (∀ hd n d, s'.poolShape q.tenant (s'.poolOf q.tenant) = some (hd, n) → s'.desc q.tenant (s'.poolOf q.tenant) = .ok d →
          ¬ (hd = 16 * (w / 2 ^ 28 % 16 + 1) ∧ d.ebytes = kvBytes (w / 2 ^ 26 % 4))) → served .kvCreate 3 0) ∧
      (q.opcode = 0x20 → 0 < s.arg.k → s.arg.k < 2 ^ 20 → s.kvField s.arg.k 0 1 = 0 → mgmtBase ≤ s.arg.word.toNat → s.arg.word.toNat < gddrSize →
        (s'.tenantValid q.tenant = false → served .kvCreate 3 0) ∧
        ∀ hd n d, s'.tenantValid q.tenant = true → s'.poolShape q.tenant (s'.poolOf q.tenant) = some (hd, n) →
          s'.desc q.tenant (s'.poolOf q.tenant) = .ok d → hd = 16 * (w / 2 ^ 28 % 16 + 1) → d.ebytes = kvBytes (w / 2 ^ 26 % 4) →
            served .kvCreate 0 (newHandle s.arg.k (s.kvField s.arg.k 4 12) q.tenant 0)) ∧
      (q.opcode = 0x21 → s'.kvReason q.tenant h = 0 → served .kvDestroy 0 0) ∧
      (q.opcode = 0x21 → s'.kvReason q.tenant h ≠ 0 → served .kvDestroy 2 0) ∧
      (q.opcode = 0x22 → served .kvReturnCache 0 (w64 (s.core q.core).kvCache.length)) ∧
      (q.opcode ∉ [0x10, 0x11, 0x20, 0x21, 0x22] → served .unknownOpcode 3 0)) ∧
    (let c := s.arg.core
      let x := s.core c
      x.kvAsked = true → s.mboxTurn (groupOf c) = true → s.grantOk x.kvTenant (16 - x.kvCache.length) s.arg.nats = true →
        Runs .kvRefillGrant s fun t => (t.core c).kvCache = x.kvCache ++ s.arg.nats ∧ (t.core c).kvAsked = false ∧
          ∀ h r, h < 4 → r < 16 → (t.strand c h).re r = (s.strand c h).re r + if (s.strand c h).refills.getLsbD r then 1 else 0)

/-- R26, R30, R361, R469, R477, R478, R480: a command of the host mailbox whose doorbell number is the next completes with its code, busy clear: a tenant record takes
its fields, an invalidation drops the tenant's cached entries, a pool is declared, a key that unwraps is loaded into a free slot
and one not in use erased, lines are pinned and unpinned; a bad operand is code 2, a state that forbids it code 1, an unknown opcode 3.

Where the spec leaves a point open, the statement takes the model's reading: log entries 10, 33, 34, 110 and 115. -/
def Obligations.TenantCommandsComplete : Prop :=
  ∀ s : State,
    let cmd := s.mg.host.cmd
    let T := cmdNat cmd 8 2
    let s' := s.sysTake .host
    let ends := fun (t : State) (code : Nat) => t.mg.host.busy = false ∧ t.mg.host.last = w32 s.arg.word.toNat ∧
      t.mg.host.status = w64 (s.arg.word.toNat % 2 ^ 32 + 2 ^ 32 * code)
    let base := cmdNat cmd 72 8
    let len := cmdNat cmd 80 3 % 2 ^ 21
    let pool := w64 (cmdNat cmd 16 8)
    s.arg.mbox = .host → s.doorbell .host = true →
    (cmdNat cmd 0 1 = 1 → (1024 ≤ T → Runs .tenantRecordWrite s fun t => ends t 2 ∧ t.l2 = s.l2 ∧ t.gddr = s.gddr) ∧
      (T < 1024 → (mgmtBase ≤ base ∨ base % 128 ≠ 0) → Runs .tenantRecordWrite s fun t => ends t 2 ∧ t.l2 = s.l2 ∧ t.gddr = s.gddr) ∧
      (T < 1024 → base < mgmtBase → base % 128 = 0 → s'.tenantBusy T = false → Runs .tenantRecordWrite s fun t => ends t 0 ∧
        t.tenantField T 0 8 = cmdNat cmd 64 1 % 2 ∧ t.tenantField T 8 8 = base ∧ t.tenantField T 16 8 = len ∧
          t.tenantField T 24 8 = cmdNat cmd 88 8 ∧ ∀ U, U ≠ T → t.tenantField U 0 64 = s.tenantField U 0 64)) ∧
    (cmdNat cmd 0 1 = 2 → T < 1024 → Runs .directoryInvalidate s fun t => ends t 0 ∧ (∀ p ∈ t.ports, ∀ e ∈ p.2, e.tenant ≠ T) ∧
      (∀ g, ∀ e ∈ (t.group g).tcache, e.tenant ≠ T) ∧ (∀ p ∈ t.dirs, p.1 / 2 ^ 20 ≠ T) ∧
        (∀ p ∈ s.ports, ∀ e ∈ p.2, e.tenant ≠ T → ∃ r ∈ t.ports, r.1 = p.1 ∧ e ∈ r.2) ∧ ∀ p ∈ s.dirs, p.1 / 2 ^ 20 ≠ T → p ∈ t.dirs) ∧
    (cmdNat cmd 0 1 = 3 → T < 1024 → (s'.poolShape T pool = none → Runs .kvPoolDeclare s fun t => ends t 2) ∧
      (s'.poolShape T pool ≠ none → s'.hasHandle T = true → Runs .kvPoolDeclare s fun t => ends t 1) ∧
      (s'.poolShape T pool ≠ none → s'.hasHandle T = false → Runs .kvPoolDeclare s fun t =>
        ends t 0 ∧ t.poolOf T = pool ∧ t.quotaOf T = cmdNat cmd 24 4)) ∧
    (cmdNat cmd 0 1 = 4 → T < 1024 → Runs .keyLoad s fun t => match Config.unwrapKey (Mem.read cmd 32 224) with
      | none => ends t 1 ∧ t.keys = s.keys
      | some k => if Map.has s.keys T = true ∨ s'.slotUsed T = true then ends t 1 ∧ t.keys = s.keys else ends t 0 ∧ t.keys = Map.put s.keys T k) ∧
    (cmdNat cmd 0 1 = 5 → T < 1024 → (s'.slotUsed T = true → Runs .keyErase s fun t => ends t 1 ∧ t.keys = s.keys) ∧
      (s'.slotUsed T = false → Runs .keyErase s fun t => ends t 0 ∧ Map.has t.keys T = false)) ∧
    (∀ ls u, cmdNat cmd 0 1 = 7 → s'.pinRange cmd = (some ls, u) →
      (cmdNat cmd 10 1 = 0 → u.pinsTooMany ((ls.filter fun l => (u.line l).pins.isEmpty).eraseDups) = false →
        u.setTooFull ((ls.filter fun l => (u.line l).pins.isEmpty).eraseDups) = false → Runs .pin s fun t =>
          ends t 0 ∧ ∀ l ∈ ls, 64 ∈ (t.line l).pins) ∧
      (cmdNat cmd 10 1 = 1 → Runs .unpin s fun t => ends t 0 ∧ ∀ l ∈ ls, 64 ∉ (t.line l).pins)) ∧
    (cmdNat cmd 0 1 = 0 ∨ 0x0B < cmdNat cmd 0 1 → Runs .unknownOpcode s fun t => ends t 3)

/-- R8, R394, R466, R467, R468, R473, R477, R479: a legal form waits for the other members, and forms the window at epoch 0 when it matches, or is refused after 1 s of TIME; routes are
replaced with the next epoch; a window without such nodes dissolves into chips of their own, at this chip's command or another's. A report is written; the rollback floor rises to no more than
the running image's version; the black-box record unfreezes; TIME is loaded once, never backward; in recovery a verified image goes
into its slot.

Where the spec leaves a point open, the statement takes the model's reading: log entries 33, 87, 88, 89 and 110. -/
def Obligations.WindowAndRootCommandsComplete : Prop :=
  ∀ s : State,
    let box := s.arg.mbox
    let cmd := (s.sysBox box).cmd
    let s' := s.sysTake box
    let ends := fun (t : State) (code : Nat) => (t.sysBox box).busy = false ∧ (t.sysBox box).last = w32 s.arg.word.toNat ∧
      (t.sysBox box).status = w64 (s.arg.word.toNat % 2 ^ 32 + 2 ^ 32 * code)
    let op := cmdNat cmd 0 1
    let img := Mem.read s.mg.staging 0 (2 ^ 22)
    let changed := (List.range s.winSize).filter fun k => k ≠ s.rank && (cmdRoutes cmd).getD k 0 ≠ s.fab.routes.getD k 0
    (∀ f, s.fab.form = some f → s.time.toNat ≤ f.at_.toNat + 10 ^ 9 → Runs .windowFormMatch s fun t => t.fab.formed = true ∧ t.fab.epoch = 0 ∧
      t.winSize = f.size ∧ t.rank = f.rank ∧ t.fab.winId = BitVec.ofNat 16 f.id ∧ t.time.toNat = max s.time.toNat s.arg.word.toNat ∧ t.fab.form = none ∧ t.fab.slew = 0) ∧
    (∀ f, s.fab.form = some f → f.at_.toNat + 10 ^ 9 < s.time.toNat → Runs .windowFormTimeout s fun t =>
      t.fab.form = none ∧ t.mg.host.busy = false ∧ t.mg.host.status = w64 (s.mg.host.last.toNat + 2 ^ 32) ∧ t.fab.formed = s.fab.formed) ∧
    (s.arg.k = 1 → s.fab.formed = true → Runs .windowDissolve s fun t => t.mg = s.mg ∧ t.cores = s.cores ∧
      if s.fe.nodes.any (fun p => p.2.st != .free && p.2.shape.chips.isSome) = true then t = s
      else t.fab.formed = false ∧ t.winSize = 1 ∧ t.rank = 0 ∧ t.unreach = []) ∧
    (box = .host → s.doorbell .host = true →
      (op = 6 → cmdNat cmd 8 1 = 0 → s.fab.formed = false → s'.formBad cmd = false → Runs .windowForm s fun t =>
        t.mg.host.busy = true ∧ t.fab.form = some { size := cmdNat cmd 12 1, rank := cmdNat cmd 13 1, id := cmdNat cmd 10 2, at_ := s.time, routes := cmdRoutes cmd }) ∧
      (op = 6 → cmdNat cmd 8 1 = 0 → s.fab.formed = true → Runs .windowForm s fun t => ends t 1) ∧
      (op = 6 → cmdNat cmd 8 1 = 0 → s.fab.formed = false → s'.formBad cmd = true → Runs .windowForm s fun t => ends t 2 ∧ t.fab = s.fab) ∧
      (op = 6 → cmdNat cmd 8 1 = 1 → s.fab.formed = true → s'.routesOk s.winSize s.rank (cmdRoutes cmd) = true →
        Runs .windowUpdateRoutes s fun t => t.fab.epoch = (s'.failPaths changed).fab.epoch + 1 ∧ t.fab.routes = cmdRoutes cmd ∧
          (s.fab.reqs = [] → ends t 0 ∧ t.fab.epoch = s.fab.epoch + 1)) ∧
      (op = 6 → cmdNat cmd 8 1 = 1 → s.fab.formed = true → s'.routesOk s.winSize s.rank (cmdRoutes cmd) = false →
        Runs .windowUpdateRoutes s fun t => ends t 2 ∧ t.fab = s.fab) ∧
      (op = 6 → cmdNat cmd 8 1 = 2 → s.arg.k ≠ 1 → s.arg.flag = false → s.fe.nodes.any (fun p => p.2.st != .free && p.2.shape.chips.isSome) = false →
        Runs .windowDissolve s fun t => ends t 0 ∧ t.fab.formed = false ∧ t.winSize = 1 ∧ t.rank = 0) ∧
      (op = 0x0B → (s.mg.dataUp = false → s.mg.loaded = false → s.time.toNat ≤ cmdNat cmd 8 8 → Runs .loadTime s fun t =>
          ends t 0 ∧ t.time.toNat = cmdNat cmd 8 8 ∧ t.mg.loaded = true) ∧
        ((s.mg.dataUp = true ∨ s.mg.loaded = true ∨ cmdNat cmd 8 8 < s.time.toNat) → Runs .loadTime s fun t => ends t 1 ∧ t.time = s.time))) ∧
    ((box = .host ∨ box = .recovery) → s.doorbell box = true →
      (op = 8 → Runs .attestationReport s fun t => ends t 0 ∧ t.mg.report = Mem.write [] 0 ((s'.attest (Mem.read cmd 32 32)).take 0x8000)) ∧
      (op = 9 → ∀ k, s.floorSlot = some k → Runs .raiseRollbackFloor s fun t =>
        if s.floorNow.toNat ≤ cmdNat cmd 8 4 ∧ cmdNat cmd 8 4 ≤ (Config.imageVersion (s.slotImage k)).toNat
        then ends t 0 ∧ t.mg.floor.toNat = cmdNat cmd 8 4 else ends t 1 ∧ t.mg.floor = s.mg.floor) ∧
      (op = 9 → s.floorSlot = none → Runs .raiseRollbackFloor s fun t => ends t 1 ∧ t.mg.floor = s.mg.floor) ∧
      (op = 0x0A → Runs .unfreezeBlackBoxRecord s fun t => ends t 0 ∧ t.bbFrozen = false ∧ t.blackBox = s.blackBox)) ∧
    (box = .recovery → s.doorbell .recovery = true → op = 0x20 →
      (2 ≤ cmdNat cmd 8 1 → Runs .recoveryImage s fun t => ends t 2 ∧ t.mg.flash = s.mg.flash) ∧
      (cmdNat cmd 8 1 < 2 → Runs .recoveryImage s fun t => match s.imageFails img with
        | some _ => ends t 1 ∧ t.mg.flash = s.mg.flash
        | none => ends t 0 ∧ t.mg.verified = some (cmdNat cmd 8 1) ∧ Map.get [] t.mg.flash (cmdNat cmd 8 1) = img))

/-! ### Strands, terminations and pre-emption -/

/-- R43, R48, R128, R132, R135, R222, R229: the turn of a strand that runs: padding takes no clk, and a cycle of padding issues
nothing; an error of the next bundle traps at it, a bundle without a
SEQ form enters its queues, and one with a SEQ form is handed over to it; sync bundles that pair are handed over together, and none issues
while a partner is not ready (R132). A head that waits on a token that cannot come takes
0x40, or 0x41 after exit; a kept event wait that holds completes; an uncorrectable error of a strand is cause 0xA4.

Where the spec leaves a point open, the statement takes the model's reading: log entries 52, 54 and 90. -/
def Obligations.StrandsIssueAndTrap : Prop :=
  ∀ (s v u : State) (r : Ready) (e : Entry),
    let c := s.arg.core
    let h := s.arg.strand
    let st := s.strand c h
    let traps := fun (t : State) (cause : Nat) => (t.strand c h).trapped = true ∧ (t.strand c h).rec_.cause.toNat % 256 = cause
    let delivered := (s.mustDeliver && s.dueCores.contains c) = false
    let free := h < 4 ∧ st.run = .running ∧ delivered ∧ s.nodeEnding c = false ∧ st.inQop = false ∧ st.trapped = false ∧
      st.stopped = false ∧ st.catchUp = false ∧ (st.keep = .none ∨ st.handler = true) ∧ st.holdUntil ≤ s.cyc ∧ st.wait = .none ∧ s.gated c h = false
    let s0 := s.openGate c h
    let pads := fun (a b : State) => ∃ next w, a.prep c h = (.padding next, w) ∧ b = w.modStrand c h fun st => { st with pc := next, checkPc := false }
    let at_ := free ∧ (v = s0 ∨ pads s0 v)
    (∀ chain : Nat → State, free → chain 0 = s0 → (∀ k, pads (chain k) (chain (k + 1))) → exec .bundleIssue s = .next s0) ∧
    (∀ k w x, at_ → v.prep c h = (.err k w x, u) → (u.strand c h).trapped = false → k < 256 → w < 16 → Runs .bundleIssue s fun t =>
      traps t k ∧ (t.strand c h).rec_.val = x ∧ (t.strand c h).rec_.bundle = (u.strand c h).pc ∧ (t.strand c h).rec_.resume = (u.strand c h).pc) ∧
    (∀ full regs other sync, at_ → v.prep c h = (.stall full regs other sync, u) → exec .bundleIssue s = .next u) ∧
    (at_ → v.prep c h = (.ready r, u) → r.sync = false → r.rest.all (fun p => p.2.cmd.isNone) = true →
      (r.seqForm = some e → Runs .bundleIssue s fun t => t.slot = true ∧ t.cur.core = c ∧ t.cur.strand = h ∧ t.cur.unit = .seq ∧
        t.cur.entry = e ∧ t.cur.rest = r.rest ∧ t.cur.nextPc = r.next) ∧
      (r.seqForm = none → (∀ p ∈ r.rest, p.2.atIssue = none) → Runs .bundleIssue s fun t => t.slot = u.slot ∧ (t.strand c h).pc = r.next ∧
        (t.strand c h).seq = (u.strand c h).seq + 1 ∧ ∀ q, q ≠ .seq → (t.strand c h).queue q =
          (u.strand c h).queue q ++ (r.rest.filter fun p => p.1 = q).map Prod.snd)) ∧
    (∀ x l, at_ → v.prep c h = (.ready r, u) → r.sync = true → (u.pairing c h r = (none, x) → exec .bundleIssue s = .next x) ∧
      (u.pairing c h r = (some l, x) → 1 < l.length → Runs .bundleIssue s fun t => t.slot = true ∧
        t.paired.map (fun y => (y.core, y.strand, y.nextPc)) = l.map fun p => (c, p.1, p.2.next))) ∧
    (free → tokenQueues.any (fun q => !(st.queue q).isEmpty) = true →
      (∀ q ∈ tokenQueues, st.queue q ≠ [] → s.tokenWait c h q = true) → ∀ full regs sync, (s.prep c h).1 = .stall full regs false sync →
      (sync = true → ∀ g ∈ s.partners c h, (s.strand c g).mayIssue s.cyc = true ∧ ∃ x, (s.prep c g).1 = .ready x ∧ x.sync = true) →
      (full ≠ [] ∨ regs ≠ []) → .ea ∉ full →
      (∀ x ∈ regs, (∃ e ∈ st.lq.drop 1, e.done = false ∧ x ∈ e.dst) ∧ ∀ e ∈ st.ea, e.done = false → x ∉ e.dst) → Runs .tokenDeadlock s fun t => traps t 0x40 ∧ (t.strand c h).rec_.bundle = st.pc) ∧
    (st.run = .running → st.trapped = false → st.stopped = false → st.catchUp = false → st.wait = .exit →
      (∃ q ∈ tokenQueues, s.tokenStranded c h q = true) → Runs .tokenStranded s fun t => traps t 0x41) ∧
    (∀ n cond b, st.keep = .ewait n cond b → st.run = .running → st.handler = false → st.trapped = false → st.stopped = false →
      st.catchUp = false → delivered → condHolds cond (st.re0 n).toNat b = true → Runs .keptWaitComplete s fun t =>
        (t.strand c h).keep = .none ∧ (t.strand c h).wait = .none ∧ ∀ p : Part, p ≠ .trap → (t.strand c h).agrees st p) ∧
    (h < 4 → (s.core c).place ≠ none → st.idle = false → st.trapped = false → Runs .strandEccError s fun t =>
      traps t 0xA4 ∧ (t.strand c h).rec_.bundle = st.nextAddr ∧ (t.strand c h).rec_.resume = st.nextAddr)

/-- R230, R232, R236, R415: a settled strand whose cause ends its node terminates the node with that cause, as a request of system software does with
0xA5, another rank's termination of a node with a chips level with its cause, and a handler that overruns a pre-emption with 0xA2: once
nothing that has begun is left, no core of this chip holds a placement of the node, and none is saved. R236, R239: a pre-emption request
stops the issue of every strand of its group; once each core is ready, the cores are saved in ascending order: each is emptied, the
pages of its save area hold its area, and its group is among the saved ones with it, unless its area cannot be written, which ends its
node. R237: a saved group resumes with the placements and scratchpads of its cores.

Where the spec leaves a point open, the statement takes the model's reading: log entries 12, 18, 19, 46 and 103. -/
def Obligations.NodesEndAndGroupsArePreempted : Prop :=
  ∀ (s u : State) (n cause cause2 : Nat) (who : Option (Nat × Nat)) (pre : Preempt) (sv : SavedGroup) (pages : List Nat) (bs : List Byte),
    let c := s.arg.core
    let h := s.arg.strand
    let st := s.strand c h
    let g := s.arg.n
    let done := s.endNode n cause cause2 who
    let there := fun (m : Nat) => (s.node m).st = .placing ∨ (s.node m).st = .running
    let cs := s.placedCores g
    let ready : State := (((cs.foldl State.settleCore s).cancelAttn g).modGroup g fun k => { k with attnIn := k.attnIn.mapIdx fun i q => { q with turn := i } })
    let holds := fun (t : State) (x : Nat) (p : Placement) =>
      ∃ v ∈ t.saved, v.part = pre.part ∧ v.slot = pre.slot ∧ ∃ y ∈ v.cores, y.core = x ∧ y.pos = x % 16 ∧ y.node = p.node ∧ y.place = p
    let sound := pages.length = areaPages ∧ pages.Nodup ∧ ∀ a ∈ pages, a % 4096 = 0
    ((∀ e p, (done.core e).place = some p → p.node ≠ n) ∧ (∀ x ∈ done.saved, ∀ y ∈ x.cores, y.node ≠ n) ∧ (∀ x ∈ done.ending, x.node ≠ n) ∧
      ∀ x ∈ done.increments, x.node ≠ n) ∧
    ((∀ x ∈ s.ending, x.node ≠ n) → s.terminate n cause cause2 who = if s.nodeBusy n then
      { s with ending := s.ending ++ [{ node := n, cause := cause, cause2 := cause2, who := who }] } else done) ∧
    ((∃ x ∈ s.ending, x.node = n) → s.terminate n cause cause2 who = s) ∧
    (s.arg.flag = true → there s.arg.n → exec .nodeTermination s = .next ((s.terminate s.arg.n 0xA5 0 none).failNode s.arg.n)) ∧
    (s.arg.flag = true → ¬ there s.arg.n → exec .nodeTermination s = .next (s.terminate s.arg.n 0xA5 0 none)) ∧
    (s.arg.flag = false → (∀ x ∈ s.ending, some x.node ≠ (s.core c).place.map fun p => p.node) →
      st.endCause (s.placement c).trapentry = some (cause, cause2) → st.settled s.cyc = true → st.stopped = false → st.inQop = false →
      s.outstanding c h = false →
      exec .nodeTermination s = .next (s.terminate (s.placement c).node cause cause2 (some (c, h)))) ∧
    (∀ p e, s.arg.flag = false → (s.core c).place = some p → s.ending.find? (fun x => x.node == p.node) = some e →
      exec .nodeTermination s = .next (if s.nodeBusy e.node then s else s.endNode e.node e.cause e.cause2 e.who)) ∧
    (s.fab.formed = true → (s.node s.arg.n).shape.chips ≠ none → (there s.arg.n ∨ (s.node s.arg.n).st = .ready) →
      exec .remoteTermination s = .next ((s.terminate s.arg.n s.arg.k 0 none).failNode s.arg.n)) ∧
    (s.fab.formed = false ∨ (s.node s.arg.n).shape.chips = none ∨ ¬ (there s.arg.n ∨ (s.node s.arg.n).st = .ready) →
      exec .remoteTermination s = .next s) ∧
    ((∃ x ∈ s.fe.preempts, x.asked = true ∧ x.group = groupOf c ∧ x.at_ + 65536 ≤ s.cyc) → st.handler = true → (s.core c).place ≠ none →
      exec .handlerOverrunTimeout s = .next (s.terminate (s.placement c).node 0xA2 0 none)) ∧
    (s.arg.flag = false → (∃ x ∈ s.fe.preempts, x.group = g ∧ x.asked = false) → (∀ e ∈ cs, (s.placement e).started = true) →
      Runs .preemptionRequest s fun t => (∀ x ∈ t.fe.preempts, x.group = g → x.asked = true) ∧
        ∀ e ∈ cs, ∀ i, i < 4 → (s.strand e i).run = .running → (s.strand e i).handler = false →
          (s.strand e i).stopped = false → (t.strand e i).stopped = true) ∧
    (s.fe.preempts.find? (fun p => p.asked && p.group == g) = some pre → (∀ e ∈ cs, s.saveReady e = true) →
      s.fab.colls.any s.collLate = false → Runs .contextSave s fun t => (∀ e ∈ cs, (t.core e).place = none ∨ ∃ x ∈ t.ending, x.node = (s.placement e).node) ∧
        pre ∉ t.fe.preempts ∧ (∀ a, t.devGet a = (cs.foldl (fun w e => w.saveCore pre e) ready).devGet a) ∧
        ((∀ l e m, cs = l ++ e :: m → ∃ x w, (l.foldl (fun w e => w.saveCore pre e) ready).areaOf pre.part pre.slot (e % 16) true = (.ok x, w)) →
          ∀ e ∈ cs, holds t e (ready.placement e))) ∧
    (∀ p, (s.core c).place = some p → s.areaOf pre.part pre.slot (c % 16) true = (.ok pages, u) →
      let w : State := ((u.tinvs.filter fun i => i.core == c).foldl State.applyTinv { u with tinvs := u.tinvs.filter fun i => i.core != c }).kvEmptyCache c
      let k := u.group (groupOf c)
      let area := (w.core c).area (k.attnIn.filter fun q => q.core == c) (k.attnOut.filter fun r => r.core == c) (k.mboxOut.filter fun r => r.core == c)
      ((s.saveCore pre c).core c).place = none ∧ holds (s.saveCore pre c) c p ∧
        ∀ a, (s.saveCore pre c).devGet a = ((w.areaWrite pages 0 area 8704).areaStored pre.part pre.slot (c % 16)).devGet a) ∧
    (sound → bs.length = 0x220000 → ∀ i, i < 0x220000 →
      (s.areaWrite pages 0 bs 8704).devGet (pages.getD (i / 4096) 0 + i % 4096) = bs.getD i 0) ∧
    (s.saved[g]? = some sv → s.canResume sv s.arg.m = true → (∀ y ∈ sv.cores, s.areaReads sv.part sv.slot y = true) →
      sv.cores.Pairwise (fun y z => y.pos ≠ z.pos) → Runs .groupResume s fun t => t.saved = s.saved.eraseIdx g ∧
        ∀ l y m, sv.cores = l ++ y :: m → ∀ w, (l.foldl (fun w y => w.resumeCore sv.part sv.slot s.arg.m y) s).areaOf sv.part sv.slot y.pos false = (.ok pages, w) →
          (t.core (16 * s.arg.m + y.pos)).place = some y.place ∧
            ∀ i, i < 2 ^ 20 → Mem.get (t.core (16 * s.arg.m + y.pos)).sp i = w.devGet (pages.getD (i / 4096) 0 + i % 4096))

/-! ### The whole machine -/

/-- R8, R18, R21: the machine right after reset: TIME and CYC are 0, no plane has left reset, no core holds a placement, no
queue is enabled, no node is live, no key is loaded and no move is pending. Memory lists nothing, and every strand is idle
with every counter at 0. The zeros of registers and of memory are the model's choice (log entries 2 and 3). -/
def Obligations.ResetLeavesTheMachineAtRest : Prop :=
  let s := State.reset
  s.time = 0 ∧ s.cyc = 0 ∧ s.mg.up = false ∧ s.fe.up = false ∧ s.mg.dataUp = false ∧ s.agenda = [] ∧ s.gddr = [] ∧ s.host = [] ∧
    (∀ c, (s.core c).place = none ∧ (s.core c).sp = [] ∧ ∀ h, (s.strand c h).run = .idle ∧ (s.strand c h).trapped = false ∧
      (∀ r, (s.strand c h).rx r = 0 ∧ (s.strand c h).re r = 0) ∧ ∀ k, (s.strand c h).ctr k = 0) ∧
    (∀ q, (s.fq q).enabled = false) ∧ (∀ n, (s.node n).st = .free) ∧ (∀ t, Map.has s.keys t = false) ∧ s.canonical

/-- Decode and encode agree, for every instruction that has an encoding, every operand at every value that the encoding
admits: decoding the words of a well-formed instruction gives that instruction, and leaves what follows them (R51 to R60). -/
def Obligations.DecodingTheEncodingGivesTheInstruction : Prop :=
  ∀ i : Instr, i.wf = true → encode i ≠ [] → ∀ rest : List W32, decodeWords (encode i ++ rest) = .ok (i, rest)

/-- Every step keeps every memory in its canonical form: addresses strictly rising, and no byte listed that an unlisted
address reads as. So equal memories are equal data. -/
def Obligations.EveryStepKeepsMemoryCanonical : Prop :=
  ∀ s t : State, s.canonical → step s = .next t → t.canonical

/-- R45, R47, R48, R483: a step makes the first move of the agenda. The turn of a strand or of a queue's head that hands over an
instruction runs exactly that instruction: the step is exec of what the handed word and its literal decode to; a bundle without a
SEQ form issues; bundles that pair run one after the other, unless one of them raises a cause in place of its issue: then only
those that raise run. A move that hands nothing over is the whole step, and with no move left the step lists the next round. The
order of moves is the model's (log entry 1). -/
def Obligations.AStepRunsTheDecodedInstruction : Prop :=
  ∀ (s t : State) (a : Arg) (c h : Nat) (q : Unit5) (i : Instr) (ms : List Move),
    let begin_ : State := { s with agenda := ms, free := s.free + 1, slot := false }
    let decodes := fun (u : State) (i : Instr) => decodeWord u.cur.entry.word.toNat u.cur.entry.lit = .ok i
    (s.agenda = [] → step s = .next { s with agenda := s.round }) ∧
    let u : State := { t with slot := false, paired := [] }
    let after :=
      (t.slot = false → step s = .next u) ∧
      (t.slot = true → t.paired = [] → t.cur.bare = false → decodes t i → step s = exec i u) ∧
      (t.slot = true → t.paired = [] → t.cur.bare = true → step s = .next u.issued) ∧
      (t.slot = true → t.paired ≠ [] → (∀ x ∈ t.paired, u.ctxIssues x = true) → step s = u.runAll t.paired) ∧
      (t.slot = true → (∃ x ∈ t.paired, u.ctxIssues x = false) → ∃ v : State, step s = v.runAll (t.paired.filter fun x => !u.ctxIssues x) ∧
        ∀ d k, v.strand d k = u.strand d k)
    (s.agenda = .head c h q :: ms → begin_.headTurn c h q = t → after) ∧
    (∀ j, s.agenda = .event j a :: ms → exec j { begin_ with arg := a } = .next t → after) ∧
    (∀ (x : Ctx) (l : List Ctx), s.runAll [] = .next s ∧ (∀ v, s.runCtx x = .next v → s.runAll (x :: l) = v.runAll l) ∧
      (x.bare = true → s.runCtx x = .next (State.issued { s with cur := x })) ∧
      (x.bare = false → decodes { s with cur := x } i → s.runCtx x = exec i { s with cur := x }))

/-- R36, R39, R43 to R45, R58: what a fetch that finds a bundle gives: each instruction is what its word of the code line and its
literal decode to, it is well formed, it has a literal exactly where its L bit is 1, no two of them have one destination, and the
line's owner lets the strand fetch it. A word of a line that the placement has seen written may be an old one (R40): `codeWord` reads it.

Where the spec leaves a point open, the statement takes the model's reading: log entry 92. -/
def Obligations.FetchedInstructionsAreThoseOfTheLine : Prop :=
  ∀ (s t : State) (c h : Nat) (pc next : W64) (hw : Nat) (is : List BInstr), s.fetch c h pc = (.bundle hw is next, t) →
    ∃ l, s.line0 c pc = (.ok l, t) ∧ (linkOwner (t.codeWord c l 0) = 4 ∨ linkOwner (t.codeWord c l 0) = h) ∧ pc.toNat % 4 = 0 ∧
      hw = t.codeWord c l (pc.toNat % 64 / 4) ∧ hw / 2 ^ 25 % 2 ^ 7 = 0x3F ∧ (is.map fun b => unitOf b.word.toNat).Nodup ∧
      ∀ b ∈ is, b.word.toNat = t.codeWord c l (pc.toNat % 64 / 4 + b.widx) ∧ decodeWord b.word.toNat b.lit = .ok b.instr ∧
        b.instr.wf = true ∧ (b.lit.isSome = true ↔ wantsLiteral b.word.toNat = true) ∧
          ∀ w, b.lit = some w → w.toNat = t.codeWord c l (pc.toNat % 64 / 4 + b.widx + 1)

/-- R59, R60 and the encodings of each family: words of the spec's own encoding decode to the instruction that they stand for, and
words that no row of the opcode table gives decode to none. -/
def Obligations.WordsDecodeToTheirInstruction : Prop :=
  (∀ p ∈ [((0x001C1082 : Nat), Instr.mul 7 1 (.reg 2)), (0x10D08805, .ori 13 2 0x805), (0x02092006, .idx 2 0x12),
      (0x0224A002, .spawn 9 10 (.reg 0)), (0x02000003, .join), (0x0258500F, .eget 22 5), (0x020031CD, .esig 3 (.reg 7)),
      (0x04142288, .probe 5 2 10), (0x040021CA, .tinv 2 (.reg 7)), (0x0400000B, .tsync), (0x0400320C, .tdesc 3 (.reg 8)),
      (0x04280012, .sstat 10 0), (0xA84A0130, .vtopk 9 8 (.imm 4) 0)], decodeWord p.1 none = .ok p.2) ∧
    (∀ w ∈ [(0xFE000000 : Nat), 0x0000003F, 0x0200003E], ∀ l i, decodeWord w l ≠ .ok i) ∧ ∀ w i, decodeWord 0x02000003 (some w) ≠ .ok i

/-- No instruction and no event stops the machine: exec answers a next state for each, in every state, and a step stops only
where a word handed over decodes to nothing. -/
def Obligations.NoInstructionStopsTheMachine : Prop :=
  (∀ (i : Instr) (s : State), ∃ t, exec i s = .next t) ∧ (∀ s : State, ∃ r, step s = r ∧ ∀ k, r ≠ .refused k) ∧
    ∀ s : State, (∃ t, step s = .next t) ∨ step s = .fault .handover

/-- R134: an instruction of LQ, CQ or SQ with pops begins only when each of its counters holds the token of its own match (R104), at least 1, and
takes one from each as it begins; one that
completes adds one to each counter that it pushes, where that holds at most 14, and keeps its place in the queue while one holds 15.
R52: x0 reads 0 and m0 all ones, whatever was written to them; a write to another register changes that one alone. -/
def Obligations.TokensAreTakenAndGivenAndFixedRegistersStay : Prop :=
  ∀ (s : State) (c h : Nat) (st : Strand) (e : Entry) (es : List Entry) (q : Unit5) (r n : Nat) (v : W64),
    let me := s.strand c h
    let pops := popsOf q (tokOf q e.word)
    let tok := e.word.toNat % 16
    let next : Bool := tok.testBit 3 && !e.pushN
    let prev : Bool := tok.testBit 1 && !e.pushP
    let fresh := me.queue q = e :: es ∧ (∀ x ∈ e :: es, x.done = false ∧ x.until_ = none ∧ x.underWay = false) ∧ e.marker = none ∧ e.begun = false
    (q = .lq ∨ q = .cq ∨ q = .sq → fresh → (∃ k ∈ pops, me.ctr k = 0 ∨ me.inOrder k = false) → (s.turn c h q).slot = s.slot ∧
      (∀ k, ((s.turn c h q).strand c h).ctr k = me.ctr k) ∧ ∀ p, ((s.turn c h q).strand c h).queue p = me.queue p) ∧
    (q = .cq → fresh → e.skip = false → (∀ k ∈ pops, 1 ≤ me.ctr k ∧ me.inOrder k = true) → me.trapped = false → me.stopped = false →
      s.nodeEnding c = false → me.cqReady e ≤ s.cyc → (isAccess .cq e.word = true → me.acquiring .cq e = false) →
      (isVector e.word = true → s.vuGrants c h = true) → (isMatrix e.word = true → (s.core c).arrayHolds h s.cyc e = false) →
        (s.turn c h q).slot = true ∧ (s.turn c h q).cur.entry = { e with begun := true } ∧
          ∀ k, ((s.turn c h q).strand c h).ctr k = me.ctr k - if k ∈ pops then 1 else 0) ∧
    (q = .lq ∨ q = .sq → fresh → e.skip = false →
      (∀ k ∈ pops, 1 ≤ me.ctr k ∧ me.inOrder k = true) → me.trapped = false → me.stopped = false → s.nodeEnding c = false → e.ready ≤ s.cyc →
      me.beginAt q ≤ s.cyc → me.acquiring q e = false → s.heldBack c h q e = false →
        (s.turn c h q).slot = true ∧ (s.turn c h q).cur.entry = { e with begun := true } ∧
          ∀ k, ((s.turn c h q).strand c h).ctr k = me.ctr k - if k ∈ pops then 1 else 0) ∧
    (q ≠ .seq → q ≠ .ea → st.queue q = e :: es →
      ((next = true → st.ctr (pushNext q) ≤ 14) → (prev = true → st.ctr (pushPrev q) ≤ 14) →
        (st.finishEntry q e).queue q = es ∧ ∀ k, (st.finishEntry q e).ctr k =
          st.ctr k + (if next = true ∧ k = pushNext q then 1 else 0) + if prev = true ∧ k = pushPrev q then 1 else 0) ∧
      ((next = true ∧ 14 < st.ctr (pushNext q)) ∨ (prev = true ∧ 14 < st.ctr (pushPrev q)) →
        ∃ f, (st.finishEntry q e).queue q = f :: es ∧ f.done = true)) ∧
    (st.rx 0 = 0 ∧ st.rm 0 = BitVec.allOnes 64 ∧ (st.wx r v).rx n = (if n = r ∧ r ≠ 0 then v else st.rx n) ∧
      (st.wm r v).rm n = if n = r ∧ r ≠ 0 then v else st.rm n)
end

