-- ==== Sys2Proof/Laws/Map.lean ====
section
/-!
SUPPORT. Laws of finite maps and of byte memories: read after write, and the canonical form that every memory
operation keeps.
-/

namespace Sys2Proof.Machine

/-! ### Maps -/

/-- Read after a write to the same key. -/
@[simp] theorem Map.get_put_same {α : Type} (d : α) (m : Map α) (i : Nat) (v : α) : Map.get d (Map.put m i v) i = v := by
  induction m with
  | nil => simp [Map.put, Map.get]
  | cons p m ih => obtain ⟨k, w⟩ := p; unfold Map.put; (split <;> [skip; split] <;> simp_all [Map.get]); omega

/-- Read of another key than the one written. -/
theorem Map.get_put_other {α : Type} (d : α) (m : Map α) {i j : Nat} (v : α) (h : j ≠ i) :
    Map.get d (Map.put m i v) j = Map.get d m j := by
  have h' : i ≠ j := fun e => h e.symm
  induction m with
  | nil => simp [Map.put, Map.get, h']
  | cons p m ih =>
    obtain ⟨k, w⟩ := p
    unfold Map.put
    split
    · simp [Map.get, ih]
    · split
      · subst_vars; simp [Map.get, h']
      · simp [Map.get, h']

/-- Read after a write. -/
theorem Map.get_put {α : Type} (d : α) (m : Map α) (i j : Nat) (v : α) :
    Map.get d (Map.put m i v) j = if j = i then v else Map.get d m j := by
  split
  · subst_vars; simp
  · exact Map.get_put_other d m v ‹_›

/-- Read after the entries of a key are dropped. -/
theorem Map.get_erase {α : Type} (d : α) (m : Map α) (i j : Nat) :
    Map.get d (Map.erase m i) j = if j = i then d else Map.get d m j := by
  unfold Map.erase
  induction m with
  | nil => simp [Map.get]
  | cons p m ih =>
    obtain ⟨k, w⟩ := p
    by_cases hk : k = i
    · subst hk
      by_cases hj : j = k
      · subst hj; simpa using ih
      · have hj' : k ≠ j := fun e => hj e.symm
        simp_all [Map.get]
    · by_cases hkj : k = j
      · subst hkj; simp [Map.get, hk]
      · simp_all [Map.get]

/-- The later of two writes to one key remains. -/
@[simp] theorem Map.put_put {α : Type} (m : Map α) (i : Nat) (v w : α) : Map.put (Map.put m i v) i w = Map.put m i w := by
  induction m with
  | nil => simp [Map.put]
  | cons p m ih =>
    obtain ⟨k, u⟩ := p
    by_cases h1 : k < i
    · simp [Map.put, h1, ih]
    · by_cases h2 : k = i
      · subst h2; simp [Map.put]
      · simp [Map.put, h1, h2]

/-! ### Memories -/

theorem Mem.get_of_lt {lo a : Nat} : ∀ {m : Mem}, Mem.wfFrom lo m = true → a < lo → Mem.get m a = Mem.blank
  | [], _, _ => rfl
  | (k, v) :: m, h, hl => by
    simp only [Mem.wfFrom, Bool.and_eq_true, decide_eq_true_eq] at h
    have : k ≠ a := by omega
    simp only [Mem.get, if_neg this]
    exact Mem.get_of_lt h.2 (by omega)

theorem Mem.get_erase (m : Mem) (a b : Nat) : Mem.get (Mem.erase m a) b = if b = a then Mem.blank else Mem.get m b := by
  induction m with
  | nil => simp [Mem.erase, Mem.get]
  | cons p m ih =>
    obtain ⟨k, v⟩ := p
    unfold Mem.erase
    by_cases h : k = a
    · simp only [h, if_true, ih]
      by_cases hb : b = a
      · simp [hb]
      · have : a ≠ b := fun e => hb e.symm
        simp [hb, Mem.get, this]
    · simp only [if_neg h, Mem.get, ih]
      by_cases hb : k = b
      · simp [← hb, h]
      · simp [hb]

/-- Read after a write of one byte. -/
theorem Mem.get_set (m : Mem) (a b : Nat) (v : Byte) : Mem.get (Mem.set m a v) b = if b = a then v else Mem.get m b := by
  induction m with
  | nil =>
    unfold Mem.set
    by_cases hv : v = Mem.blank <;> by_cases hb : b = a
    · simp [Mem.get, hv]
    · simp [Mem.get, hv]
    · simp [Mem.get, hv, hb]
    · have : a ≠ b := fun e => hb e.symm
      simp [Mem.get, hv, hb, this]
  | cons p m ih =>
    obtain ⟨k, w⟩ := p
    unfold Mem.set
    by_cases h1 : k < a
    · rw [if_pos h1]
      simp only [Mem.get, ih]
      by_cases hb : k = b
      · have : ¬ b = a := by omega
        simp [hb, this]
      · simp [hb]
    · rw [if_neg h1]
      by_cases h2 : k = a
      · rw [if_pos h2]
        subst h2
        by_cases hv : v = Mem.blank
        · rw [if_pos hv, Mem.get_erase]
          by_cases hb : b = k
          · simp [hb, hv]
          · have : k ≠ b := fun e => hb e.symm
            simp [hb, Mem.get, this]
        · rw [if_neg hv]
          by_cases hb : b = k
          · simp [hb, Mem.get]
          · have : k ≠ b := fun e => hb e.symm
            simp [hb, Mem.get, this]
      · rw [if_neg h2]
        by_cases hv : v = Mem.blank
        · rw [if_pos hv]
          simp only [Mem.get, Mem.get_erase]
          by_cases hb : b = a
          · simp [hb, hv, h2]
          · simp [hb]
        · rw [if_neg hv]
          by_cases hb : b = a
          · simp [hb, Mem.get]
          · have : a ≠ b := fun e => hb e.symm
            simp [hb, Mem.get, this]

theorem Mem.wfFrom_mono {lo lo' : Nat} : ∀ {m : Mem}, lo' ≤ lo → Mem.wfFrom lo m = true → Mem.wfFrom lo' m = true
  | [], _, _ => rfl
  | (k, v) :: m, h, hw => by
    simp only [Mem.wfFrom, Bool.and_eq_true, decide_eq_true_eq] at hw ⊢
    exact ⟨⟨by omega, hw.1.2⟩, hw.2⟩

theorem Mem.erase_wfFrom (a : Nat) : ∀ {lo : Nat} {m : Mem}, Mem.wfFrom lo m = true → Mem.wfFrom lo (Mem.erase m a) = true
  | _, [], _ => rfl
  | lo, (k, v) :: m, h => by
    simp only [Mem.wfFrom, Bool.and_eq_true, decide_eq_true_eq] at h
    unfold Mem.erase
    split
    · exact Mem.wfFrom_mono (by omega) (Mem.erase_wfFrom a h.2)
    · simp only [Mem.wfFrom, Bool.and_eq_true, decide_eq_true_eq]
      exact ⟨h.1, Mem.erase_wfFrom a h.2⟩

theorem Mem.set_wfFrom (a : Nat) (v : Byte) :
    ∀ {lo : Nat} {m : Mem}, lo ≤ a → Mem.wfFrom lo m = true → Mem.wfFrom lo (Mem.set m a v) = true
  | lo, [], hl, _ => by
    unfold Mem.set
    split
    · rfl
    · simp only [Mem.wfFrom, Bool.and_eq_true, decide_eq_true_eq]
      exact ⟨⟨hl, ‹_›⟩, trivial⟩
  | lo, (k, w) :: m, hl, h => by
    simp only [Mem.wfFrom, Bool.and_eq_true, decide_eq_true_eq] at h
    unfold Mem.set
    split
    · simp only [Mem.wfFrom, Bool.and_eq_true, decide_eq_true_eq]
      exact ⟨h.1, Mem.set_wfFrom a v (by omega) h.2⟩
    · split
      · split
        · exact Mem.wfFrom_mono (by omega) (Mem.erase_wfFrom a h.2)
        · simp only [Mem.wfFrom, Bool.and_eq_true, decide_eq_true_eq]
          exact ⟨⟨hl, ‹_›⟩, by subst_vars; exact h.2⟩
      · split
        · simp only [Mem.wfFrom, Bool.and_eq_true, decide_eq_true_eq]
          exact ⟨h.1, Mem.erase_wfFrom a h.2⟩
        · simp only [Mem.wfFrom, Bool.and_eq_true, decide_eq_true_eq]
          exact ⟨⟨hl, ‹_›⟩, ⟨⟨by omega, h.1.2⟩, h.2⟩⟩

/-- Writing one byte keeps the canonical form. -/
theorem Mem.set_wf {m : Mem} (a : Nat) (v : Byte) (h : Mem.wf m = true) : Mem.wf (Mem.set m a v) = true :=
  Mem.set_wfFrom a v (Nat.zero_le a) h

/-- Writing bytes keeps the canonical form. -/
theorem Mem.write_wf : ∀ {m : Mem} (a : Nat) (bs : List Byte), Mem.wf m = true → Mem.wf (Mem.write m a bs) = true
  | _, _, [], h => h
  | _, a, b :: bs, h => Mem.write_wf (a + 1) bs (Mem.set_wf a b h)

/-- An empty memory is in canonical form. -/
@[simp] theorem Mem.nil_wf : Mem.wf [] = true := rfl

/-- Read after writing bytes from an address up. -/
theorem Mem.get_write (m : Mem) (a b : Nat) (bs : List Byte) :
    Mem.get (Mem.write m a bs) b = if a ≤ b ∧ b < a + bs.length then bs.getD (b - a) 0 else Mem.get m b := by
  induction bs generalizing m a with
  | nil =>
    have : ¬ (a ≤ b ∧ b < a + ([] : List Byte).length) := by simp
    rw [if_neg this]; rfl
  | cons x xs ih =>
    rw [Mem.write, ih]
    by_cases h : a + 1 ≤ b ∧ b < a + 1 + xs.length
    · have h2 : a ≤ b ∧ b < a + (x :: xs).length := by simp; omega
      rw [if_pos h, if_pos h2]
      have : b - a = (b - (a + 1)) + 1 := by omega
      rw [this]; rfl
    · rw [if_neg h, Mem.get_set]
      by_cases hb : b = a
      · subst hb; simp
      · have h2 : ¬ (a ≤ b ∧ b < a + (x :: xs).length) := by simp; omega
        rw [if_neg hb, if_neg h2]

/-- A byte outside the bytes written is what it was. -/
theorem Mem.get_write_other (m : Mem) (a b : Nat) (bs : List Byte) (h : b < a ∨ a + bs.length ≤ b) :
    Mem.get (Mem.write m a bs) b = Mem.get m b := by
  rw [Mem.get_write, if_neg (by omega)]

/-- Two canonical memories that read the same at every address are equal. -/
theorem Mem.ext_wfFrom : ∀ {lo : Nat} {m n : Mem}, Mem.wfFrom lo m = true → Mem.wfFrom lo n = true →
    (∀ a, Mem.get m a = Mem.get n a) → m = n
  | _, [], [], _, _, _ => rfl
  | _, [], (k, v) :: n, _, hn, h => by
    simp only [Mem.wfFrom, Bool.and_eq_true, decide_eq_true_eq] at hn
    exact absurd (by simpa [Mem.get] using (h k).symm) hn.1.2
  | _, (k, v) :: m, [], hm, _, h => by
    simp only [Mem.wfFrom, Bool.and_eq_true, decide_eq_true_eq] at hm
    exact absurd (by simpa [Mem.get] using h k) hm.1.2
  | lo, (k, v) :: m, (j, w) :: n, hm, hn, h => by
    simp only [Mem.wfFrom, Bool.and_eq_true, decide_eq_true_eq] at hm hn
    have hk := h k
    have hj := h j
    have e : k = j := by
      rcases Nat.lt_trichotomy k j with hlt | he | hgt
      · have h1 : j ≠ k := by omega
        simp only [Mem.get, if_true, if_neg h1] at hk
        exact absurd (hk.trans (Mem.get_of_lt hn.2 (by omega))) hm.1.2
      · exact he
      · have h1 : k ≠ j := by omega
        simp only [Mem.get, if_true, if_neg h1] at hj
        exact absurd (hj.symm.trans (Mem.get_of_lt hm.2 (by omega))) hn.1.2
    subst e
    have hv : v = w := by simpa [Mem.get] using hk
    subst hv
    refine congrArg _ (Mem.ext_wfFrom hm.2 hn.2 fun a => ?_)
    by_cases ha : a = k
    · subst ha
      rw [Mem.get_of_lt hm.2 (by omega), Mem.get_of_lt hn.2 (by omega)]
    · have hka : k ≠ a := fun e => ha e.symm
      simpa [Mem.get, hka] using h a

/-- Equal memories are equal data: two canonical memories that read the same are the same list. -/
theorem Mem.ext_wf {m n : Mem} (hm : Mem.wf m = true) (hn : Mem.wf n = true) (h : ∀ a, Mem.get m a = Mem.get n a) : m = n :=
  Mem.ext_wfFrom hm hn h

end Sys2Proof.Machine
end

