-- ==== Sys2Proof/Laws/State.lean ====
section
/-!
SUPPORT. Small lemmas about the state record: which fields each of the named updates of cores, strands and registers
leaves alone, and what it puts into the others.
-/

namespace Sys2Proof.Machine

/-! ### What updates of cores and strands leave of the state -/

@[simp] theorem State.setCore_agenda (s : State) (c : Nat) (k : Core) : (s.setCore c k).agenda = s.agenda := rfl
@[simp] theorem State.setCore_arg (s : State) (c : Nat) (k : Core) : (s.setCore c k).arg = s.arg := rfl
@[simp] theorem State.setCore_cur (s : State) (c : Nat) (k : Core) : (s.setCore c k).cur = s.cur := rfl
@[simp] theorem State.setCore_slot (s : State) (c : Nat) (k : Core) : (s.setCore c k).slot = s.slot := rfl
@[simp] theorem State.setCore_paired (s : State) (c : Nat) (k : Core) : (s.setCore c k).paired = s.paired := rfl
@[simp] theorem State.setCore_free (s : State) (c : Nat) (k : Core) : (s.setCore c k).free = s.free := rfl
@[simp] theorem State.setCore_cyc (s : State) (c : Nat) (k : Core) : (s.setCore c k).cyc = s.cyc := rfl
@[simp] theorem State.setCore_time (s : State) (c : Nat) (k : Core) : (s.setCore c k).time = s.time := rfl
@[simp] theorem State.setCore_groups (s : State) (c : Nat) (k : Core) : (s.setCore c k).groups = s.groups := rfl
@[simp] theorem State.setCore_gddr (s : State) (c : Nat) (k : Core) : (s.setCore c k).gddr = s.gddr := rfl
@[simp] theorem State.setCore_l2 (s : State) (c : Nat) (k : Core) : (s.setCore c k).l2 = s.l2 := rfl
@[simp] theorem State.setCore_poison (s : State) (c : Nat) (k : Core) : (s.setCore c k).poison = s.poison := rfl
@[simp] theorem State.setCore_peerPoison (s : State) (c : Nat) (k : Core) : (s.setCore c k).peerPoison = s.peerPoison := rfl
@[simp] theorem State.setCore_checks (s : State) (c : Nat) (k : Core) : (s.setCore c k).checks = s.checks := rfl
@[simp] theorem State.setCore_past (s : State) (c : Nat) (k : Core) : (s.setCore c k).past = s.past := rfl
@[simp] theorem State.setCore_known (s : State) (c : Nat) (k : Core) : (s.setCore c k).known = s.known := rfl
@[simp] theorem State.setCore_vows (s : State) (c : Nat) (k : Core) : (s.setCore c k).vows = s.vows := rfl
@[simp] theorem State.setCore_host (s : State) (c : Nat) (k : Core) : (s.setCore c k).host = s.host := rfl
@[simp] theorem State.setCore_peers (s : State) (c : Nat) (k : Core) : (s.setCore c k).peers = s.peers := rfl
@[simp] theorem State.setCore_ports (s : State) (c : Nat) (k : Core) : (s.setCore c k).ports = s.ports := rfl
@[simp] theorem State.setCore_dirs (s : State) (c : Nat) (k : Core) : (s.setCore c k).dirs = s.dirs := rfl
@[simp] theorem State.setCore_keys (s : State) (c : Nat) (k : Core) : (s.setCore c k).keys = s.keys := rfl
@[simp] theorem State.setCore_rank (s : State) (c : Nat) (k : Core) : (s.setCore c k).rank = s.rank := rfl
@[simp] theorem State.setCore_winSize (s : State) (c : Nat) (k : Core) : (s.setCore c k).winSize = s.winSize := rfl
@[simp] theorem State.setCore_gwait (s : State) (c : Nat) (k : Core) : (s.setCore c k).gwait = s.gwait := rfl
@[simp] theorem State.setCore_increments (s : State) (c : Nat) (k : Core) : (s.setCore c k).increments = s.increments := rfl
@[simp] theorem State.setCore_saved (s : State) (c : Nat) (k : Core) : (s.setCore c k).saved = s.saved := rfl
@[simp] theorem State.setCore_ending (s : State) (c : Nat) (k : Core) : (s.setCore c k).ending = s.ending := rfl
@[simp] theorem State.setCore_bars (s : State) (c : Nat) (k : Core) : (s.setCore c k).bars = s.bars := rfl
@[simp] theorem State.setCore_barArr (s : State) (c : Nat) (k : Core) : (s.setCore c k).barArr = s.barArr := rfl
@[simp] theorem State.setCore_barDue (s : State) (c : Nat) (k : Core) : (s.setCore c k).barDue = s.barDue := rfl
@[simp] theorem State.setCore_barClk (s : State) (c : Nat) (k : Core) : (s.setCore c k).barClk = s.barClk := rfl
@[simp] theorem State.setCore_barCount (s : State) (c : Nat) (k : Core) : (s.setCore c k).barCount = s.barCount := rfl
@[simp] theorem State.setCore_tmbs (s : State) (c : Nat) (k : Core) : (s.setCore c k).tmbs = s.tmbs := rfl
@[simp] theorem State.setCore_tinvs (s : State) (c : Nat) (k : Core) : (s.setCore c k).tinvs = s.tinvs := rfl
@[simp] theorem State.setCore_peerNoKey (s : State) (c : Nat) (k : Core) : (s.setCore c k).peerNoKey = s.peerNoKey := rfl
@[simp] theorem State.setCore_unreach (s : State) (c : Nat) (k : Core) : (s.setCore c k).unreach = s.unreach := rfl
@[simp] theorem State.setCore_blackBox (s : State) (c : Nat) (k : Core) : (s.setCore c k).blackBox = s.blackBox := rfl
@[simp] theorem State.setCore_bbFrozen (s : State) (c : Nat) (k : Core) : (s.setCore c k).bbFrozen = s.bbFrozen := rfl
@[simp] theorem State.setCore_slices (s : State) (c : Nat) (k : Core) : (s.setCore c k).slices = s.slices := rfl
@[simp] theorem State.setCore_fe (s : State) (c : Nat) (k : Core) : (s.setCore c k).fe = s.fe := rfl
@[simp] theorem State.setCore_streams (s : State) (c : Nat) (k : Core) : (s.setCore c k).streams = s.streams := rfl
@[simp] theorem State.setCore_fab (s : State) (c : Nat) (k : Core) : (s.setCore c k).fab = s.fab := rfl
@[simp] theorem State.setCore_mg (s : State) (c : Nat) (k : Core) : (s.setCore c k).mg = s.mg := rfl
@[simp] theorem State.setCore_half (s : State) (c : Nat) (k : Core) : (s.setCore c k).half = s.half := rfl
@[simp] theorem State.setCore_tick (s : State) (c : Nat) (k : Core) : (s.setCore c k).tick = s.tick := rfl
@[simp] theorem State.setCore_served (s : State) (c : Nat) (k : Core) : (s.setCore c k).served = s.served := rfl

@[simp] theorem State.modCore_agenda (s : State) (c : Nat) (f : Core → Core) : (s.modCore c f).agenda = s.agenda := rfl
@[simp] theorem State.modCore_arg (s : State) (c : Nat) (f : Core → Core) : (s.modCore c f).arg = s.arg := rfl
@[simp] theorem State.modCore_cur (s : State) (c : Nat) (f : Core → Core) : (s.modCore c f).cur = s.cur := rfl
@[simp] theorem State.modCore_slot (s : State) (c : Nat) (f : Core → Core) : (s.modCore c f).slot = s.slot := rfl
@[simp] theorem State.modCore_paired (s : State) (c : Nat) (f : Core → Core) : (s.modCore c f).paired = s.paired := rfl
@[simp] theorem State.modCore_free (s : State) (c : Nat) (f : Core → Core) : (s.modCore c f).free = s.free := rfl
@[simp] theorem State.modCore_cyc (s : State) (c : Nat) (f : Core → Core) : (s.modCore c f).cyc = s.cyc := rfl
@[simp] theorem State.modCore_time (s : State) (c : Nat) (f : Core → Core) : (s.modCore c f).time = s.time := rfl
@[simp] theorem State.modCore_groups (s : State) (c : Nat) (f : Core → Core) : (s.modCore c f).groups = s.groups := rfl
@[simp] theorem State.modCore_gddr (s : State) (c : Nat) (f : Core → Core) : (s.modCore c f).gddr = s.gddr := rfl
@[simp] theorem State.modCore_l2 (s : State) (c : Nat) (f : Core → Core) : (s.modCore c f).l2 = s.l2 := rfl
@[simp] theorem State.modCore_poison (s : State) (c : Nat) (f : Core → Core) : (s.modCore c f).poison = s.poison := rfl
@[simp] theorem State.modCore_peerPoison (s : State) (c : Nat) (f : Core → Core) : (s.modCore c f).peerPoison = s.peerPoison := rfl
@[simp] theorem State.modCore_checks (s : State) (c : Nat) (f : Core → Core) : (s.modCore c f).checks = s.checks := rfl
@[simp] theorem State.modCore_past (s : State) (c : Nat) (f : Core → Core) : (s.modCore c f).past = s.past := rfl
@[simp] theorem State.modCore_known (s : State) (c : Nat) (f : Core → Core) : (s.modCore c f).known = s.known := rfl
@[simp] theorem State.modCore_vows (s : State) (c : Nat) (f : Core → Core) : (s.modCore c f).vows = s.vows := rfl
@[simp] theorem State.modCore_host (s : State) (c : Nat) (f : Core → Core) : (s.modCore c f).host = s.host := rfl
@[simp] theorem State.modCore_peers (s : State) (c : Nat) (f : Core → Core) : (s.modCore c f).peers = s.peers := rfl
@[simp] theorem State.modCore_ports (s : State) (c : Nat) (f : Core → Core) : (s.modCore c f).ports = s.ports := rfl
@[simp] theorem State.modCore_dirs (s : State) (c : Nat) (f : Core → Core) : (s.modCore c f).dirs = s.dirs := rfl
@[simp] theorem State.modCore_keys (s : State) (c : Nat) (f : Core → Core) : (s.modCore c f).keys = s.keys := rfl
@[simp] theorem State.modCore_rank (s : State) (c : Nat) (f : Core → Core) : (s.modCore c f).rank = s.rank := rfl
@[simp] theorem State.modCore_winSize (s : State) (c : Nat) (f : Core → Core) : (s.modCore c f).winSize = s.winSize := rfl
@[simp] theorem State.modCore_gwait (s : State) (c : Nat) (f : Core → Core) : (s.modCore c f).gwait = s.gwait := rfl
@[simp] theorem State.modCore_increments (s : State) (c : Nat) (f : Core → Core) : (s.modCore c f).increments = s.increments := rfl
@[simp] theorem State.modCore_saved (s : State) (c : Nat) (f : Core → Core) : (s.modCore c f).saved = s.saved := rfl
@[simp] theorem State.modCore_ending (s : State) (c : Nat) (f : Core → Core) : (s.modCore c f).ending = s.ending := rfl
@[simp] theorem State.modCore_bars (s : State) (c : Nat) (f : Core → Core) : (s.modCore c f).bars = s.bars := rfl
@[simp] theorem State.modCore_barArr (s : State) (c : Nat) (f : Core → Core) : (s.modCore c f).barArr = s.barArr := rfl
@[simp] theorem State.modCore_barDue (s : State) (c : Nat) (f : Core → Core) : (s.modCore c f).barDue = s.barDue := rfl
@[simp] theorem State.modCore_barClk (s : State) (c : Nat) (f : Core → Core) : (s.modCore c f).barClk = s.barClk := rfl
@[simp] theorem State.modCore_barCount (s : State) (c : Nat) (f : Core → Core) : (s.modCore c f).barCount = s.barCount := rfl
@[simp] theorem State.modCore_tmbs (s : State) (c : Nat) (f : Core → Core) : (s.modCore c f).tmbs = s.tmbs := rfl
@[simp] theorem State.modCore_tinvs (s : State) (c : Nat) (f : Core → Core) : (s.modCore c f).tinvs = s.tinvs := rfl
@[simp] theorem State.modCore_peerNoKey (s : State) (c : Nat) (f : Core → Core) : (s.modCore c f).peerNoKey = s.peerNoKey := rfl
@[simp] theorem State.modCore_unreach (s : State) (c : Nat) (f : Core → Core) : (s.modCore c f).unreach = s.unreach := rfl
@[simp] theorem State.modCore_blackBox (s : State) (c : Nat) (f : Core → Core) : (s.modCore c f).blackBox = s.blackBox := rfl
@[simp] theorem State.modCore_bbFrozen (s : State) (c : Nat) (f : Core → Core) : (s.modCore c f).bbFrozen = s.bbFrozen := rfl
@[simp] theorem State.modCore_slices (s : State) (c : Nat) (f : Core → Core) : (s.modCore c f).slices = s.slices := rfl
@[simp] theorem State.modCore_fe (s : State) (c : Nat) (f : Core → Core) : (s.modCore c f).fe = s.fe := rfl
@[simp] theorem State.modCore_streams (s : State) (c : Nat) (f : Core → Core) : (s.modCore c f).streams = s.streams := rfl
@[simp] theorem State.modCore_fab (s : State) (c : Nat) (f : Core → Core) : (s.modCore c f).fab = s.fab := rfl
@[simp] theorem State.modCore_mg (s : State) (c : Nat) (f : Core → Core) : (s.modCore c f).mg = s.mg := rfl
@[simp] theorem State.modCore_half (s : State) (c : Nat) (f : Core → Core) : (s.modCore c f).half = s.half := rfl
@[simp] theorem State.modCore_tick (s : State) (c : Nat) (f : Core → Core) : (s.modCore c f).tick = s.tick := rfl
@[simp] theorem State.modCore_served (s : State) (c : Nat) (f : Core → Core) : (s.modCore c f).served = s.served := rfl

@[simp] theorem State.setStrand_agenda (s : State) (c h : Nat) (st : Strand) : (s.setStrand c h st).agenda = s.agenda := rfl
@[simp] theorem State.setStrand_arg (s : State) (c h : Nat) (st : Strand) : (s.setStrand c h st).arg = s.arg := rfl
@[simp] theorem State.setStrand_cur (s : State) (c h : Nat) (st : Strand) : (s.setStrand c h st).cur = s.cur := rfl
@[simp] theorem State.setStrand_slot (s : State) (c h : Nat) (st : Strand) : (s.setStrand c h st).slot = s.slot := rfl
@[simp] theorem State.setStrand_paired (s : State) (c h : Nat) (st : Strand) : (s.setStrand c h st).paired = s.paired := rfl
@[simp] theorem State.setStrand_free (s : State) (c h : Nat) (st : Strand) : (s.setStrand c h st).free = s.free := rfl
@[simp] theorem State.setStrand_cyc (s : State) (c h : Nat) (st : Strand) : (s.setStrand c h st).cyc = s.cyc := rfl
@[simp] theorem State.setStrand_time (s : State) (c h : Nat) (st : Strand) : (s.setStrand c h st).time = s.time := rfl
@[simp] theorem State.setStrand_groups (s : State) (c h : Nat) (st : Strand) : (s.setStrand c h st).groups = s.groups := rfl
@[simp] theorem State.setStrand_gddr (s : State) (c h : Nat) (st : Strand) : (s.setStrand c h st).gddr = s.gddr := rfl
@[simp] theorem State.setStrand_l2 (s : State) (c h : Nat) (st : Strand) : (s.setStrand c h st).l2 = s.l2 := rfl
@[simp] theorem State.setStrand_poison (s : State) (c h : Nat) (st : Strand) : (s.setStrand c h st).poison = s.poison := rfl
@[simp] theorem State.setStrand_peerPoison (s : State) (c h : Nat) (st : Strand) : (s.setStrand c h st).peerPoison = s.peerPoison := rfl
@[simp] theorem State.setStrand_checks (s : State) (c h : Nat) (st : Strand) : (s.setStrand c h st).checks = s.checks := rfl
@[simp] theorem State.setStrand_past (s : State) (c h : Nat) (st : Strand) : (s.setStrand c h st).past = s.past := rfl
@[simp] theorem State.setStrand_known (s : State) (c h : Nat) (st : Strand) : (s.setStrand c h st).known = s.known := rfl
@[simp] theorem State.setStrand_vows (s : State) (c h : Nat) (st : Strand) : (s.setStrand c h st).vows = s.vows := rfl
@[simp] theorem State.setStrand_host (s : State) (c h : Nat) (st : Strand) : (s.setStrand c h st).host = s.host := rfl
@[simp] theorem State.setStrand_peers (s : State) (c h : Nat) (st : Strand) : (s.setStrand c h st).peers = s.peers := rfl
@[simp] theorem State.setStrand_ports (s : State) (c h : Nat) (st : Strand) : (s.setStrand c h st).ports = s.ports := rfl
@[simp] theorem State.setStrand_dirs (s : State) (c h : Nat) (st : Strand) : (s.setStrand c h st).dirs = s.dirs := rfl
@[simp] theorem State.setStrand_keys (s : State) (c h : Nat) (st : Strand) : (s.setStrand c h st).keys = s.keys := rfl
@[simp] theorem State.setStrand_rank (s : State) (c h : Nat) (st : Strand) : (s.setStrand c h st).rank = s.rank := rfl
@[simp] theorem State.setStrand_winSize (s : State) (c h : Nat) (st : Strand) : (s.setStrand c h st).winSize = s.winSize := rfl
@[simp] theorem State.setStrand_gwait (s : State) (c h : Nat) (st : Strand) : (s.setStrand c h st).gwait = s.gwait := rfl
@[simp] theorem State.setStrand_increments (s : State) (c h : Nat) (st : Strand) : (s.setStrand c h st).increments = s.increments := rfl
@[simp] theorem State.setStrand_saved (s : State) (c h : Nat) (st : Strand) : (s.setStrand c h st).saved = s.saved := rfl
@[simp] theorem State.setStrand_ending (s : State) (c h : Nat) (st : Strand) : (s.setStrand c h st).ending = s.ending := rfl
@[simp] theorem State.setStrand_bars (s : State) (c h : Nat) (st : Strand) : (s.setStrand c h st).bars = s.bars := rfl
@[simp] theorem State.setStrand_barArr (s : State) (c h : Nat) (st : Strand) : (s.setStrand c h st).barArr = s.barArr := rfl
@[simp] theorem State.setStrand_barDue (s : State) (c h : Nat) (st : Strand) : (s.setStrand c h st).barDue = s.barDue := rfl
@[simp] theorem State.setStrand_barClk (s : State) (c h : Nat) (st : Strand) : (s.setStrand c h st).barClk = s.barClk := rfl
@[simp] theorem State.setStrand_barCount (s : State) (c h : Nat) (st : Strand) : (s.setStrand c h st).barCount = s.barCount := rfl
@[simp] theorem State.setStrand_tmbs (s : State) (c h : Nat) (st : Strand) : (s.setStrand c h st).tmbs = s.tmbs := rfl
@[simp] theorem State.setStrand_tinvs (s : State) (c h : Nat) (st : Strand) : (s.setStrand c h st).tinvs = s.tinvs := rfl
@[simp] theorem State.setStrand_peerNoKey (s : State) (c h : Nat) (st : Strand) : (s.setStrand c h st).peerNoKey = s.peerNoKey := rfl
@[simp] theorem State.setStrand_unreach (s : State) (c h : Nat) (st : Strand) : (s.setStrand c h st).unreach = s.unreach := rfl
@[simp] theorem State.setStrand_blackBox (s : State) (c h : Nat) (st : Strand) : (s.setStrand c h st).blackBox = s.blackBox := rfl
@[simp] theorem State.setStrand_bbFrozen (s : State) (c h : Nat) (st : Strand) : (s.setStrand c h st).bbFrozen = s.bbFrozen := rfl
@[simp] theorem State.setStrand_slices (s : State) (c h : Nat) (st : Strand) : (s.setStrand c h st).slices = s.slices := rfl
@[simp] theorem State.setStrand_fe (s : State) (c h : Nat) (st : Strand) : (s.setStrand c h st).fe = s.fe := rfl
@[simp] theorem State.setStrand_streams (s : State) (c h : Nat) (st : Strand) : (s.setStrand c h st).streams = s.streams := rfl
@[simp] theorem State.setStrand_fab (s : State) (c h : Nat) (st : Strand) : (s.setStrand c h st).fab = s.fab := rfl
@[simp] theorem State.setStrand_mg (s : State) (c h : Nat) (st : Strand) : (s.setStrand c h st).mg = s.mg := rfl
@[simp] theorem State.setStrand_half (s : State) (c h : Nat) (st : Strand) : (s.setStrand c h st).half = s.half := rfl
@[simp] theorem State.setStrand_tick (s : State) (c h : Nat) (st : Strand) : (s.setStrand c h st).tick = s.tick := rfl
@[simp] theorem State.setStrand_served (s : State) (c h : Nat) (st : Strand) : (s.setStrand c h st).served = s.served := rfl

@[simp] theorem State.modStrand_agenda (s : State) (c h : Nat) (f : Strand → Strand) : (s.modStrand c h f).agenda = s.agenda := rfl
@[simp] theorem State.modStrand_arg (s : State) (c h : Nat) (f : Strand → Strand) : (s.modStrand c h f).arg = s.arg := rfl
@[simp] theorem State.modStrand_cur (s : State) (c h : Nat) (f : Strand → Strand) : (s.modStrand c h f).cur = s.cur := rfl
@[simp] theorem State.modStrand_slot (s : State) (c h : Nat) (f : Strand → Strand) : (s.modStrand c h f).slot = s.slot := rfl
@[simp] theorem State.modStrand_paired (s : State) (c h : Nat) (f : Strand → Strand) : (s.modStrand c h f).paired = s.paired := rfl
@[simp] theorem State.modStrand_free (s : State) (c h : Nat) (f : Strand → Strand) : (s.modStrand c h f).free = s.free := rfl
@[simp] theorem State.modStrand_cyc (s : State) (c h : Nat) (f : Strand → Strand) : (s.modStrand c h f).cyc = s.cyc := rfl
@[simp] theorem State.modStrand_time (s : State) (c h : Nat) (f : Strand → Strand) : (s.modStrand c h f).time = s.time := rfl
@[simp] theorem State.modStrand_groups (s : State) (c h : Nat) (f : Strand → Strand) : (s.modStrand c h f).groups = s.groups := rfl
@[simp] theorem State.modStrand_gddr (s : State) (c h : Nat) (f : Strand → Strand) : (s.modStrand c h f).gddr = s.gddr := rfl
@[simp] theorem State.modStrand_l2 (s : State) (c h : Nat) (f : Strand → Strand) : (s.modStrand c h f).l2 = s.l2 := rfl
@[simp] theorem State.modStrand_poison (s : State) (c h : Nat) (f : Strand → Strand) : (s.modStrand c h f).poison = s.poison := rfl
@[simp] theorem State.modStrand_peerPoison (s : State) (c h : Nat) (f : Strand → Strand) : (s.modStrand c h f).peerPoison = s.peerPoison := rfl
@[simp] theorem State.modStrand_checks (s : State) (c h : Nat) (f : Strand → Strand) : (s.modStrand c h f).checks = s.checks := rfl
@[simp] theorem State.modStrand_past (s : State) (c h : Nat) (f : Strand → Strand) : (s.modStrand c h f).past = s.past := rfl
@[simp] theorem State.modStrand_known (s : State) (c h : Nat) (f : Strand → Strand) : (s.modStrand c h f).known = s.known := rfl
@[simp] theorem State.modStrand_vows (s : State) (c h : Nat) (f : Strand → Strand) : (s.modStrand c h f).vows = s.vows := rfl
@[simp] theorem State.modStrand_host (s : State) (c h : Nat) (f : Strand → Strand) : (s.modStrand c h f).host = s.host := rfl
@[simp] theorem State.modStrand_peers (s : State) (c h : Nat) (f : Strand → Strand) : (s.modStrand c h f).peers = s.peers := rfl
@[simp] theorem State.modStrand_ports (s : State) (c h : Nat) (f : Strand → Strand) : (s.modStrand c h f).ports = s.ports := rfl
@[simp] theorem State.modStrand_dirs (s : State) (c h : Nat) (f : Strand → Strand) : (s.modStrand c h f).dirs = s.dirs := rfl
@[simp] theorem State.modStrand_keys (s : State) (c h : Nat) (f : Strand → Strand) : (s.modStrand c h f).keys = s.keys := rfl
@[simp] theorem State.modStrand_rank (s : State) (c h : Nat) (f : Strand → Strand) : (s.modStrand c h f).rank = s.rank := rfl
@[simp] theorem State.modStrand_winSize (s : State) (c h : Nat) (f : Strand → Strand) : (s.modStrand c h f).winSize = s.winSize := rfl
@[simp] theorem State.modStrand_gwait (s : State) (c h : Nat) (f : Strand → Strand) : (s.modStrand c h f).gwait = s.gwait := rfl
@[simp] theorem State.modStrand_increments (s : State) (c h : Nat) (f : Strand → Strand) : (s.modStrand c h f).increments = s.increments := rfl
@[simp] theorem State.modStrand_saved (s : State) (c h : Nat) (f : Strand → Strand) : (s.modStrand c h f).saved = s.saved := rfl
@[simp] theorem State.modStrand_ending (s : State) (c h : Nat) (f : Strand → Strand) : (s.modStrand c h f).ending = s.ending := rfl
@[simp] theorem State.modStrand_bars (s : State) (c h : Nat) (f : Strand → Strand) : (s.modStrand c h f).bars = s.bars := rfl
@[simp] theorem State.modStrand_barArr (s : State) (c h : Nat) (f : Strand → Strand) : (s.modStrand c h f).barArr = s.barArr := rfl
@[simp] theorem State.modStrand_barDue (s : State) (c h : Nat) (f : Strand → Strand) : (s.modStrand c h f).barDue = s.barDue := rfl
@[simp] theorem State.modStrand_barClk (s : State) (c h : Nat) (f : Strand → Strand) : (s.modStrand c h f).barClk = s.barClk := rfl
@[simp] theorem State.modStrand_barCount (s : State) (c h : Nat) (f : Strand → Strand) : (s.modStrand c h f).barCount = s.barCount := rfl
@[simp] theorem State.modStrand_tmbs (s : State) (c h : Nat) (f : Strand → Strand) : (s.modStrand c h f).tmbs = s.tmbs := rfl
@[simp] theorem State.modStrand_tinvs (s : State) (c h : Nat) (f : Strand → Strand) : (s.modStrand c h f).tinvs = s.tinvs := rfl
@[simp] theorem State.modStrand_peerNoKey (s : State) (c h : Nat) (f : Strand → Strand) : (s.modStrand c h f).peerNoKey = s.peerNoKey := rfl
@[simp] theorem State.modStrand_unreach (s : State) (c h : Nat) (f : Strand → Strand) : (s.modStrand c h f).unreach = s.unreach := rfl
@[simp] theorem State.modStrand_blackBox (s : State) (c h : Nat) (f : Strand → Strand) : (s.modStrand c h f).blackBox = s.blackBox := rfl
@[simp] theorem State.modStrand_bbFrozen (s : State) (c h : Nat) (f : Strand → Strand) : (s.modStrand c h f).bbFrozen = s.bbFrozen := rfl
@[simp] theorem State.modStrand_slices (s : State) (c h : Nat) (f : Strand → Strand) : (s.modStrand c h f).slices = s.slices := rfl
@[simp] theorem State.modStrand_fe (s : State) (c h : Nat) (f : Strand → Strand) : (s.modStrand c h f).fe = s.fe := rfl
@[simp] theorem State.modStrand_streams (s : State) (c h : Nat) (f : Strand → Strand) : (s.modStrand c h f).streams = s.streams := rfl
@[simp] theorem State.modStrand_fab (s : State) (c h : Nat) (f : Strand → Strand) : (s.modStrand c h f).fab = s.fab := rfl
@[simp] theorem State.modStrand_mg (s : State) (c h : Nat) (f : Strand → Strand) : (s.modStrand c h f).mg = s.mg := rfl
@[simp] theorem State.modStrand_half (s : State) (c h : Nat) (f : Strand → Strand) : (s.modStrand c h f).half = s.half := rfl
@[simp] theorem State.modStrand_tick (s : State) (c h : Nat) (f : Strand → Strand) : (s.modStrand c h f).tick = s.tick := rfl
@[simp] theorem State.modStrand_served (s : State) (c h : Nat) (f : Strand → Strand) : (s.modStrand c h f).served = s.served := rfl

@[simp] theorem State.modMe_agenda (s : State) (f : Strand → Strand) : (s.modMe f).agenda = s.agenda := rfl
@[simp] theorem State.modMe_arg (s : State) (f : Strand → Strand) : (s.modMe f).arg = s.arg := rfl
@[simp] theorem State.modMe_cur (s : State) (f : Strand → Strand) : (s.modMe f).cur = s.cur := rfl
@[simp] theorem State.modMe_slot (s : State) (f : Strand → Strand) : (s.modMe f).slot = s.slot := rfl
@[simp] theorem State.modMe_paired (s : State) (f : Strand → Strand) : (s.modMe f).paired = s.paired := rfl
@[simp] theorem State.modMe_free (s : State) (f : Strand → Strand) : (s.modMe f).free = s.free := rfl
@[simp] theorem State.modMe_cyc (s : State) (f : Strand → Strand) : (s.modMe f).cyc = s.cyc := rfl
@[simp] theorem State.modMe_time (s : State) (f : Strand → Strand) : (s.modMe f).time = s.time := rfl
@[simp] theorem State.modMe_groups (s : State) (f : Strand → Strand) : (s.modMe f).groups = s.groups := rfl
@[simp] theorem State.modMe_gddr (s : State) (f : Strand → Strand) : (s.modMe f).gddr = s.gddr := rfl
@[simp] theorem State.modMe_l2 (s : State) (f : Strand → Strand) : (s.modMe f).l2 = s.l2 := rfl
@[simp] theorem State.modMe_poison (s : State) (f : Strand → Strand) : (s.modMe f).poison = s.poison := rfl
@[simp] theorem State.modMe_peerPoison (s : State) (f : Strand → Strand) : (s.modMe f).peerPoison = s.peerPoison := rfl
@[simp] theorem State.modMe_checks (s : State) (f : Strand → Strand) : (s.modMe f).checks = s.checks := rfl
@[simp] theorem State.modMe_past (s : State) (f : Strand → Strand) : (s.modMe f).past = s.past := rfl
@[simp] theorem State.modMe_known (s : State) (f : Strand → Strand) : (s.modMe f).known = s.known := rfl
@[simp] theorem State.modMe_vows (s : State) (f : Strand → Strand) : (s.modMe f).vows = s.vows := rfl
@[simp] theorem State.modMe_host (s : State) (f : Strand → Strand) : (s.modMe f).host = s.host := rfl
@[simp] theorem State.modMe_peers (s : State) (f : Strand → Strand) : (s.modMe f).peers = s.peers := rfl
@[simp] theorem State.modMe_ports (s : State) (f : Strand → Strand) : (s.modMe f).ports = s.ports := rfl
@[simp] theorem State.modMe_dirs (s : State) (f : Strand → Strand) : (s.modMe f).dirs = s.dirs := rfl
@[simp] theorem State.modMe_keys (s : State) (f : Strand → Strand) : (s.modMe f).keys = s.keys := rfl
@[simp] theorem State.modMe_rank (s : State) (f : Strand → Strand) : (s.modMe f).rank = s.rank := rfl
@[simp] theorem State.modMe_winSize (s : State) (f : Strand → Strand) : (s.modMe f).winSize = s.winSize := rfl
@[simp] theorem State.modMe_gwait (s : State) (f : Strand → Strand) : (s.modMe f).gwait = s.gwait := rfl
@[simp] theorem State.modMe_increments (s : State) (f : Strand → Strand) : (s.modMe f).increments = s.increments := rfl
@[simp] theorem State.modMe_saved (s : State) (f : Strand → Strand) : (s.modMe f).saved = s.saved := rfl
@[simp] theorem State.modMe_ending (s : State) (f : Strand → Strand) : (s.modMe f).ending = s.ending := rfl
@[simp] theorem State.modMe_bars (s : State) (f : Strand → Strand) : (s.modMe f).bars = s.bars := rfl
@[simp] theorem State.modMe_barArr (s : State) (f : Strand → Strand) : (s.modMe f).barArr = s.barArr := rfl
@[simp] theorem State.modMe_barDue (s : State) (f : Strand → Strand) : (s.modMe f).barDue = s.barDue := rfl
@[simp] theorem State.modMe_barClk (s : State) (f : Strand → Strand) : (s.modMe f).barClk = s.barClk := rfl
@[simp] theorem State.modMe_barCount (s : State) (f : Strand → Strand) : (s.modMe f).barCount = s.barCount := rfl
@[simp] theorem State.modMe_tmbs (s : State) (f : Strand → Strand) : (s.modMe f).tmbs = s.tmbs := rfl
@[simp] theorem State.modMe_tinvs (s : State) (f : Strand → Strand) : (s.modMe f).tinvs = s.tinvs := rfl
@[simp] theorem State.modMe_peerNoKey (s : State) (f : Strand → Strand) : (s.modMe f).peerNoKey = s.peerNoKey := rfl
@[simp] theorem State.modMe_unreach (s : State) (f : Strand → Strand) : (s.modMe f).unreach = s.unreach := rfl
@[simp] theorem State.modMe_blackBox (s : State) (f : Strand → Strand) : (s.modMe f).blackBox = s.blackBox := rfl
@[simp] theorem State.modMe_bbFrozen (s : State) (f : Strand → Strand) : (s.modMe f).bbFrozen = s.bbFrozen := rfl
@[simp] theorem State.modMe_slices (s : State) (f : Strand → Strand) : (s.modMe f).slices = s.slices := rfl
@[simp] theorem State.modMe_fe (s : State) (f : Strand → Strand) : (s.modMe f).fe = s.fe := rfl
@[simp] theorem State.modMe_streams (s : State) (f : Strand → Strand) : (s.modMe f).streams = s.streams := rfl
@[simp] theorem State.modMe_fab (s : State) (f : Strand → Strand) : (s.modMe f).fab = s.fab := rfl
@[simp] theorem State.modMe_mg (s : State) (f : Strand → Strand) : (s.modMe f).mg = s.mg := rfl
@[simp] theorem State.modMe_half (s : State) (f : Strand → Strand) : (s.modMe f).half = s.half := rfl
@[simp] theorem State.modMe_tick (s : State) (f : Strand → Strand) : (s.modMe f).tick = s.tick := rfl
@[simp] theorem State.modMe_served (s : State) (f : Strand → Strand) : (s.modMe f).served = s.served := rfl

@[simp] theorem State.modMyCore_agenda (s : State) (f : Core → Core) : (s.modMyCore f).agenda = s.agenda := rfl
@[simp] theorem State.modMyCore_arg (s : State) (f : Core → Core) : (s.modMyCore f).arg = s.arg := rfl
@[simp] theorem State.modMyCore_cur (s : State) (f : Core → Core) : (s.modMyCore f).cur = s.cur := rfl
@[simp] theorem State.modMyCore_slot (s : State) (f : Core → Core) : (s.modMyCore f).slot = s.slot := rfl
@[simp] theorem State.modMyCore_paired (s : State) (f : Core → Core) : (s.modMyCore f).paired = s.paired := rfl
@[simp] theorem State.modMyCore_free (s : State) (f : Core → Core) : (s.modMyCore f).free = s.free := rfl
@[simp] theorem State.modMyCore_cyc (s : State) (f : Core → Core) : (s.modMyCore f).cyc = s.cyc := rfl
@[simp] theorem State.modMyCore_time (s : State) (f : Core → Core) : (s.modMyCore f).time = s.time := rfl
@[simp] theorem State.modMyCore_groups (s : State) (f : Core → Core) : (s.modMyCore f).groups = s.groups := rfl
@[simp] theorem State.modMyCore_gddr (s : State) (f : Core → Core) : (s.modMyCore f).gddr = s.gddr := rfl
@[simp] theorem State.modMyCore_l2 (s : State) (f : Core → Core) : (s.modMyCore f).l2 = s.l2 := rfl
@[simp] theorem State.modMyCore_poison (s : State) (f : Core → Core) : (s.modMyCore f).poison = s.poison := rfl
@[simp] theorem State.modMyCore_peerPoison (s : State) (f : Core → Core) : (s.modMyCore f).peerPoison = s.peerPoison := rfl
@[simp] theorem State.modMyCore_checks (s : State) (f : Core → Core) : (s.modMyCore f).checks = s.checks := rfl
@[simp] theorem State.modMyCore_past (s : State) (f : Core → Core) : (s.modMyCore f).past = s.past := rfl
@[simp] theorem State.modMyCore_known (s : State) (f : Core → Core) : (s.modMyCore f).known = s.known := rfl
@[simp] theorem State.modMyCore_vows (s : State) (f : Core → Core) : (s.modMyCore f).vows = s.vows := rfl
@[simp] theorem State.modMyCore_host (s : State) (f : Core → Core) : (s.modMyCore f).host = s.host := rfl
@[simp] theorem State.modMyCore_peers (s : State) (f : Core → Core) : (s.modMyCore f).peers = s.peers := rfl
@[simp] theorem State.modMyCore_ports (s : State) (f : Core → Core) : (s.modMyCore f).ports = s.ports := rfl
@[simp] theorem State.modMyCore_dirs (s : State) (f : Core → Core) : (s.modMyCore f).dirs = s.dirs := rfl
@[simp] theorem State.modMyCore_keys (s : State) (f : Core → Core) : (s.modMyCore f).keys = s.keys := rfl
@[simp] theorem State.modMyCore_rank (s : State) (f : Core → Core) : (s.modMyCore f).rank = s.rank := rfl
@[simp] theorem State.modMyCore_winSize (s : State) (f : Core → Core) : (s.modMyCore f).winSize = s.winSize := rfl
@[simp] theorem State.modMyCore_gwait (s : State) (f : Core → Core) : (s.modMyCore f).gwait = s.gwait := rfl
@[simp] theorem State.modMyCore_increments (s : State) (f : Core → Core) : (s.modMyCore f).increments = s.increments := rfl
@[simp] theorem State.modMyCore_saved (s : State) (f : Core → Core) : (s.modMyCore f).saved = s.saved := rfl
@[simp] theorem State.modMyCore_ending (s : State) (f : Core → Core) : (s.modMyCore f).ending = s.ending := rfl
@[simp] theorem State.modMyCore_bars (s : State) (f : Core → Core) : (s.modMyCore f).bars = s.bars := rfl
@[simp] theorem State.modMyCore_barArr (s : State) (f : Core → Core) : (s.modMyCore f).barArr = s.barArr := rfl
@[simp] theorem State.modMyCore_barDue (s : State) (f : Core → Core) : (s.modMyCore f).barDue = s.barDue := rfl
@[simp] theorem State.modMyCore_barClk (s : State) (f : Core → Core) : (s.modMyCore f).barClk = s.barClk := rfl
@[simp] theorem State.modMyCore_barCount (s : State) (f : Core → Core) : (s.modMyCore f).barCount = s.barCount := rfl
@[simp] theorem State.modMyCore_tmbs (s : State) (f : Core → Core) : (s.modMyCore f).tmbs = s.tmbs := rfl
@[simp] theorem State.modMyCore_tinvs (s : State) (f : Core → Core) : (s.modMyCore f).tinvs = s.tinvs := rfl
@[simp] theorem State.modMyCore_peerNoKey (s : State) (f : Core → Core) : (s.modMyCore f).peerNoKey = s.peerNoKey := rfl
@[simp] theorem State.modMyCore_unreach (s : State) (f : Core → Core) : (s.modMyCore f).unreach = s.unreach := rfl
@[simp] theorem State.modMyCore_blackBox (s : State) (f : Core → Core) : (s.modMyCore f).blackBox = s.blackBox := rfl
@[simp] theorem State.modMyCore_bbFrozen (s : State) (f : Core → Core) : (s.modMyCore f).bbFrozen = s.bbFrozen := rfl
@[simp] theorem State.modMyCore_slices (s : State) (f : Core → Core) : (s.modMyCore f).slices = s.slices := rfl
@[simp] theorem State.modMyCore_fe (s : State) (f : Core → Core) : (s.modMyCore f).fe = s.fe := rfl
@[simp] theorem State.modMyCore_streams (s : State) (f : Core → Core) : (s.modMyCore f).streams = s.streams := rfl
@[simp] theorem State.modMyCore_fab (s : State) (f : Core → Core) : (s.modMyCore f).fab = s.fab := rfl
@[simp] theorem State.modMyCore_mg (s : State) (f : Core → Core) : (s.modMyCore f).mg = s.mg := rfl
@[simp] theorem State.modMyCore_half (s : State) (f : Core → Core) : (s.modMyCore f).half = s.half := rfl
@[simp] theorem State.modMyCore_tick (s : State) (f : Core → Core) : (s.modMyCore f).tick = s.tick := rfl
@[simp] theorem State.modMyCore_served (s : State) (f : Core → Core) : (s.modMyCore f).served = s.served := rfl

@[simp] theorem State.wx_agenda (s : State) (r : BitVec 6) (v : W64) : (s.wx r v).agenda = s.agenda := rfl
@[simp] theorem State.wx_arg (s : State) (r : BitVec 6) (v : W64) : (s.wx r v).arg = s.arg := rfl
@[simp] theorem State.wx_cur (s : State) (r : BitVec 6) (v : W64) : (s.wx r v).cur = s.cur := rfl
@[simp] theorem State.wx_slot (s : State) (r : BitVec 6) (v : W64) : (s.wx r v).slot = s.slot := rfl
@[simp] theorem State.wx_paired (s : State) (r : BitVec 6) (v : W64) : (s.wx r v).paired = s.paired := rfl
@[simp] theorem State.wx_free (s : State) (r : BitVec 6) (v : W64) : (s.wx r v).free = s.free := rfl
@[simp] theorem State.wx_cyc (s : State) (r : BitVec 6) (v : W64) : (s.wx r v).cyc = s.cyc := rfl
@[simp] theorem State.wx_time (s : State) (r : BitVec 6) (v : W64) : (s.wx r v).time = s.time := rfl
@[simp] theorem State.wx_groups (s : State) (r : BitVec 6) (v : W64) : (s.wx r v).groups = s.groups := rfl
@[simp] theorem State.wx_gddr (s : State) (r : BitVec 6) (v : W64) : (s.wx r v).gddr = s.gddr := rfl
@[simp] theorem State.wx_l2 (s : State) (r : BitVec 6) (v : W64) : (s.wx r v).l2 = s.l2 := rfl
@[simp] theorem State.wx_poison (s : State) (r : BitVec 6) (v : W64) : (s.wx r v).poison = s.poison := rfl
@[simp] theorem State.wx_peerPoison (s : State) (r : BitVec 6) (v : W64) : (s.wx r v).peerPoison = s.peerPoison := rfl
@[simp] theorem State.wx_checks (s : State) (r : BitVec 6) (v : W64) : (s.wx r v).checks = s.checks := rfl
@[simp] theorem State.wx_past (s : State) (r : BitVec 6) (v : W64) : (s.wx r v).past = s.past := rfl
@[simp] theorem State.wx_known (s : State) (r : BitVec 6) (v : W64) : (s.wx r v).known = s.known := rfl
@[simp] theorem State.wx_vows (s : State) (r : BitVec 6) (v : W64) : (s.wx r v).vows = s.vows := rfl
@[simp] theorem State.wx_host (s : State) (r : BitVec 6) (v : W64) : (s.wx r v).host = s.host := rfl
@[simp] theorem State.wx_peers (s : State) (r : BitVec 6) (v : W64) : (s.wx r v).peers = s.peers := rfl
@[simp] theorem State.wx_ports (s : State) (r : BitVec 6) (v : W64) : (s.wx r v).ports = s.ports := rfl
@[simp] theorem State.wx_dirs (s : State) (r : BitVec 6) (v : W64) : (s.wx r v).dirs = s.dirs := rfl
@[simp] theorem State.wx_keys (s : State) (r : BitVec 6) (v : W64) : (s.wx r v).keys = s.keys := rfl
@[simp] theorem State.wx_rank (s : State) (r : BitVec 6) (v : W64) : (s.wx r v).rank = s.rank := rfl
@[simp] theorem State.wx_winSize (s : State) (r : BitVec 6) (v : W64) : (s.wx r v).winSize = s.winSize := rfl
@[simp] theorem State.wx_gwait (s : State) (r : BitVec 6) (v : W64) : (s.wx r v).gwait = s.gwait := rfl
@[simp] theorem State.wx_increments (s : State) (r : BitVec 6) (v : W64) : (s.wx r v).increments = s.increments := rfl
@[simp] theorem State.wx_saved (s : State) (r : BitVec 6) (v : W64) : (s.wx r v).saved = s.saved := rfl
@[simp] theorem State.wx_ending (s : State) (r : BitVec 6) (v : W64) : (s.wx r v).ending = s.ending := rfl
@[simp] theorem State.wx_bars (s : State) (r : BitVec 6) (v : W64) : (s.wx r v).bars = s.bars := rfl
@[simp] theorem State.wx_barArr (s : State) (r : BitVec 6) (v : W64) : (s.wx r v).barArr = s.barArr := rfl
@[simp] theorem State.wx_barDue (s : State) (r : BitVec 6) (v : W64) : (s.wx r v).barDue = s.barDue := rfl
@[simp] theorem State.wx_barClk (s : State) (r : BitVec 6) (v : W64) : (s.wx r v).barClk = s.barClk := rfl
@[simp] theorem State.wx_barCount (s : State) (r : BitVec 6) (v : W64) : (s.wx r v).barCount = s.barCount := rfl
@[simp] theorem State.wx_tmbs (s : State) (r : BitVec 6) (v : W64) : (s.wx r v).tmbs = s.tmbs := rfl
@[simp] theorem State.wx_tinvs (s : State) (r : BitVec 6) (v : W64) : (s.wx r v).tinvs = s.tinvs := rfl
@[simp] theorem State.wx_peerNoKey (s : State) (r : BitVec 6) (v : W64) : (s.wx r v).peerNoKey = s.peerNoKey := rfl
@[simp] theorem State.wx_unreach (s : State) (r : BitVec 6) (v : W64) : (s.wx r v).unreach = s.unreach := rfl
@[simp] theorem State.wx_blackBox (s : State) (r : BitVec 6) (v : W64) : (s.wx r v).blackBox = s.blackBox := rfl
@[simp] theorem State.wx_bbFrozen (s : State) (r : BitVec 6) (v : W64) : (s.wx r v).bbFrozen = s.bbFrozen := rfl
@[simp] theorem State.wx_slices (s : State) (r : BitVec 6) (v : W64) : (s.wx r v).slices = s.slices := rfl
@[simp] theorem State.wx_fe (s : State) (r : BitVec 6) (v : W64) : (s.wx r v).fe = s.fe := rfl
@[simp] theorem State.wx_streams (s : State) (r : BitVec 6) (v : W64) : (s.wx r v).streams = s.streams := rfl
@[simp] theorem State.wx_fab (s : State) (r : BitVec 6) (v : W64) : (s.wx r v).fab = s.fab := rfl
@[simp] theorem State.wx_mg (s : State) (r : BitVec 6) (v : W64) : (s.wx r v).mg = s.mg := rfl
@[simp] theorem State.wx_half (s : State) (r : BitVec 6) (v : W64) : (s.wx r v).half = s.half := rfl
@[simp] theorem State.wx_tick (s : State) (r : BitVec 6) (v : W64) : (s.wx r v).tick = s.tick := rfl
@[simp] theorem State.wx_served (s : State) (r : BitVec 6) (v : W64) : (s.wx r v).served = s.served := rfl

@[simp] theorem State.finish_agenda (s : State) : (s.finish).agenda = s.agenda := rfl
@[simp] theorem State.finish_arg (s : State) : (s.finish).arg = s.arg := rfl
@[simp] theorem State.finish_cur (s : State) : (s.finish).cur = s.cur := rfl
@[simp] theorem State.finish_slot (s : State) : (s.finish).slot = s.slot := rfl
@[simp] theorem State.finish_paired (s : State) : (s.finish).paired = s.paired := rfl
@[simp] theorem State.finish_free (s : State) : (s.finish).free = s.free := rfl
@[simp] theorem State.finish_cyc (s : State) : (s.finish).cyc = s.cyc := rfl
@[simp] theorem State.finish_time (s : State) : (s.finish).time = s.time := rfl
@[simp] theorem State.finish_groups (s : State) : (s.finish).groups = s.groups := rfl
@[simp] theorem State.finish_gddr (s : State) : (s.finish).gddr = s.gddr := rfl
@[simp] theorem State.finish_l2 (s : State) : (s.finish).l2 = s.l2 := rfl
@[simp] theorem State.finish_poison (s : State) : (s.finish).poison = s.poison := rfl
@[simp] theorem State.finish_peerPoison (s : State) : (s.finish).peerPoison = s.peerPoison := rfl
@[simp] theorem State.finish_checks (s : State) : (s.finish).checks = s.checks := rfl
@[simp] theorem State.finish_past (s : State) : (s.finish).past = s.past := rfl
@[simp] theorem State.finish_known (s : State) : (s.finish).known = s.known := rfl
@[simp] theorem State.finish_vows (s : State) : (s.finish).vows = s.vows := rfl
@[simp] theorem State.finish_host (s : State) : (s.finish).host = s.host := rfl
@[simp] theorem State.finish_peers (s : State) : (s.finish).peers = s.peers := rfl
@[simp] theorem State.finish_ports (s : State) : (s.finish).ports = s.ports := rfl
@[simp] theorem State.finish_dirs (s : State) : (s.finish).dirs = s.dirs := rfl
@[simp] theorem State.finish_keys (s : State) : (s.finish).keys = s.keys := rfl
@[simp] theorem State.finish_rank (s : State) : (s.finish).rank = s.rank := rfl
@[simp] theorem State.finish_winSize (s : State) : (s.finish).winSize = s.winSize := rfl
@[simp] theorem State.finish_gwait (s : State) : (s.finish).gwait = s.gwait := rfl
@[simp] theorem State.finish_increments (s : State) : (s.finish).increments = s.increments := rfl
@[simp] theorem State.finish_saved (s : State) : (s.finish).saved = s.saved := rfl
@[simp] theorem State.finish_ending (s : State) : (s.finish).ending = s.ending := rfl
@[simp] theorem State.finish_bars (s : State) : (s.finish).bars = s.bars := rfl
@[simp] theorem State.finish_barArr (s : State) : (s.finish).barArr = s.barArr := rfl
@[simp] theorem State.finish_barDue (s : State) : (s.finish).barDue = s.barDue := rfl
@[simp] theorem State.finish_barClk (s : State) : (s.finish).barClk = s.barClk := rfl
@[simp] theorem State.finish_barCount (s : State) : (s.finish).barCount = s.barCount := rfl
@[simp] theorem State.finish_tmbs (s : State) : (s.finish).tmbs = s.tmbs := rfl
@[simp] theorem State.finish_tinvs (s : State) : (s.finish).tinvs = s.tinvs := rfl
@[simp] theorem State.finish_peerNoKey (s : State) : (s.finish).peerNoKey = s.peerNoKey := rfl
@[simp] theorem State.finish_unreach (s : State) : (s.finish).unreach = s.unreach := rfl
@[simp] theorem State.finish_blackBox (s : State) : (s.finish).blackBox = s.blackBox := rfl
@[simp] theorem State.finish_bbFrozen (s : State) : (s.finish).bbFrozen = s.bbFrozen := rfl
@[simp] theorem State.finish_slices (s : State) : (s.finish).slices = s.slices := rfl
@[simp] theorem State.finish_fe (s : State) : (s.finish).fe = s.fe := rfl
@[simp] theorem State.finish_streams (s : State) : (s.finish).streams = s.streams := rfl
@[simp] theorem State.finish_fab (s : State) : (s.finish).fab = s.fab := rfl
@[simp] theorem State.finish_mg (s : State) : (s.finish).mg = s.mg := rfl
@[simp] theorem State.finish_half (s : State) : (s.finish).half = s.half := rfl
@[simp] theorem State.finish_tick (s : State) : (s.finish).tick = s.tick := rfl
@[simp] theorem State.finish_served (s : State) : (s.finish).served = s.served := rfl

@[simp] theorem State.issued_agenda (s : State) : (s.issued).agenda = s.agenda := rfl
@[simp] theorem State.issued_arg (s : State) : (s.issued).arg = s.arg := rfl
@[simp] theorem State.issued_cur (s : State) : (s.issued).cur = s.cur := rfl
@[simp] theorem State.issued_slot (s : State) : (s.issued).slot = s.slot := rfl
@[simp] theorem State.issued_paired (s : State) : (s.issued).paired = s.paired := rfl
@[simp] theorem State.issued_free (s : State) : (s.issued).free = s.free := rfl
@[simp] theorem State.issued_cyc (s : State) : (s.issued).cyc = s.cyc := rfl
@[simp] theorem State.issued_time (s : State) : (s.issued).time = s.time := rfl
@[simp] theorem State.issued_groups (s : State) : (s.issued).groups = s.groups := rfl
@[simp] theorem State.issued_gddr (s : State) : (s.issued).gddr = s.gddr := rfl
@[simp] theorem State.issued_l2 (s : State) : (s.issued).l2 = s.l2 := rfl
@[simp] theorem State.issued_poison (s : State) : (s.issued).poison = s.poison := rfl
@[simp] theorem State.issued_peerPoison (s : State) : (s.issued).peerPoison = s.peerPoison := rfl
@[simp] theorem State.issued_checks (s : State) : (s.issued).checks = s.checks := rfl
@[simp] theorem State.issued_past (s : State) : (s.issued).past = s.past := rfl
@[simp] theorem State.issued_known (s : State) : (s.issued).known = s.known := rfl
@[simp] theorem State.issued_vows (s : State) : (s.issued).vows = s.vows := rfl
@[simp] theorem State.issued_host (s : State) : (s.issued).host = s.host := rfl
@[simp] theorem State.issued_peers (s : State) : (s.issued).peers = s.peers := rfl
@[simp] theorem State.issued_ports (s : State) : (s.issued).ports = s.ports := rfl
@[simp] theorem State.issued_dirs (s : State) : (s.issued).dirs = s.dirs := rfl
@[simp] theorem State.issued_keys (s : State) : (s.issued).keys = s.keys := rfl
@[simp] theorem State.issued_rank (s : State) : (s.issued).rank = s.rank := rfl
@[simp] theorem State.issued_winSize (s : State) : (s.issued).winSize = s.winSize := rfl
@[simp] theorem State.issued_gwait (s : State) : (s.issued).gwait = s.gwait := rfl
@[simp] theorem State.issued_increments (s : State) : (s.issued).increments = s.increments := rfl
@[simp] theorem State.issued_saved (s : State) : (s.issued).saved = s.saved := rfl
@[simp] theorem State.issued_ending (s : State) : (s.issued).ending = s.ending := rfl
@[simp] theorem State.issued_bars (s : State) : (s.issued).bars = s.bars := rfl
@[simp] theorem State.issued_barArr (s : State) : (s.issued).barArr = s.barArr := rfl
@[simp] theorem State.issued_barDue (s : State) : (s.issued).barDue = s.barDue := rfl
@[simp] theorem State.issued_barClk (s : State) : (s.issued).barClk = s.barClk := rfl
@[simp] theorem State.issued_barCount (s : State) : (s.issued).barCount = s.barCount := rfl
@[simp] theorem State.issued_tmbs (s : State) : (s.issued).tmbs = s.tmbs := rfl
@[simp] theorem State.issued_tinvs (s : State) : (s.issued).tinvs = s.tinvs := rfl
@[simp] theorem State.issued_peerNoKey (s : State) : (s.issued).peerNoKey = s.peerNoKey := rfl
@[simp] theorem State.issued_unreach (s : State) : (s.issued).unreach = s.unreach := rfl
@[simp] theorem State.issued_blackBox (s : State) : (s.issued).blackBox = s.blackBox := rfl
@[simp] theorem State.issued_bbFrozen (s : State) : (s.issued).bbFrozen = s.bbFrozen := rfl
@[simp] theorem State.issued_slices (s : State) : (s.issued).slices = s.slices := rfl
@[simp] theorem State.issued_fe (s : State) : (s.issued).fe = s.fe := rfl
@[simp] theorem State.issued_streams (s : State) : (s.issued).streams = s.streams := rfl
@[simp] theorem State.issued_fab (s : State) : (s.issued).fab = s.fab := rfl
@[simp] theorem State.issued_mg (s : State) : (s.issued).mg = s.mg := rfl
@[simp] theorem State.issued_half (s : State) : (s.issued).half = s.half := rfl
@[simp] theorem State.issued_tick (s : State) : (s.issued).tick = s.tick := rfl
@[simp] theorem State.issued_served (s : State) : (s.issued).served = s.served := rfl

@[simp] theorem State.modHead_agenda (s : State) (f : Entry → Entry) : (s.modHead f).agenda = s.agenda := rfl
@[simp] theorem State.modHead_arg (s : State) (f : Entry → Entry) : (s.modHead f).arg = s.arg := rfl
@[simp] theorem State.modHead_cur (s : State) (f : Entry → Entry) : (s.modHead f).cur = s.cur := rfl
@[simp] theorem State.modHead_slot (s : State) (f : Entry → Entry) : (s.modHead f).slot = s.slot := rfl
@[simp] theorem State.modHead_paired (s : State) (f : Entry → Entry) : (s.modHead f).paired = s.paired := rfl
@[simp] theorem State.modHead_free (s : State) (f : Entry → Entry) : (s.modHead f).free = s.free := rfl
@[simp] theorem State.modHead_cyc (s : State) (f : Entry → Entry) : (s.modHead f).cyc = s.cyc := rfl
@[simp] theorem State.modHead_time (s : State) (f : Entry → Entry) : (s.modHead f).time = s.time := rfl
@[simp] theorem State.modHead_groups (s : State) (f : Entry → Entry) : (s.modHead f).groups = s.groups := rfl
@[simp] theorem State.modHead_gddr (s : State) (f : Entry → Entry) : (s.modHead f).gddr = s.gddr := rfl
@[simp] theorem State.modHead_l2 (s : State) (f : Entry → Entry) : (s.modHead f).l2 = s.l2 := rfl
@[simp] theorem State.modHead_poison (s : State) (f : Entry → Entry) : (s.modHead f).poison = s.poison := rfl
@[simp] theorem State.modHead_peerPoison (s : State) (f : Entry → Entry) : (s.modHead f).peerPoison = s.peerPoison := rfl
@[simp] theorem State.modHead_checks (s : State) (f : Entry → Entry) : (s.modHead f).checks = s.checks := rfl
@[simp] theorem State.modHead_past (s : State) (f : Entry → Entry) : (s.modHead f).past = s.past := rfl
@[simp] theorem State.modHead_known (s : State) (f : Entry → Entry) : (s.modHead f).known = s.known := rfl
@[simp] theorem State.modHead_vows (s : State) (f : Entry → Entry) : (s.modHead f).vows = s.vows := rfl
@[simp] theorem State.modHead_host (s : State) (f : Entry → Entry) : (s.modHead f).host = s.host := rfl
@[simp] theorem State.modHead_peers (s : State) (f : Entry → Entry) : (s.modHead f).peers = s.peers := rfl
@[simp] theorem State.modHead_ports (s : State) (f : Entry → Entry) : (s.modHead f).ports = s.ports := rfl
@[simp] theorem State.modHead_dirs (s : State) (f : Entry → Entry) : (s.modHead f).dirs = s.dirs := rfl
@[simp] theorem State.modHead_keys (s : State) (f : Entry → Entry) : (s.modHead f).keys = s.keys := rfl
@[simp] theorem State.modHead_rank (s : State) (f : Entry → Entry) : (s.modHead f).rank = s.rank := rfl
@[simp] theorem State.modHead_winSize (s : State) (f : Entry → Entry) : (s.modHead f).winSize = s.winSize := rfl
@[simp] theorem State.modHead_gwait (s : State) (f : Entry → Entry) : (s.modHead f).gwait = s.gwait := rfl
@[simp] theorem State.modHead_increments (s : State) (f : Entry → Entry) : (s.modHead f).increments = s.increments := rfl
@[simp] theorem State.modHead_saved (s : State) (f : Entry → Entry) : (s.modHead f).saved = s.saved := rfl
@[simp] theorem State.modHead_ending (s : State) (f : Entry → Entry) : (s.modHead f).ending = s.ending := rfl
@[simp] theorem State.modHead_bars (s : State) (f : Entry → Entry) : (s.modHead f).bars = s.bars := rfl
@[simp] theorem State.modHead_barArr (s : State) (f : Entry → Entry) : (s.modHead f).barArr = s.barArr := rfl
@[simp] theorem State.modHead_barDue (s : State) (f : Entry → Entry) : (s.modHead f).barDue = s.barDue := rfl
@[simp] theorem State.modHead_barClk (s : State) (f : Entry → Entry) : (s.modHead f).barClk = s.barClk := rfl
@[simp] theorem State.modHead_barCount (s : State) (f : Entry → Entry) : (s.modHead f).barCount = s.barCount := rfl
@[simp] theorem State.modHead_tmbs (s : State) (f : Entry → Entry) : (s.modHead f).tmbs = s.tmbs := rfl
@[simp] theorem State.modHead_tinvs (s : State) (f : Entry → Entry) : (s.modHead f).tinvs = s.tinvs := rfl
@[simp] theorem State.modHead_peerNoKey (s : State) (f : Entry → Entry) : (s.modHead f).peerNoKey = s.peerNoKey := rfl
@[simp] theorem State.modHead_unreach (s : State) (f : Entry → Entry) : (s.modHead f).unreach = s.unreach := rfl
@[simp] theorem State.modHead_blackBox (s : State) (f : Entry → Entry) : (s.modHead f).blackBox = s.blackBox := rfl
@[simp] theorem State.modHead_bbFrozen (s : State) (f : Entry → Entry) : (s.modHead f).bbFrozen = s.bbFrozen := rfl
@[simp] theorem State.modHead_slices (s : State) (f : Entry → Entry) : (s.modHead f).slices = s.slices := rfl
@[simp] theorem State.modHead_fe (s : State) (f : Entry → Entry) : (s.modHead f).fe = s.fe := rfl
@[simp] theorem State.modHead_streams (s : State) (f : Entry → Entry) : (s.modHead f).streams = s.streams := rfl
@[simp] theorem State.modHead_fab (s : State) (f : Entry → Entry) : (s.modHead f).fab = s.fab := rfl
@[simp] theorem State.modHead_mg (s : State) (f : Entry → Entry) : (s.modHead f).mg = s.mg := rfl
@[simp] theorem State.modHead_half (s : State) (f : Entry → Entry) : (s.modHead f).half = s.half := rfl
@[simp] theorem State.modHead_tick (s : State) (f : Entry → Entry) : (s.modHead f).tick = s.tick := rfl
@[simp] theorem State.modHead_served (s : State) (f : Entry → Entry) : (s.modHead f).served = s.served := rfl

@[simp] theorem State.raiseHead_agenda (s : State) (k : Nat) (v : W64) : (s.raiseHead k v).agenda = s.agenda := rfl
@[simp] theorem State.raiseHead_arg (s : State) (k : Nat) (v : W64) : (s.raiseHead k v).arg = s.arg := rfl
@[simp] theorem State.raiseHead_cur (s : State) (k : Nat) (v : W64) : (s.raiseHead k v).cur = s.cur := rfl
@[simp] theorem State.raiseHead_slot (s : State) (k : Nat) (v : W64) : (s.raiseHead k v).slot = s.slot := rfl
@[simp] theorem State.raiseHead_paired (s : State) (k : Nat) (v : W64) : (s.raiseHead k v).paired = s.paired := rfl
@[simp] theorem State.raiseHead_free (s : State) (k : Nat) (v : W64) : (s.raiseHead k v).free = s.free := rfl
@[simp] theorem State.raiseHead_cyc (s : State) (k : Nat) (v : W64) : (s.raiseHead k v).cyc = s.cyc := rfl
@[simp] theorem State.raiseHead_time (s : State) (k : Nat) (v : W64) : (s.raiseHead k v).time = s.time := rfl
@[simp] theorem State.raiseHead_groups (s : State) (k : Nat) (v : W64) : (s.raiseHead k v).groups = s.groups := rfl
@[simp] theorem State.raiseHead_gddr (s : State) (k : Nat) (v : W64) : (s.raiseHead k v).gddr = s.gddr := rfl
@[simp] theorem State.raiseHead_l2 (s : State) (k : Nat) (v : W64) : (s.raiseHead k v).l2 = s.l2 := rfl
@[simp] theorem State.raiseHead_poison (s : State) (k : Nat) (v : W64) : (s.raiseHead k v).poison = s.poison := rfl
@[simp] theorem State.raiseHead_peerPoison (s : State) (k : Nat) (v : W64) : (s.raiseHead k v).peerPoison = s.peerPoison := rfl
@[simp] theorem State.raiseHead_checks (s : State) (k : Nat) (v : W64) : (s.raiseHead k v).checks = s.checks := rfl
@[simp] theorem State.raiseHead_past (s : State) (k : Nat) (v : W64) : (s.raiseHead k v).past = s.past := rfl
@[simp] theorem State.raiseHead_known (s : State) (k : Nat) (v : W64) : (s.raiseHead k v).known = s.known := rfl
@[simp] theorem State.raiseHead_vows (s : State) (k : Nat) (v : W64) : (s.raiseHead k v).vows = s.vows := rfl
@[simp] theorem State.raiseHead_host (s : State) (k : Nat) (v : W64) : (s.raiseHead k v).host = s.host := rfl
@[simp] theorem State.raiseHead_peers (s : State) (k : Nat) (v : W64) : (s.raiseHead k v).peers = s.peers := rfl
@[simp] theorem State.raiseHead_ports (s : State) (k : Nat) (v : W64) : (s.raiseHead k v).ports = s.ports := rfl
@[simp] theorem State.raiseHead_dirs (s : State) (k : Nat) (v : W64) : (s.raiseHead k v).dirs = s.dirs := rfl
@[simp] theorem State.raiseHead_keys (s : State) (k : Nat) (v : W64) : (s.raiseHead k v).keys = s.keys := rfl
@[simp] theorem State.raiseHead_rank (s : State) (k : Nat) (v : W64) : (s.raiseHead k v).rank = s.rank := rfl
@[simp] theorem State.raiseHead_winSize (s : State) (k : Nat) (v : W64) : (s.raiseHead k v).winSize = s.winSize := rfl
@[simp] theorem State.raiseHead_gwait (s : State) (k : Nat) (v : W64) : (s.raiseHead k v).gwait = s.gwait := rfl
@[simp] theorem State.raiseHead_increments (s : State) (k : Nat) (v : W64) : (s.raiseHead k v).increments = s.increments := rfl
@[simp] theorem State.raiseHead_saved (s : State) (k : Nat) (v : W64) : (s.raiseHead k v).saved = s.saved := rfl
@[simp] theorem State.raiseHead_ending (s : State) (k : Nat) (v : W64) : (s.raiseHead k v).ending = s.ending := rfl
@[simp] theorem State.raiseHead_bars (s : State) (k : Nat) (v : W64) : (s.raiseHead k v).bars = s.bars := rfl
@[simp] theorem State.raiseHead_barArr (s : State) (k : Nat) (v : W64) : (s.raiseHead k v).barArr = s.barArr := rfl
@[simp] theorem State.raiseHead_barDue (s : State) (k : Nat) (v : W64) : (s.raiseHead k v).barDue = s.barDue := rfl
@[simp] theorem State.raiseHead_barClk (s : State) (k : Nat) (v : W64) : (s.raiseHead k v).barClk = s.barClk := rfl
@[simp] theorem State.raiseHead_barCount (s : State) (k : Nat) (v : W64) : (s.raiseHead k v).barCount = s.barCount := rfl
@[simp] theorem State.raiseHead_tmbs (s : State) (k : Nat) (v : W64) : (s.raiseHead k v).tmbs = s.tmbs := rfl
@[simp] theorem State.raiseHead_tinvs (s : State) (k : Nat) (v : W64) : (s.raiseHead k v).tinvs = s.tinvs := rfl
@[simp] theorem State.raiseHead_peerNoKey (s : State) (k : Nat) (v : W64) : (s.raiseHead k v).peerNoKey = s.peerNoKey := rfl
@[simp] theorem State.raiseHead_unreach (s : State) (k : Nat) (v : W64) : (s.raiseHead k v).unreach = s.unreach := rfl
@[simp] theorem State.raiseHead_blackBox (s : State) (k : Nat) (v : W64) : (s.raiseHead k v).blackBox = s.blackBox := rfl
@[simp] theorem State.raiseHead_bbFrozen (s : State) (k : Nat) (v : W64) : (s.raiseHead k v).bbFrozen = s.bbFrozen := rfl
@[simp] theorem State.raiseHead_slices (s : State) (k : Nat) (v : W64) : (s.raiseHead k v).slices = s.slices := rfl
@[simp] theorem State.raiseHead_fe (s : State) (k : Nat) (v : W64) : (s.raiseHead k v).fe = s.fe := rfl
@[simp] theorem State.raiseHead_streams (s : State) (k : Nat) (v : W64) : (s.raiseHead k v).streams = s.streams := rfl
@[simp] theorem State.raiseHead_fab (s : State) (k : Nat) (v : W64) : (s.raiseHead k v).fab = s.fab := rfl
@[simp] theorem State.raiseHead_mg (s : State) (k : Nat) (v : W64) : (s.raiseHead k v).mg = s.mg := rfl
@[simp] theorem State.raiseHead_half (s : State) (k : Nat) (v : W64) : (s.raiseHead k v).half = s.half := rfl
@[simp] theorem State.raiseHead_tick (s : State) (k : Nat) (v : W64) : (s.raiseHead k v).tick = s.tick := rfl
@[simp] theorem State.raiseHead_served (s : State) (k : Nat) (v : W64) : (s.raiseHead k v).served = s.served := rfl

@[simp] theorem State.raiseAfter_agenda (s : State) (k : Nat) (v : W64) : (s.raiseAfter k v).agenda = s.agenda := rfl
@[simp] theorem State.raiseAfter_arg (s : State) (k : Nat) (v : W64) : (s.raiseAfter k v).arg = s.arg := rfl
@[simp] theorem State.raiseAfter_cur (s : State) (k : Nat) (v : W64) : (s.raiseAfter k v).cur = s.cur := rfl
@[simp] theorem State.raiseAfter_slot (s : State) (k : Nat) (v : W64) : (s.raiseAfter k v).slot = s.slot := rfl
@[simp] theorem State.raiseAfter_paired (s : State) (k : Nat) (v : W64) : (s.raiseAfter k v).paired = s.paired := rfl
@[simp] theorem State.raiseAfter_free (s : State) (k : Nat) (v : W64) : (s.raiseAfter k v).free = s.free := rfl
@[simp] theorem State.raiseAfter_cyc (s : State) (k : Nat) (v : W64) : (s.raiseAfter k v).cyc = s.cyc := rfl
@[simp] theorem State.raiseAfter_time (s : State) (k : Nat) (v : W64) : (s.raiseAfter k v).time = s.time := rfl
@[simp] theorem State.raiseAfter_groups (s : State) (k : Nat) (v : W64) : (s.raiseAfter k v).groups = s.groups := rfl
@[simp] theorem State.raiseAfter_gddr (s : State) (k : Nat) (v : W64) : (s.raiseAfter k v).gddr = s.gddr := rfl
@[simp] theorem State.raiseAfter_l2 (s : State) (k : Nat) (v : W64) : (s.raiseAfter k v).l2 = s.l2 := rfl
@[simp] theorem State.raiseAfter_poison (s : State) (k : Nat) (v : W64) : (s.raiseAfter k v).poison = s.poison := rfl
@[simp] theorem State.raiseAfter_peerPoison (s : State) (k : Nat) (v : W64) : (s.raiseAfter k v).peerPoison = s.peerPoison := rfl
@[simp] theorem State.raiseAfter_checks (s : State) (k : Nat) (v : W64) : (s.raiseAfter k v).checks = s.checks := rfl
@[simp] theorem State.raiseAfter_past (s : State) (k : Nat) (v : W64) : (s.raiseAfter k v).past = s.past := rfl
@[simp] theorem State.raiseAfter_known (s : State) (k : Nat) (v : W64) : (s.raiseAfter k v).known = s.known := rfl
@[simp] theorem State.raiseAfter_vows (s : State) (k : Nat) (v : W64) : (s.raiseAfter k v).vows = s.vows := rfl
@[simp] theorem State.raiseAfter_host (s : State) (k : Nat) (v : W64) : (s.raiseAfter k v).host = s.host := rfl
@[simp] theorem State.raiseAfter_peers (s : State) (k : Nat) (v : W64) : (s.raiseAfter k v).peers = s.peers := rfl
@[simp] theorem State.raiseAfter_ports (s : State) (k : Nat) (v : W64) : (s.raiseAfter k v).ports = s.ports := rfl
@[simp] theorem State.raiseAfter_dirs (s : State) (k : Nat) (v : W64) : (s.raiseAfter k v).dirs = s.dirs := rfl
@[simp] theorem State.raiseAfter_keys (s : State) (k : Nat) (v : W64) : (s.raiseAfter k v).keys = s.keys := rfl
@[simp] theorem State.raiseAfter_rank (s : State) (k : Nat) (v : W64) : (s.raiseAfter k v).rank = s.rank := rfl
@[simp] theorem State.raiseAfter_winSize (s : State) (k : Nat) (v : W64) : (s.raiseAfter k v).winSize = s.winSize := rfl
@[simp] theorem State.raiseAfter_gwait (s : State) (k : Nat) (v : W64) : (s.raiseAfter k v).gwait = s.gwait := rfl
@[simp] theorem State.raiseAfter_increments (s : State) (k : Nat) (v : W64) : (s.raiseAfter k v).increments = s.increments := rfl
@[simp] theorem State.raiseAfter_saved (s : State) (k : Nat) (v : W64) : (s.raiseAfter k v).saved = s.saved := rfl
@[simp] theorem State.raiseAfter_ending (s : State) (k : Nat) (v : W64) : (s.raiseAfter k v).ending = s.ending := rfl
@[simp] theorem State.raiseAfter_bars (s : State) (k : Nat) (v : W64) : (s.raiseAfter k v).bars = s.bars := rfl
@[simp] theorem State.raiseAfter_barArr (s : State) (k : Nat) (v : W64) : (s.raiseAfter k v).barArr = s.barArr := rfl
@[simp] theorem State.raiseAfter_barDue (s : State) (k : Nat) (v : W64) : (s.raiseAfter k v).barDue = s.barDue := rfl
@[simp] theorem State.raiseAfter_barClk (s : State) (k : Nat) (v : W64) : (s.raiseAfter k v).barClk = s.barClk := rfl
@[simp] theorem State.raiseAfter_barCount (s : State) (k : Nat) (v : W64) : (s.raiseAfter k v).barCount = s.barCount := rfl
@[simp] theorem State.raiseAfter_tmbs (s : State) (k : Nat) (v : W64) : (s.raiseAfter k v).tmbs = s.tmbs := rfl
@[simp] theorem State.raiseAfter_tinvs (s : State) (k : Nat) (v : W64) : (s.raiseAfter k v).tinvs = s.tinvs := rfl
@[simp] theorem State.raiseAfter_peerNoKey (s : State) (k : Nat) (v : W64) : (s.raiseAfter k v).peerNoKey = s.peerNoKey := rfl
@[simp] theorem State.raiseAfter_unreach (s : State) (k : Nat) (v : W64) : (s.raiseAfter k v).unreach = s.unreach := rfl
@[simp] theorem State.raiseAfter_blackBox (s : State) (k : Nat) (v : W64) : (s.raiseAfter k v).blackBox = s.blackBox := rfl
@[simp] theorem State.raiseAfter_bbFrozen (s : State) (k : Nat) (v : W64) : (s.raiseAfter k v).bbFrozen = s.bbFrozen := rfl
@[simp] theorem State.raiseAfter_slices (s : State) (k : Nat) (v : W64) : (s.raiseAfter k v).slices = s.slices := rfl
@[simp] theorem State.raiseAfter_fe (s : State) (k : Nat) (v : W64) : (s.raiseAfter k v).fe = s.fe := rfl
@[simp] theorem State.raiseAfter_streams (s : State) (k : Nat) (v : W64) : (s.raiseAfter k v).streams = s.streams := rfl
@[simp] theorem State.raiseAfter_fab (s : State) (k : Nat) (v : W64) : (s.raiseAfter k v).fab = s.fab := rfl
@[simp] theorem State.raiseAfter_mg (s : State) (k : Nat) (v : W64) : (s.raiseAfter k v).mg = s.mg := rfl
@[simp] theorem State.raiseAfter_half (s : State) (k : Nat) (v : W64) : (s.raiseAfter k v).half = s.half := rfl
@[simp] theorem State.raiseAfter_tick (s : State) (k : Nat) (v : W64) : (s.raiseAfter k v).tick = s.tick := rfl
@[simp] theorem State.raiseAfter_served (s : State) (k : Nat) (v : W64) : (s.raiseAfter k v).served = s.served := rfl

@[simp] theorem State.raiseAtIssue_agenda (s : State) (k : Nat) (v : W64) : (s.raiseAtIssue k v).agenda = s.agenda := rfl
@[simp] theorem State.raiseAtIssue_arg (s : State) (k : Nat) (v : W64) : (s.raiseAtIssue k v).arg = s.arg := rfl
@[simp] theorem State.raiseAtIssue_cur (s : State) (k : Nat) (v : W64) : (s.raiseAtIssue k v).cur = s.cur := rfl
@[simp] theorem State.raiseAtIssue_slot (s : State) (k : Nat) (v : W64) : (s.raiseAtIssue k v).slot = s.slot := rfl
@[simp] theorem State.raiseAtIssue_paired (s : State) (k : Nat) (v : W64) : (s.raiseAtIssue k v).paired = s.paired := rfl
@[simp] theorem State.raiseAtIssue_free (s : State) (k : Nat) (v : W64) : (s.raiseAtIssue k v).free = s.free := rfl
@[simp] theorem State.raiseAtIssue_cyc (s : State) (k : Nat) (v : W64) : (s.raiseAtIssue k v).cyc = s.cyc := rfl
@[simp] theorem State.raiseAtIssue_time (s : State) (k : Nat) (v : W64) : (s.raiseAtIssue k v).time = s.time := rfl
@[simp] theorem State.raiseAtIssue_groups (s : State) (k : Nat) (v : W64) : (s.raiseAtIssue k v).groups = s.groups := rfl
@[simp] theorem State.raiseAtIssue_gddr (s : State) (k : Nat) (v : W64) : (s.raiseAtIssue k v).gddr = s.gddr := rfl
@[simp] theorem State.raiseAtIssue_l2 (s : State) (k : Nat) (v : W64) : (s.raiseAtIssue k v).l2 = s.l2 := rfl
@[simp] theorem State.raiseAtIssue_poison (s : State) (k : Nat) (v : W64) : (s.raiseAtIssue k v).poison = s.poison := rfl
@[simp] theorem State.raiseAtIssue_peerPoison (s : State) (k : Nat) (v : W64) : (s.raiseAtIssue k v).peerPoison = s.peerPoison := rfl
@[simp] theorem State.raiseAtIssue_checks (s : State) (k : Nat) (v : W64) : (s.raiseAtIssue k v).checks = s.checks := rfl
@[simp] theorem State.raiseAtIssue_past (s : State) (k : Nat) (v : W64) : (s.raiseAtIssue k v).past = s.past := rfl
@[simp] theorem State.raiseAtIssue_known (s : State) (k : Nat) (v : W64) : (s.raiseAtIssue k v).known = s.known := rfl
@[simp] theorem State.raiseAtIssue_vows (s : State) (k : Nat) (v : W64) : (s.raiseAtIssue k v).vows = s.vows := rfl
@[simp] theorem State.raiseAtIssue_host (s : State) (k : Nat) (v : W64) : (s.raiseAtIssue k v).host = s.host := rfl
@[simp] theorem State.raiseAtIssue_peers (s : State) (k : Nat) (v : W64) : (s.raiseAtIssue k v).peers = s.peers := rfl
@[simp] theorem State.raiseAtIssue_ports (s : State) (k : Nat) (v : W64) : (s.raiseAtIssue k v).ports = s.ports := rfl
@[simp] theorem State.raiseAtIssue_dirs (s : State) (k : Nat) (v : W64) : (s.raiseAtIssue k v).dirs = s.dirs := rfl
@[simp] theorem State.raiseAtIssue_keys (s : State) (k : Nat) (v : W64) : (s.raiseAtIssue k v).keys = s.keys := rfl
@[simp] theorem State.raiseAtIssue_rank (s : State) (k : Nat) (v : W64) : (s.raiseAtIssue k v).rank = s.rank := rfl
@[simp] theorem State.raiseAtIssue_winSize (s : State) (k : Nat) (v : W64) : (s.raiseAtIssue k v).winSize = s.winSize := rfl
@[simp] theorem State.raiseAtIssue_gwait (s : State) (k : Nat) (v : W64) : (s.raiseAtIssue k v).gwait = s.gwait := rfl
@[simp] theorem State.raiseAtIssue_increments (s : State) (k : Nat) (v : W64) : (s.raiseAtIssue k v).increments = s.increments := rfl
@[simp] theorem State.raiseAtIssue_saved (s : State) (k : Nat) (v : W64) : (s.raiseAtIssue k v).saved = s.saved := rfl
@[simp] theorem State.raiseAtIssue_ending (s : State) (k : Nat) (v : W64) : (s.raiseAtIssue k v).ending = s.ending := rfl
@[simp] theorem State.raiseAtIssue_bars (s : State) (k : Nat) (v : W64) : (s.raiseAtIssue k v).bars = s.bars := rfl
@[simp] theorem State.raiseAtIssue_barArr (s : State) (k : Nat) (v : W64) : (s.raiseAtIssue k v).barArr = s.barArr := rfl
@[simp] theorem State.raiseAtIssue_barDue (s : State) (k : Nat) (v : W64) : (s.raiseAtIssue k v).barDue = s.barDue := rfl
@[simp] theorem State.raiseAtIssue_barClk (s : State) (k : Nat) (v : W64) : (s.raiseAtIssue k v).barClk = s.barClk := rfl
@[simp] theorem State.raiseAtIssue_barCount (s : State) (k : Nat) (v : W64) : (s.raiseAtIssue k v).barCount = s.barCount := rfl
@[simp] theorem State.raiseAtIssue_tmbs (s : State) (k : Nat) (v : W64) : (s.raiseAtIssue k v).tmbs = s.tmbs := rfl
@[simp] theorem State.raiseAtIssue_tinvs (s : State) (k : Nat) (v : W64) : (s.raiseAtIssue k v).tinvs = s.tinvs := rfl
@[simp] theorem State.raiseAtIssue_peerNoKey (s : State) (k : Nat) (v : W64) : (s.raiseAtIssue k v).peerNoKey = s.peerNoKey := rfl
@[simp] theorem State.raiseAtIssue_unreach (s : State) (k : Nat) (v : W64) : (s.raiseAtIssue k v).unreach = s.unreach := rfl
@[simp] theorem State.raiseAtIssue_blackBox (s : State) (k : Nat) (v : W64) : (s.raiseAtIssue k v).blackBox = s.blackBox := rfl
@[simp] theorem State.raiseAtIssue_bbFrozen (s : State) (k : Nat) (v : W64) : (s.raiseAtIssue k v).bbFrozen = s.bbFrozen := rfl
@[simp] theorem State.raiseAtIssue_slices (s : State) (k : Nat) (v : W64) : (s.raiseAtIssue k v).slices = s.slices := rfl
@[simp] theorem State.raiseAtIssue_fe (s : State) (k : Nat) (v : W64) : (s.raiseAtIssue k v).fe = s.fe := rfl
@[simp] theorem State.raiseAtIssue_streams (s : State) (k : Nat) (v : W64) : (s.raiseAtIssue k v).streams = s.streams := rfl
@[simp] theorem State.raiseAtIssue_fab (s : State) (k : Nat) (v : W64) : (s.raiseAtIssue k v).fab = s.fab := rfl
@[simp] theorem State.raiseAtIssue_mg (s : State) (k : Nat) (v : W64) : (s.raiseAtIssue k v).mg = s.mg := rfl
@[simp] theorem State.raiseAtIssue_half (s : State) (k : Nat) (v : W64) : (s.raiseAtIssue k v).half = s.half := rfl
@[simp] theorem State.raiseAtIssue_tick (s : State) (k : Nat) (v : W64) : (s.raiseAtIssue k v).tick = s.tick := rfl
@[simp] theorem State.raiseAtIssue_served (s : State) (k : Nat) (v : W64) : (s.raiseAtIssue k v).served = s.served := rfl

@[simp] theorem State.report_agenda (s : State) (c h k u : Nat) (b v : W64) (q : Nat) : (s.report c h k u b v q).agenda = s.agenda := rfl
@[simp] theorem State.report_arg (s : State) (c h k u : Nat) (b v : W64) (q : Nat) : (s.report c h k u b v q).arg = s.arg := rfl
@[simp] theorem State.report_cur (s : State) (c h k u : Nat) (b v : W64) (q : Nat) : (s.report c h k u b v q).cur = s.cur := rfl
@[simp] theorem State.report_slot (s : State) (c h k u : Nat) (b v : W64) (q : Nat) : (s.report c h k u b v q).slot = s.slot := rfl
@[simp] theorem State.report_paired (s : State) (c h k u : Nat) (b v : W64) (q : Nat) : (s.report c h k u b v q).paired = s.paired := rfl
@[simp] theorem State.report_free (s : State) (c h k u : Nat) (b v : W64) (q : Nat) : (s.report c h k u b v q).free = s.free := rfl
@[simp] theorem State.report_cyc (s : State) (c h k u : Nat) (b v : W64) (q : Nat) : (s.report c h k u b v q).cyc = s.cyc := rfl
@[simp] theorem State.report_time (s : State) (c h k u : Nat) (b v : W64) (q : Nat) : (s.report c h k u b v q).time = s.time := rfl
@[simp] theorem State.report_groups (s : State) (c h k u : Nat) (b v : W64) (q : Nat) : (s.report c h k u b v q).groups = s.groups := rfl
@[simp] theorem State.report_gddr (s : State) (c h k u : Nat) (b v : W64) (q : Nat) : (s.report c h k u b v q).gddr = s.gddr := rfl
@[simp] theorem State.report_l2 (s : State) (c h k u : Nat) (b v : W64) (q : Nat) : (s.report c h k u b v q).l2 = s.l2 := rfl
@[simp] theorem State.report_poison (s : State) (c h k u : Nat) (b v : W64) (q : Nat) : (s.report c h k u b v q).poison = s.poison := rfl
@[simp] theorem State.report_peerPoison (s : State) (c h k u : Nat) (b v : W64) (q : Nat) : (s.report c h k u b v q).peerPoison = s.peerPoison := rfl
@[simp] theorem State.report_checks (s : State) (c h k u : Nat) (b v : W64) (q : Nat) : (s.report c h k u b v q).checks = s.checks := rfl
@[simp] theorem State.report_past (s : State) (c h k u : Nat) (b v : W64) (q : Nat) : (s.report c h k u b v q).past = s.past := rfl
@[simp] theorem State.report_known (s : State) (c h k u : Nat) (b v : W64) (q : Nat) : (s.report c h k u b v q).known = s.known := rfl
@[simp] theorem State.report_vows (s : State) (c h k u : Nat) (b v : W64) (q : Nat) : (s.report c h k u b v q).vows = s.vows := rfl
@[simp] theorem State.report_host (s : State) (c h k u : Nat) (b v : W64) (q : Nat) : (s.report c h k u b v q).host = s.host := rfl
@[simp] theorem State.report_peers (s : State) (c h k u : Nat) (b v : W64) (q : Nat) : (s.report c h k u b v q).peers = s.peers := rfl
@[simp] theorem State.report_ports (s : State) (c h k u : Nat) (b v : W64) (q : Nat) : (s.report c h k u b v q).ports = s.ports := rfl
@[simp] theorem State.report_dirs (s : State) (c h k u : Nat) (b v : W64) (q : Nat) : (s.report c h k u b v q).dirs = s.dirs := rfl
@[simp] theorem State.report_keys (s : State) (c h k u : Nat) (b v : W64) (q : Nat) : (s.report c h k u b v q).keys = s.keys := rfl
@[simp] theorem State.report_rank (s : State) (c h k u : Nat) (b v : W64) (q : Nat) : (s.report c h k u b v q).rank = s.rank := rfl
@[simp] theorem State.report_winSize (s : State) (c h k u : Nat) (b v : W64) (q : Nat) : (s.report c h k u b v q).winSize = s.winSize := rfl
@[simp] theorem State.report_gwait (s : State) (c h k u : Nat) (b v : W64) (q : Nat) : (s.report c h k u b v q).gwait = s.gwait := rfl
@[simp] theorem State.report_increments (s : State) (c h k u : Nat) (b v : W64) (q : Nat) : (s.report c h k u b v q).increments = s.increments := rfl
@[simp] theorem State.report_saved (s : State) (c h k u : Nat) (b v : W64) (q : Nat) : (s.report c h k u b v q).saved = s.saved := rfl
@[simp] theorem State.report_ending (s : State) (c h k u : Nat) (b v : W64) (q : Nat) : (s.report c h k u b v q).ending = s.ending := rfl
@[simp] theorem State.report_bars (s : State) (c h k u : Nat) (b v : W64) (q : Nat) : (s.report c h k u b v q).bars = s.bars := rfl
@[simp] theorem State.report_barArr (s : State) (c h k u : Nat) (b v : W64) (q : Nat) : (s.report c h k u b v q).barArr = s.barArr := rfl
@[simp] theorem State.report_barDue (s : State) (c h k u : Nat) (b v : W64) (q : Nat) : (s.report c h k u b v q).barDue = s.barDue := rfl
@[simp] theorem State.report_barClk (s : State) (c h k u : Nat) (b v : W64) (q : Nat) : (s.report c h k u b v q).barClk = s.barClk := rfl
@[simp] theorem State.report_barCount (s : State) (c h k u : Nat) (b v : W64) (q : Nat) : (s.report c h k u b v q).barCount = s.barCount := rfl
@[simp] theorem State.report_tmbs (s : State) (c h k u : Nat) (b v : W64) (q : Nat) : (s.report c h k u b v q).tmbs = s.tmbs := rfl
@[simp] theorem State.report_tinvs (s : State) (c h k u : Nat) (b v : W64) (q : Nat) : (s.report c h k u b v q).tinvs = s.tinvs := rfl
@[simp] theorem State.report_peerNoKey (s : State) (c h k u : Nat) (b v : W64) (q : Nat) : (s.report c h k u b v q).peerNoKey = s.peerNoKey := rfl
@[simp] theorem State.report_unreach (s : State) (c h k u : Nat) (b v : W64) (q : Nat) : (s.report c h k u b v q).unreach = s.unreach := rfl
@[simp] theorem State.report_blackBox (s : State) (c h k u : Nat) (b v : W64) (q : Nat) : (s.report c h k u b v q).blackBox = s.blackBox := rfl
@[simp] theorem State.report_bbFrozen (s : State) (c h k u : Nat) (b v : W64) (q : Nat) : (s.report c h k u b v q).bbFrozen = s.bbFrozen := rfl
@[simp] theorem State.report_slices (s : State) (c h k u : Nat) (b v : W64) (q : Nat) : (s.report c h k u b v q).slices = s.slices := rfl
@[simp] theorem State.report_fe (s : State) (c h k u : Nat) (b v : W64) (q : Nat) : (s.report c h k u b v q).fe = s.fe := rfl
@[simp] theorem State.report_streams (s : State) (c h k u : Nat) (b v : W64) (q : Nat) : (s.report c h k u b v q).streams = s.streams := rfl
@[simp] theorem State.report_fab (s : State) (c h k u : Nat) (b v : W64) (q : Nat) : (s.report c h k u b v q).fab = s.fab := rfl
@[simp] theorem State.report_mg (s : State) (c h k u : Nat) (b v : W64) (q : Nat) : (s.report c h k u b v q).mg = s.mg := rfl
@[simp] theorem State.report_half (s : State) (c h k u : Nat) (b v : W64) (q : Nat) : (s.report c h k u b v q).half = s.half := rfl
@[simp] theorem State.report_tick (s : State) (c h k u : Nat) (b v : W64) (q : Nat) : (s.report c h k u b v q).tick = s.tick := rfl
@[simp] theorem State.report_served (s : State) (c h k u : Nat) (b v : W64) (q : Nat) : (s.report c h k u b v q).served = s.served := rfl

/-! ### What updates of a group leave of the state -/

@[simp] theorem State.modGroup_agenda (s : State) (g : Nat) (f : Group → Group) : (s.modGroup g f).agenda = s.agenda := rfl
@[simp] theorem State.modGroup_arg (s : State) (g : Nat) (f : Group → Group) : (s.modGroup g f).arg = s.arg := rfl
@[simp] theorem State.modGroup_cur (s : State) (g : Nat) (f : Group → Group) : (s.modGroup g f).cur = s.cur := rfl
@[simp] theorem State.modGroup_slot (s : State) (g : Nat) (f : Group → Group) : (s.modGroup g f).slot = s.slot := rfl
@[simp] theorem State.modGroup_paired (s : State) (g : Nat) (f : Group → Group) : (s.modGroup g f).paired = s.paired := rfl
@[simp] theorem State.modGroup_free (s : State) (g : Nat) (f : Group → Group) : (s.modGroup g f).free = s.free := rfl
@[simp] theorem State.modGroup_cyc (s : State) (g : Nat) (f : Group → Group) : (s.modGroup g f).cyc = s.cyc := rfl
@[simp] theorem State.modGroup_time (s : State) (g : Nat) (f : Group → Group) : (s.modGroup g f).time = s.time := rfl
@[simp] theorem State.modGroup_cores (s : State) (g : Nat) (f : Group → Group) : (s.modGroup g f).cores = s.cores := rfl
@[simp] theorem State.modGroup_gddr (s : State) (g : Nat) (f : Group → Group) : (s.modGroup g f).gddr = s.gddr := rfl
@[simp] theorem State.modGroup_l2 (s : State) (g : Nat) (f : Group → Group) : (s.modGroup g f).l2 = s.l2 := rfl
@[simp] theorem State.modGroup_poison (s : State) (g : Nat) (f : Group → Group) : (s.modGroup g f).poison = s.poison := rfl
@[simp] theorem State.modGroup_peerPoison (s : State) (g : Nat) (f : Group → Group) : (s.modGroup g f).peerPoison = s.peerPoison := rfl
@[simp] theorem State.modGroup_checks (s : State) (g : Nat) (f : Group → Group) : (s.modGroup g f).checks = s.checks := rfl
@[simp] theorem State.modGroup_past (s : State) (g : Nat) (f : Group → Group) : (s.modGroup g f).past = s.past := rfl
@[simp] theorem State.modGroup_known (s : State) (g : Nat) (f : Group → Group) : (s.modGroup g f).known = s.known := rfl
@[simp] theorem State.modGroup_vows (s : State) (g : Nat) (f : Group → Group) : (s.modGroup g f).vows = s.vows := rfl
@[simp] theorem State.modGroup_host (s : State) (g : Nat) (f : Group → Group) : (s.modGroup g f).host = s.host := rfl
@[simp] theorem State.modGroup_peers (s : State) (g : Nat) (f : Group → Group) : (s.modGroup g f).peers = s.peers := rfl
@[simp] theorem State.modGroup_ports (s : State) (g : Nat) (f : Group → Group) : (s.modGroup g f).ports = s.ports := rfl
@[simp] theorem State.modGroup_dirs (s : State) (g : Nat) (f : Group → Group) : (s.modGroup g f).dirs = s.dirs := rfl
@[simp] theorem State.modGroup_keys (s : State) (g : Nat) (f : Group → Group) : (s.modGroup g f).keys = s.keys := rfl
@[simp] theorem State.modGroup_rank (s : State) (g : Nat) (f : Group → Group) : (s.modGroup g f).rank = s.rank := rfl
@[simp] theorem State.modGroup_winSize (s : State) (g : Nat) (f : Group → Group) : (s.modGroup g f).winSize = s.winSize := rfl
@[simp] theorem State.modGroup_gwait (s : State) (g : Nat) (f : Group → Group) : (s.modGroup g f).gwait = s.gwait := rfl
@[simp] theorem State.modGroup_increments (s : State) (g : Nat) (f : Group → Group) : (s.modGroup g f).increments = s.increments := rfl
@[simp] theorem State.modGroup_saved (s : State) (g : Nat) (f : Group → Group) : (s.modGroup g f).saved = s.saved := rfl
@[simp] theorem State.modGroup_ending (s : State) (g : Nat) (f : Group → Group) : (s.modGroup g f).ending = s.ending := rfl
@[simp] theorem State.modGroup_bars (s : State) (g : Nat) (f : Group → Group) : (s.modGroup g f).bars = s.bars := rfl
@[simp] theorem State.modGroup_barArr (s : State) (g : Nat) (f : Group → Group) : (s.modGroup g f).barArr = s.barArr := rfl
@[simp] theorem State.modGroup_barDue (s : State) (g : Nat) (f : Group → Group) : (s.modGroup g f).barDue = s.barDue := rfl
@[simp] theorem State.modGroup_barClk (s : State) (g : Nat) (f : Group → Group) : (s.modGroup g f).barClk = s.barClk := rfl
@[simp] theorem State.modGroup_barCount (s : State) (g : Nat) (f : Group → Group) : (s.modGroup g f).barCount = s.barCount := rfl
@[simp] theorem State.modGroup_tmbs (s : State) (g : Nat) (f : Group → Group) : (s.modGroup g f).tmbs = s.tmbs := rfl
@[simp] theorem State.modGroup_tinvs (s : State) (g : Nat) (f : Group → Group) : (s.modGroup g f).tinvs = s.tinvs := rfl
@[simp] theorem State.modGroup_peerNoKey (s : State) (g : Nat) (f : Group → Group) : (s.modGroup g f).peerNoKey = s.peerNoKey := rfl
@[simp] theorem State.modGroup_unreach (s : State) (g : Nat) (f : Group → Group) : (s.modGroup g f).unreach = s.unreach := rfl
@[simp] theorem State.modGroup_blackBox (s : State) (g : Nat) (f : Group → Group) : (s.modGroup g f).blackBox = s.blackBox := rfl
@[simp] theorem State.modGroup_bbFrozen (s : State) (g : Nat) (f : Group → Group) : (s.modGroup g f).bbFrozen = s.bbFrozen := rfl
@[simp] theorem State.modGroup_slices (s : State) (g : Nat) (f : Group → Group) : (s.modGroup g f).slices = s.slices := rfl
@[simp] theorem State.modGroup_fe (s : State) (g : Nat) (f : Group → Group) : (s.modGroup g f).fe = s.fe := rfl
@[simp] theorem State.modGroup_streams (s : State) (g : Nat) (f : Group → Group) : (s.modGroup g f).streams = s.streams := rfl
@[simp] theorem State.modGroup_fab (s : State) (g : Nat) (f : Group → Group) : (s.modGroup g f).fab = s.fab := rfl
@[simp] theorem State.modGroup_mg (s : State) (g : Nat) (f : Group → Group) : (s.modGroup g f).mg = s.mg := rfl
@[simp] theorem State.modGroup_half (s : State) (g : Nat) (f : Group → Group) : (s.modGroup g f).half = s.half := rfl
@[simp] theorem State.modGroup_tick (s : State) (g : Nat) (f : Group → Group) : (s.modGroup g f).tick = s.tick := rfl
@[simp] theorem State.modGroup_served (s : State) (g : Nat) (f : Group → Group) : (s.modGroup g f).served = s.served := rfl

/-! ### What an update of a strand leaves of its core -/

@[simp] theorem Core.setStrand_place (k : Core) (h : Nat) (st : Strand) : (k.setStrand h st).place = k.place := rfl
@[simp] theorem Core.setStrand_sp (k : Core) (h : Nat) (st : Strand) : (k.setStrand h st).sp = k.sp := rfl
@[simp] theorem Core.setStrand_acc (k : Core) (h : Nat) (st : Strand) : (k.setStrand h st).acc = k.acc := rfl
@[simp] theorem Core.setStrand_cst (k : Core) (h : Nat) (st : Strand) : (k.setStrand h st).cst = k.cst := rfl
@[simp] theorem Core.setStrand_consts (k : Core) (h : Nat) (st : Strand) : (k.setStrand h st).consts = k.consts := rfl
@[simp] theorem Core.setStrand_templates (k : Core) (h : Nat) (st : Strand) : (k.setStrand h st).templates = k.templates := rfl
@[simp] theorem Core.setStrand_taskMarks (k : Core) (h : Nat) (st : Strand) : (k.setStrand h st).taskMarks = k.taskMarks := rfl
@[simp] theorem Core.setStrand_rings (k : Core) (h : Nat) (st : Strand) : (k.setStrand h st).rings = k.rings := rfl
@[simp] theorem Core.setStrand_haspHolder (k : Core) (h : Nat) (st : Strand) : (k.setStrand h st).haspHolder = k.haspHolder := rfl
@[simp] theorem Core.setStrand_haspLeft (k : Core) (h : Nat) (st : Strand) : (k.setStrand h st).haspLeft = k.haspLeft := rfl
@[simp] theorem Core.setStrand_haspLast (k : Core) (h : Nat) (st : Strand) : (k.setStrand h st).haspLast = k.haspLast := rfl
@[simp] theorem Core.setStrand_haspFree (k : Core) (h : Nat) (st : Strand) : (k.setStrand h st).haspFree = k.haspFree := rfl
@[simp] theorem Core.setStrand_arrayFree (k : Core) (h : Nat) (st : Strand) : (k.setStrand h st).arrayFree = k.arrayFree := rfl
@[simp] theorem Core.setStrand_vuFree (k : Core) (h : Nat) (st : Strand) : (k.setStrand h st).vuFree = k.vuFree := rfl
@[simp] theorem Core.setStrand_vuLast (k : Core) (h : Nat) (st : Strand) : (k.setStrand h st).vuLast = k.vuLast := rfl
@[simp] theorem Core.setStrand_ro (k : Core) (h : Nat) (st : Strand) : (k.setStrand h st).ro = k.ro := rfl
@[simp] theorem Core.setStrand_spWin (k : Core) (h : Nat) (st : Strand) : (k.setStrand h st).spWin = k.spWin := rfl
@[simp] theorem Core.setStrand_chans (k : Core) (h : Nat) (st : Strand) : (k.setStrand h st).chans = k.chans := rfl
@[simp] theorem Core.setStrand_sb (k : Core) (h : Nat) (st : Strand) : (k.setStrand h st).sb = k.sb := rfl
@[simp] theorem Core.setStrand_kvCache (k : Core) (h : Nat) (st : Strand) : (k.setStrand h st).kvCache = k.kvCache := rfl
@[simp] theorem Core.setStrand_kvTenant (k : Core) (h : Nat) (st : Strand) : (k.setStrand h st).kvTenant = k.kvTenant := rfl
@[simp] theorem Core.setStrand_kvAsked (k : Core) (h : Nat) (st : Strand) : (k.setStrand h st).kvAsked = k.kvAsked := rfl

/-! ### What register writes leave of a strand -/

@[simp] theorem Strand.wv_x (st : Strand) (r : Nat) (v : BitVec 2048) : (st.wv r v).x = st.x := rfl
@[simp] theorem Strand.wv_m (st : Strand) (r : Nat) (v : BitVec 2048) : (st.wv r v).m = st.m := rfl
@[simp] theorem Strand.wv_e (st : Strand) (r : Nat) (v : BitVec 2048) : (st.wv r v).e = st.e := rfl
@[simp] theorem Strand.wv_e0 (st : Strand) (r : Nat) (v : BitVec 2048) : (st.wv r v).e0 = st.e0 := rfl
@[simp] theorem Strand.wv_t (st : Strand) (r : Nat) (v : BitVec 2048) : (st.wv r v).t = st.t := rfl
@[simp] theorem Strand.wv_l (st : Strand) (r : Nat) (v : BitVec 2048) : (st.wv r v).l = st.l := rfl
@[simp] theorem Strand.wv_pc (st : Strand) (r : Nat) (v : BitVec 2048) : (st.wv r v).pc = st.pc := rfl
@[simp] theorem Strand.wv_run (st : Strand) (r : Nat) (v : BitVec 2048) : (st.wv r v).run = st.run := rfl
@[simp] theorem Strand.wv_wait (st : Strand) (r : Nat) (v : BitVec 2048) : (st.wv r v).wait = st.wait := rfl
@[simp] theorem Strand.wv_waitBundle (st : Strand) (r : Nat) (v : BitVec 2048) : (st.wv r v).waitBundle = st.waitBundle := rfl
@[simp] theorem Strand.wv_waitWidx (st : Strand) (r : Nat) (v : BitVec 2048) : (st.wv r v).waitWidx = st.waitWidx := rfl
@[simp] theorem Strand.wv_waitSeq (st : Strand) (r : Nat) (v : BitVec 2048) : (st.wv r v).waitSeq = st.waitSeq := rfl
@[simp] theorem Strand.wv_checkPc (st : Strand) (r : Nat) (v : BitVec 2048) : (st.wv r v).checkPc = st.checkPc := rfl
@[simp] theorem Strand.wv_holdUntil (st : Strand) (r : Nat) (v : BitVec 2048) : (st.wv r v).holdUntil = st.holdUntil := rfl
@[simp] theorem Strand.wv_lc (st : Strand) (r : Nat) (v : BitVec 2048) : (st.wv r v).lc = st.lc := rfl
@[simp] theorem Strand.wv_cl (st : Strand) (r : Nat) (v : BitVec 2048) : (st.wv r v).cl = st.cl := rfl
@[simp] theorem Strand.wv_cs (st : Strand) (r : Nat) (v : BitVec 2048) : (st.wv r v).cs = st.cs := rfl
@[simp] theorem Strand.wv_sc (st : Strand) (r : Nat) (v : BitVec 2048) : (st.wv r v).sc = st.sc := rfl
@[simp] theorem Strand.wv_lq (st : Strand) (r : Nat) (v : BitVec 2048) : (st.wv r v).lq = st.lq := rfl
@[simp] theorem Strand.wv_cq (st : Strand) (r : Nat) (v : BitVec 2048) : (st.wv r v).cq = st.cq := rfl
@[simp] theorem Strand.wv_sq (st : Strand) (r : Nat) (v : BitVec 2048) : (st.wv r v).sq = st.sq := rfl
@[simp] theorem Strand.wv_ea (st : Strand) (r : Nat) (v : BitVec 2048) : (st.wv r v).ea = st.ea := rfl
@[simp] theorem Strand.wv_joins (st : Strand) (r : Nat) (v : BitVec 2048) : (st.wv r v).joins = st.joins := rfl
@[simp] theorem Strand.wv_tasks (st : Strand) (r : Nat) (v : BitVec 2048) : (st.wv r v).tasks = st.tasks := rfl
@[simp] theorem Strand.wv_seq (st : Strand) (r : Nat) (v : BitVec 2048) : (st.wv r v).seq = st.seq := rfl
@[simp] theorem Strand.wv_handler (st : Strand) (r : Nat) (v : BitVec 2048) : (st.wv r v).handler = st.handler := rfl
@[simp] theorem Strand.wv_trapped (st : Strand) (r : Nat) (v : BitVec 2048) : (st.wv r v).trapped = st.trapped := rfl
@[simp] theorem Strand.wv_stopped (st : Strand) (r : Nat) (v : BitVec 2048) : (st.wv r v).stopped = st.stopped := rfl
@[simp] theorem Strand.wv_pendTrap (st : Strand) (r : Nat) (v : BitVec 2048) : (st.wv r v).pendTrap = st.pendTrap := rfl
@[simp] theorem Strand.wv_trapSeq (st : Strand) (r : Nat) (v : BitVec 2048) : (st.wv r v).trapSeq = st.trapSeq := rfl
@[simp] theorem Strand.wv_rec_ (st : Strand) (r : Nat) (v : BitVec 2048) : (st.wv r v).rec_ = st.rec_ := rfl
@[simp] theorem Strand.wv_keep (st : Strand) (r : Nat) (v : BitVec 2048) : (st.wv r v).keep = st.keep := rfl
@[simp] theorem Strand.wv_keepBundle (st : Strand) (r : Nat) (v : BitVec 2048) : (st.wv r v).keepBundle = st.keepBundle := rfl
@[simp] theorem Strand.wv_keepWidx (st : Strand) (r : Nat) (v : BitVec 2048) : (st.wv r v).keepWidx = st.keepWidx := rfl
@[simp] theorem Strand.wv_keepSeq (st : Strand) (r : Nat) (v : BitVec 2048) : (st.wv r v).keepSeq = st.keepSeq := rfl
@[simp] theorem Strand.wv_catchUp (st : Strand) (r : Nat) (v : BitVec 2048) : (st.wv r v).catchUp = st.catchUp := rfl
@[simp] theorem Strand.wv_rlq (st : Strand) (r : Nat) (v : BitVec 2048) : (st.wv r v).rlq = st.rlq := rfl
@[simp] theorem Strand.wv_rcq (st : Strand) (r : Nat) (v : BitVec 2048) : (st.wv r v).rcq = st.rcq := rfl
@[simp] theorem Strand.wv_rsq (st : Strand) (r : Nat) (v : BitVec 2048) : (st.wv r v).rsq = st.rsq := rfl
@[simp] theorem Strand.wv_rea (st : Strand) (r : Nat) (v : BitVec 2048) : (st.wv r v).rea = st.rea := rfl
@[simp] theorem Strand.wv_win (st : Strand) (r : Nat) (v : BitVec 2048) : (st.wv r v).win = st.win := rfl
@[simp] theorem Strand.wv_lastDisp (st : Strand) (r : Nat) (v : BitVec 2048) : (st.wv r v).lastDisp = st.lastDisp := rfl
@[simp] theorem Strand.wv_lastL (st : Strand) (r : Nat) (v : BitVec 2048) : (st.wv r v).lastL = st.lastL := rfl
@[simp] theorem Strand.wv_afterCatch (st : Strand) (r : Nat) (v : BitVec 2048) : (st.wv r v).afterCatch = st.afterCatch := rfl
@[simp] theorem Strand.wv_lastIssue (st : Strand) (r : Nat) (v : BitVec 2048) : (st.wv r v).lastIssue = st.lastIssue := rfl
@[simp] theorem Strand.wv_fences (st : Strand) (r : Nat) (v : BitVec 2048) : (st.wv r v).fences = st.fences := rfl
@[simp] theorem Strand.wv_hasp (st : Strand) (r : Nat) (v : BitVec 2048) : (st.wv r v).hasp = st.hasp := rfl
@[simp] theorem Strand.wv_haspBudget (st : Strand) (r : Nat) (v : BitVec 2048) : (st.wv r v).haspBudget = st.haspBudget := rfl
@[simp] theorem Strand.wv_haspPrio (st : Strand) (r : Nat) (v : BitVec 2048) : (st.wv r v).haspPrio = st.haspPrio := rfl
@[simp] theorem Strand.wv_bars (st : Strand) (r : Nat) (v : BitVec 2048) : (st.wv r v).bars = st.bars := rfl
@[simp] theorem Strand.wv_syncs (st : Strand) (r : Nat) (v : BitVec 2048) : (st.wv r v).syncs = st.syncs := rfl
@[simp] theorem Strand.wv_lqAt (st : Strand) (r : Nat) (v : BitVec 2048) : (st.wv r v).lqAt = st.lqAt := rfl
@[simp] theorem Strand.wv_sqAt (st : Strand) (r : Nat) (v : BitVec 2048) : (st.wv r v).sqAt = st.sqAt := rfl
@[simp] theorem Strand.wv_late (st : Strand) (r : Nat) (v : BitVec 2048) : (st.wv r v).late = st.late := rfl
@[simp] theorem Strand.wv_gate (st : Strand) (r : Nat) (v : BitVec 2048) : (st.wv r v).gate = st.gate := rfl
@[simp] theorem Strand.wv_colls (st : Strand) (r : Nat) (v : BitVec 2048) : (st.wv r v).colls = st.colls := rfl
@[simp] theorem Strand.wv_drains (st : Strand) (r : Nat) (v : BitVec 2048) : (st.wv r v).drains = st.drains := rfl
@[simp] theorem Strand.wv_drainsNext (st : Strand) (r : Nat) (v : BitVec 2048) : (st.wv r v).drainsNext = st.drainsNext := rfl
@[simp] theorem Strand.wv_refills (st : Strand) (r : Nat) (v : BitVec 2048) : (st.wv r v).refills = st.refills := rfl
@[simp] theorem Strand.wv_saw (st : Strand) (r : Nat) (v : BitVec 2048) : (st.wv r v).saw = st.saw := rfl
@[simp] theorem Strand.we_x (st : Strand) (n : Nat) (v : BitVec 16) : (st.we n v).x = st.x := rfl
@[simp] theorem Strand.we_v (st : Strand) (n : Nat) (v : BitVec 16) : (st.we n v).v = st.v := rfl
@[simp] theorem Strand.we_m (st : Strand) (n : Nat) (v : BitVec 16) : (st.we n v).m = st.m := rfl
@[simp] theorem Strand.we_e0 (st : Strand) (n : Nat) (v : BitVec 16) : (st.we n v).e0 = st.e0 := rfl
@[simp] theorem Strand.we_t (st : Strand) (n : Nat) (v : BitVec 16) : (st.we n v).t = st.t := rfl
@[simp] theorem Strand.we_l (st : Strand) (n : Nat) (v : BitVec 16) : (st.we n v).l = st.l := rfl
@[simp] theorem Strand.we_pc (st : Strand) (n : Nat) (v : BitVec 16) : (st.we n v).pc = st.pc := rfl
@[simp] theorem Strand.we_run (st : Strand) (n : Nat) (v : BitVec 16) : (st.we n v).run = st.run := rfl
@[simp] theorem Strand.we_wait (st : Strand) (n : Nat) (v : BitVec 16) : (st.we n v).wait = st.wait := rfl
@[simp] theorem Strand.we_waitBundle (st : Strand) (n : Nat) (v : BitVec 16) : (st.we n v).waitBundle = st.waitBundle := rfl
@[simp] theorem Strand.we_waitWidx (st : Strand) (n : Nat) (v : BitVec 16) : (st.we n v).waitWidx = st.waitWidx := rfl
@[simp] theorem Strand.we_waitSeq (st : Strand) (n : Nat) (v : BitVec 16) : (st.we n v).waitSeq = st.waitSeq := rfl
@[simp] theorem Strand.we_checkPc (st : Strand) (n : Nat) (v : BitVec 16) : (st.we n v).checkPc = st.checkPc := rfl
@[simp] theorem Strand.we_holdUntil (st : Strand) (n : Nat) (v : BitVec 16) : (st.we n v).holdUntil = st.holdUntil := rfl
@[simp] theorem Strand.we_lc (st : Strand) (n : Nat) (v : BitVec 16) : (st.we n v).lc = st.lc := rfl
@[simp] theorem Strand.we_cl (st : Strand) (n : Nat) (v : BitVec 16) : (st.we n v).cl = st.cl := rfl
@[simp] theorem Strand.we_cs (st : Strand) (n : Nat) (v : BitVec 16) : (st.we n v).cs = st.cs := rfl
@[simp] theorem Strand.we_sc (st : Strand) (n : Nat) (v : BitVec 16) : (st.we n v).sc = st.sc := rfl
@[simp] theorem Strand.we_lq (st : Strand) (n : Nat) (v : BitVec 16) : (st.we n v).lq = st.lq := rfl
@[simp] theorem Strand.we_cq (st : Strand) (n : Nat) (v : BitVec 16) : (st.we n v).cq = st.cq := rfl
@[simp] theorem Strand.we_sq (st : Strand) (n : Nat) (v : BitVec 16) : (st.we n v).sq = st.sq := rfl
@[simp] theorem Strand.we_ea (st : Strand) (n : Nat) (v : BitVec 16) : (st.we n v).ea = st.ea := rfl
@[simp] theorem Strand.we_joins (st : Strand) (n : Nat) (v : BitVec 16) : (st.we n v).joins = st.joins := rfl
@[simp] theorem Strand.we_tasks (st : Strand) (n : Nat) (v : BitVec 16) : (st.we n v).tasks = st.tasks := rfl
@[simp] theorem Strand.we_seq (st : Strand) (n : Nat) (v : BitVec 16) : (st.we n v).seq = st.seq := rfl
@[simp] theorem Strand.we_handler (st : Strand) (n : Nat) (v : BitVec 16) : (st.we n v).handler = st.handler := rfl
@[simp] theorem Strand.we_trapped (st : Strand) (n : Nat) (v : BitVec 16) : (st.we n v).trapped = st.trapped := rfl
@[simp] theorem Strand.we_stopped (st : Strand) (n : Nat) (v : BitVec 16) : (st.we n v).stopped = st.stopped := rfl
@[simp] theorem Strand.we_pendTrap (st : Strand) (n : Nat) (v : BitVec 16) : (st.we n v).pendTrap = st.pendTrap := rfl
@[simp] theorem Strand.we_trapSeq (st : Strand) (n : Nat) (v : BitVec 16) : (st.we n v).trapSeq = st.trapSeq := rfl
@[simp] theorem Strand.we_rec_ (st : Strand) (n : Nat) (v : BitVec 16) : (st.we n v).rec_ = st.rec_ := rfl
@[simp] theorem Strand.we_keep (st : Strand) (n : Nat) (v : BitVec 16) : (st.we n v).keep = st.keep := rfl
@[simp] theorem Strand.we_keepBundle (st : Strand) (n : Nat) (v : BitVec 16) : (st.we n v).keepBundle = st.keepBundle := rfl
@[simp] theorem Strand.we_keepWidx (st : Strand) (n : Nat) (v : BitVec 16) : (st.we n v).keepWidx = st.keepWidx := rfl
@[simp] theorem Strand.we_keepSeq (st : Strand) (n : Nat) (v : BitVec 16) : (st.we n v).keepSeq = st.keepSeq := rfl
@[simp] theorem Strand.we_catchUp (st : Strand) (n : Nat) (v : BitVec 16) : (st.we n v).catchUp = st.catchUp := rfl
@[simp] theorem Strand.we_rlq (st : Strand) (n : Nat) (v : BitVec 16) : (st.we n v).rlq = st.rlq := rfl
@[simp] theorem Strand.we_rcq (st : Strand) (n : Nat) (v : BitVec 16) : (st.we n v).rcq = st.rcq := rfl
@[simp] theorem Strand.we_rsq (st : Strand) (n : Nat) (v : BitVec 16) : (st.we n v).rsq = st.rsq := rfl
@[simp] theorem Strand.we_rea (st : Strand) (n : Nat) (v : BitVec 16) : (st.we n v).rea = st.rea := rfl
@[simp] theorem Strand.we_win (st : Strand) (n : Nat) (v : BitVec 16) : (st.we n v).win = st.win := rfl
@[simp] theorem Strand.we_lastDisp (st : Strand) (n : Nat) (v : BitVec 16) : (st.we n v).lastDisp = st.lastDisp := rfl
@[simp] theorem Strand.we_lastL (st : Strand) (n : Nat) (v : BitVec 16) : (st.we n v).lastL = st.lastL := rfl
@[simp] theorem Strand.we_afterCatch (st : Strand) (n : Nat) (v : BitVec 16) : (st.we n v).afterCatch = st.afterCatch := rfl
@[simp] theorem Strand.we_lastIssue (st : Strand) (n : Nat) (v : BitVec 16) : (st.we n v).lastIssue = st.lastIssue := rfl
@[simp] theorem Strand.we_fences (st : Strand) (n : Nat) (v : BitVec 16) : (st.we n v).fences = st.fences := rfl
@[simp] theorem Strand.we_hasp (st : Strand) (n : Nat) (v : BitVec 16) : (st.we n v).hasp = st.hasp := rfl
@[simp] theorem Strand.we_haspBudget (st : Strand) (n : Nat) (v : BitVec 16) : (st.we n v).haspBudget = st.haspBudget := rfl
@[simp] theorem Strand.we_haspPrio (st : Strand) (n : Nat) (v : BitVec 16) : (st.we n v).haspPrio = st.haspPrio := rfl
@[simp] theorem Strand.we_bars (st : Strand) (n : Nat) (v : BitVec 16) : (st.we n v).bars = st.bars := rfl
@[simp] theorem Strand.we_syncs (st : Strand) (n : Nat) (v : BitVec 16) : (st.we n v).syncs = st.syncs := rfl
@[simp] theorem Strand.we_lqAt (st : Strand) (n : Nat) (v : BitVec 16) : (st.we n v).lqAt = st.lqAt := rfl
@[simp] theorem Strand.we_sqAt (st : Strand) (n : Nat) (v : BitVec 16) : (st.we n v).sqAt = st.sqAt := rfl
@[simp] theorem Strand.we_late (st : Strand) (n : Nat) (v : BitVec 16) : (st.we n v).late = st.late := rfl
@[simp] theorem Strand.we_gate (st : Strand) (n : Nat) (v : BitVec 16) : (st.we n v).gate = st.gate := rfl
@[simp] theorem Strand.we_colls (st : Strand) (n : Nat) (v : BitVec 16) : (st.we n v).colls = st.colls := rfl
@[simp] theorem Strand.we_drains (st : Strand) (n : Nat) (v : BitVec 16) : (st.we n v).drains = st.drains := rfl
@[simp] theorem Strand.we_drainsNext (st : Strand) (n : Nat) (v : BitVec 16) : (st.we n v).drainsNext = st.drainsNext := rfl
@[simp] theorem Strand.we_refills (st : Strand) (n : Nat) (v : BitVec 16) : (st.we n v).refills = st.refills := rfl
@[simp] theorem Strand.we_saw (st : Strand) (n : Nat) (v : BitVec 16) : (st.we n v).saw = st.saw := rfl
@[simp] theorem Strand.wt_x (st : Strand) (n : Nat) (v : W64) : (st.wt n v).x = st.x := rfl
@[simp] theorem Strand.wt_v (st : Strand) (n : Nat) (v : W64) : (st.wt n v).v = st.v := rfl
@[simp] theorem Strand.wt_m (st : Strand) (n : Nat) (v : W64) : (st.wt n v).m = st.m := rfl
@[simp] theorem Strand.wt_e (st : Strand) (n : Nat) (v : W64) : (st.wt n v).e = st.e := rfl
@[simp] theorem Strand.wt_e0 (st : Strand) (n : Nat) (v : W64) : (st.wt n v).e0 = st.e0 := rfl
@[simp] theorem Strand.wt_l (st : Strand) (n : Nat) (v : W64) : (st.wt n v).l = st.l := rfl
@[simp] theorem Strand.wt_pc (st : Strand) (n : Nat) (v : W64) : (st.wt n v).pc = st.pc := rfl
@[simp] theorem Strand.wt_run (st : Strand) (n : Nat) (v : W64) : (st.wt n v).run = st.run := rfl
@[simp] theorem Strand.wt_wait (st : Strand) (n : Nat) (v : W64) : (st.wt n v).wait = st.wait := rfl
@[simp] theorem Strand.wt_waitBundle (st : Strand) (n : Nat) (v : W64) : (st.wt n v).waitBundle = st.waitBundle := rfl
@[simp] theorem Strand.wt_waitWidx (st : Strand) (n : Nat) (v : W64) : (st.wt n v).waitWidx = st.waitWidx := rfl
@[simp] theorem Strand.wt_waitSeq (st : Strand) (n : Nat) (v : W64) : (st.wt n v).waitSeq = st.waitSeq := rfl
@[simp] theorem Strand.wt_checkPc (st : Strand) (n : Nat) (v : W64) : (st.wt n v).checkPc = st.checkPc := rfl
@[simp] theorem Strand.wt_holdUntil (st : Strand) (n : Nat) (v : W64) : (st.wt n v).holdUntil = st.holdUntil := rfl
@[simp] theorem Strand.wt_lc (st : Strand) (n : Nat) (v : W64) : (st.wt n v).lc = st.lc := rfl
@[simp] theorem Strand.wt_cl (st : Strand) (n : Nat) (v : W64) : (st.wt n v).cl = st.cl := rfl
@[simp] theorem Strand.wt_cs (st : Strand) (n : Nat) (v : W64) : (st.wt n v).cs = st.cs := rfl
@[simp] theorem Strand.wt_sc (st : Strand) (n : Nat) (v : W64) : (st.wt n v).sc = st.sc := rfl
@[simp] theorem Strand.wt_lq (st : Strand) (n : Nat) (v : W64) : (st.wt n v).lq = st.lq := rfl
@[simp] theorem Strand.wt_cq (st : Strand) (n : Nat) (v : W64) : (st.wt n v).cq = st.cq := rfl
@[simp] theorem Strand.wt_sq (st : Strand) (n : Nat) (v : W64) : (st.wt n v).sq = st.sq := rfl
@[simp] theorem Strand.wt_ea (st : Strand) (n : Nat) (v : W64) : (st.wt n v).ea = st.ea := rfl
@[simp] theorem Strand.wt_joins (st : Strand) (n : Nat) (v : W64) : (st.wt n v).joins = st.joins := rfl
@[simp] theorem Strand.wt_tasks (st : Strand) (n : Nat) (v : W64) : (st.wt n v).tasks = st.tasks := rfl
@[simp] theorem Strand.wt_seq (st : Strand) (n : Nat) (v : W64) : (st.wt n v).seq = st.seq := rfl
@[simp] theorem Strand.wt_handler (st : Strand) (n : Nat) (v : W64) : (st.wt n v).handler = st.handler := rfl
@[simp] theorem Strand.wt_trapped (st : Strand) (n : Nat) (v : W64) : (st.wt n v).trapped = st.trapped := rfl
@[simp] theorem Strand.wt_stopped (st : Strand) (n : Nat) (v : W64) : (st.wt n v).stopped = st.stopped := rfl
@[simp] theorem Strand.wt_pendTrap (st : Strand) (n : Nat) (v : W64) : (st.wt n v).pendTrap = st.pendTrap := rfl
@[simp] theorem Strand.wt_trapSeq (st : Strand) (n : Nat) (v : W64) : (st.wt n v).trapSeq = st.trapSeq := rfl
@[simp] theorem Strand.wt_rec_ (st : Strand) (n : Nat) (v : W64) : (st.wt n v).rec_ = st.rec_ := rfl
@[simp] theorem Strand.wt_keep (st : Strand) (n : Nat) (v : W64) : (st.wt n v).keep = st.keep := rfl
@[simp] theorem Strand.wt_keepBundle (st : Strand) (n : Nat) (v : W64) : (st.wt n v).keepBundle = st.keepBundle := rfl
@[simp] theorem Strand.wt_keepWidx (st : Strand) (n : Nat) (v : W64) : (st.wt n v).keepWidx = st.keepWidx := rfl
@[simp] theorem Strand.wt_keepSeq (st : Strand) (n : Nat) (v : W64) : (st.wt n v).keepSeq = st.keepSeq := rfl
@[simp] theorem Strand.wt_catchUp (st : Strand) (n : Nat) (v : W64) : (st.wt n v).catchUp = st.catchUp := rfl
@[simp] theorem Strand.wt_rlq (st : Strand) (n : Nat) (v : W64) : (st.wt n v).rlq = st.rlq := rfl
@[simp] theorem Strand.wt_rcq (st : Strand) (n : Nat) (v : W64) : (st.wt n v).rcq = st.rcq := rfl
@[simp] theorem Strand.wt_rsq (st : Strand) (n : Nat) (v : W64) : (st.wt n v).rsq = st.rsq := rfl
@[simp] theorem Strand.wt_rea (st : Strand) (n : Nat) (v : W64) : (st.wt n v).rea = st.rea := rfl
@[simp] theorem Strand.wt_win (st : Strand) (n : Nat) (v : W64) : (st.wt n v).win = st.win := rfl
@[simp] theorem Strand.wt_lastDisp (st : Strand) (n : Nat) (v : W64) : (st.wt n v).lastDisp = st.lastDisp := rfl
@[simp] theorem Strand.wt_lastL (st : Strand) (n : Nat) (v : W64) : (st.wt n v).lastL = st.lastL := rfl
@[simp] theorem Strand.wt_afterCatch (st : Strand) (n : Nat) (v : W64) : (st.wt n v).afterCatch = st.afterCatch := rfl
@[simp] theorem Strand.wt_lastIssue (st : Strand) (n : Nat) (v : W64) : (st.wt n v).lastIssue = st.lastIssue := rfl
@[simp] theorem Strand.wt_fences (st : Strand) (n : Nat) (v : W64) : (st.wt n v).fences = st.fences := rfl
@[simp] theorem Strand.wt_hasp (st : Strand) (n : Nat) (v : W64) : (st.wt n v).hasp = st.hasp := rfl
@[simp] theorem Strand.wt_haspBudget (st : Strand) (n : Nat) (v : W64) : (st.wt n v).haspBudget = st.haspBudget := rfl
@[simp] theorem Strand.wt_haspPrio (st : Strand) (n : Nat) (v : W64) : (st.wt n v).haspPrio = st.haspPrio := rfl
@[simp] theorem Strand.wt_bars (st : Strand) (n : Nat) (v : W64) : (st.wt n v).bars = st.bars := rfl
@[simp] theorem Strand.wt_syncs (st : Strand) (n : Nat) (v : W64) : (st.wt n v).syncs = st.syncs := rfl
@[simp] theorem Strand.wt_lqAt (st : Strand) (n : Nat) (v : W64) : (st.wt n v).lqAt = st.lqAt := rfl
@[simp] theorem Strand.wt_sqAt (st : Strand) (n : Nat) (v : W64) : (st.wt n v).sqAt = st.sqAt := rfl
@[simp] theorem Strand.wt_late (st : Strand) (n : Nat) (v : W64) : (st.wt n v).late = st.late := rfl
@[simp] theorem Strand.wt_gate (st : Strand) (n : Nat) (v : W64) : (st.wt n v).gate = st.gate := rfl
@[simp] theorem Strand.wt_colls (st : Strand) (n : Nat) (v : W64) : (st.wt n v).colls = st.colls := rfl
@[simp] theorem Strand.wt_drains (st : Strand) (n : Nat) (v : W64) : (st.wt n v).drains = st.drains := rfl
@[simp] theorem Strand.wt_drainsNext (st : Strand) (n : Nat) (v : W64) : (st.wt n v).drainsNext = st.drainsNext := rfl
@[simp] theorem Strand.wt_refills (st : Strand) (n : Nat) (v : W64) : (st.wt n v).refills = st.refills := rfl
@[simp] theorem Strand.wt_saw (st : Strand) (n : Nat) (v : W64) : (st.wt n v).saw = st.saw := rfl
@[simp] theorem Strand.wl_x (st : Strand) (n : Nat) (v : W64) : (st.wl n v).x = st.x := rfl
@[simp] theorem Strand.wl_v (st : Strand) (n : Nat) (v : W64) : (st.wl n v).v = st.v := rfl
@[simp] theorem Strand.wl_m (st : Strand) (n : Nat) (v : W64) : (st.wl n v).m = st.m := rfl
@[simp] theorem Strand.wl_e (st : Strand) (n : Nat) (v : W64) : (st.wl n v).e = st.e := rfl
@[simp] theorem Strand.wl_e0 (st : Strand) (n : Nat) (v : W64) : (st.wl n v).e0 = st.e0 := rfl
@[simp] theorem Strand.wl_t (st : Strand) (n : Nat) (v : W64) : (st.wl n v).t = st.t := rfl
@[simp] theorem Strand.wl_pc (st : Strand) (n : Nat) (v : W64) : (st.wl n v).pc = st.pc := rfl
@[simp] theorem Strand.wl_run (st : Strand) (n : Nat) (v : W64) : (st.wl n v).run = st.run := rfl
@[simp] theorem Strand.wl_wait (st : Strand) (n : Nat) (v : W64) : (st.wl n v).wait = st.wait := rfl
@[simp] theorem Strand.wl_waitBundle (st : Strand) (n : Nat) (v : W64) : (st.wl n v).waitBundle = st.waitBundle := rfl
@[simp] theorem Strand.wl_waitWidx (st : Strand) (n : Nat) (v : W64) : (st.wl n v).waitWidx = st.waitWidx := rfl
@[simp] theorem Strand.wl_waitSeq (st : Strand) (n : Nat) (v : W64) : (st.wl n v).waitSeq = st.waitSeq := rfl
@[simp] theorem Strand.wl_checkPc (st : Strand) (n : Nat) (v : W64) : (st.wl n v).checkPc = st.checkPc := rfl
@[simp] theorem Strand.wl_holdUntil (st : Strand) (n : Nat) (v : W64) : (st.wl n v).holdUntil = st.holdUntil := rfl
@[simp] theorem Strand.wl_lc (st : Strand) (n : Nat) (v : W64) : (st.wl n v).lc = st.lc := rfl
@[simp] theorem Strand.wl_cl (st : Strand) (n : Nat) (v : W64) : (st.wl n v).cl = st.cl := rfl
@[simp] theorem Strand.wl_cs (st : Strand) (n : Nat) (v : W64) : (st.wl n v).cs = st.cs := rfl
@[simp] theorem Strand.wl_sc (st : Strand) (n : Nat) (v : W64) : (st.wl n v).sc = st.sc := rfl
@[simp] theorem Strand.wl_lq (st : Strand) (n : Nat) (v : W64) : (st.wl n v).lq = st.lq := rfl
@[simp] theorem Strand.wl_cq (st : Strand) (n : Nat) (v : W64) : (st.wl n v).cq = st.cq := rfl
@[simp] theorem Strand.wl_sq (st : Strand) (n : Nat) (v : W64) : (st.wl n v).sq = st.sq := rfl
@[simp] theorem Strand.wl_ea (st : Strand) (n : Nat) (v : W64) : (st.wl n v).ea = st.ea := rfl
@[simp] theorem Strand.wl_joins (st : Strand) (n : Nat) (v : W64) : (st.wl n v).joins = st.joins := rfl
@[simp] theorem Strand.wl_tasks (st : Strand) (n : Nat) (v : W64) : (st.wl n v).tasks = st.tasks := rfl
@[simp] theorem Strand.wl_seq (st : Strand) (n : Nat) (v : W64) : (st.wl n v).seq = st.seq := rfl
@[simp] theorem Strand.wl_handler (st : Strand) (n : Nat) (v : W64) : (st.wl n v).handler = st.handler := rfl
@[simp] theorem Strand.wl_trapped (st : Strand) (n : Nat) (v : W64) : (st.wl n v).trapped = st.trapped := rfl
@[simp] theorem Strand.wl_stopped (st : Strand) (n : Nat) (v : W64) : (st.wl n v).stopped = st.stopped := rfl
@[simp] theorem Strand.wl_pendTrap (st : Strand) (n : Nat) (v : W64) : (st.wl n v).pendTrap = st.pendTrap := rfl
@[simp] theorem Strand.wl_trapSeq (st : Strand) (n : Nat) (v : W64) : (st.wl n v).trapSeq = st.trapSeq := rfl
@[simp] theorem Strand.wl_rec_ (st : Strand) (n : Nat) (v : W64) : (st.wl n v).rec_ = st.rec_ := rfl
@[simp] theorem Strand.wl_keep (st : Strand) (n : Nat) (v : W64) : (st.wl n v).keep = st.keep := rfl
@[simp] theorem Strand.wl_keepBundle (st : Strand) (n : Nat) (v : W64) : (st.wl n v).keepBundle = st.keepBundle := rfl
@[simp] theorem Strand.wl_keepWidx (st : Strand) (n : Nat) (v : W64) : (st.wl n v).keepWidx = st.keepWidx := rfl
@[simp] theorem Strand.wl_keepSeq (st : Strand) (n : Nat) (v : W64) : (st.wl n v).keepSeq = st.keepSeq := rfl
@[simp] theorem Strand.wl_catchUp (st : Strand) (n : Nat) (v : W64) : (st.wl n v).catchUp = st.catchUp := rfl
@[simp] theorem Strand.wl_rlq (st : Strand) (n : Nat) (v : W64) : (st.wl n v).rlq = st.rlq := rfl
@[simp] theorem Strand.wl_rcq (st : Strand) (n : Nat) (v : W64) : (st.wl n v).rcq = st.rcq := rfl
@[simp] theorem Strand.wl_rsq (st : Strand) (n : Nat) (v : W64) : (st.wl n v).rsq = st.rsq := rfl
@[simp] theorem Strand.wl_rea (st : Strand) (n : Nat) (v : W64) : (st.wl n v).rea = st.rea := rfl
@[simp] theorem Strand.wl_win (st : Strand) (n : Nat) (v : W64) : (st.wl n v).win = st.win := rfl
@[simp] theorem Strand.wl_lastDisp (st : Strand) (n : Nat) (v : W64) : (st.wl n v).lastDisp = st.lastDisp := rfl
@[simp] theorem Strand.wl_lastL (st : Strand) (n : Nat) (v : W64) : (st.wl n v).lastL = st.lastL := rfl
@[simp] theorem Strand.wl_afterCatch (st : Strand) (n : Nat) (v : W64) : (st.wl n v).afterCatch = st.afterCatch := rfl
@[simp] theorem Strand.wl_lastIssue (st : Strand) (n : Nat) (v : W64) : (st.wl n v).lastIssue = st.lastIssue := rfl
@[simp] theorem Strand.wl_fences (st : Strand) (n : Nat) (v : W64) : (st.wl n v).fences = st.fences := rfl
@[simp] theorem Strand.wl_hasp (st : Strand) (n : Nat) (v : W64) : (st.wl n v).hasp = st.hasp := rfl
@[simp] theorem Strand.wl_haspBudget (st : Strand) (n : Nat) (v : W64) : (st.wl n v).haspBudget = st.haspBudget := rfl
@[simp] theorem Strand.wl_haspPrio (st : Strand) (n : Nat) (v : W64) : (st.wl n v).haspPrio = st.haspPrio := rfl
@[simp] theorem Strand.wl_bars (st : Strand) (n : Nat) (v : W64) : (st.wl n v).bars = st.bars := rfl
@[simp] theorem Strand.wl_syncs (st : Strand) (n : Nat) (v : W64) : (st.wl n v).syncs = st.syncs := rfl
@[simp] theorem Strand.wl_lqAt (st : Strand) (n : Nat) (v : W64) : (st.wl n v).lqAt = st.lqAt := rfl
@[simp] theorem Strand.wl_sqAt (st : Strand) (n : Nat) (v : W64) : (st.wl n v).sqAt = st.sqAt := rfl
@[simp] theorem Strand.wl_late (st : Strand) (n : Nat) (v : W64) : (st.wl n v).late = st.late := rfl
@[simp] theorem Strand.wl_gate (st : Strand) (n : Nat) (v : W64) : (st.wl n v).gate = st.gate := rfl
@[simp] theorem Strand.wl_colls (st : Strand) (n : Nat) (v : W64) : (st.wl n v).colls = st.colls := rfl
@[simp] theorem Strand.wl_drains (st : Strand) (n : Nat) (v : W64) : (st.wl n v).drains = st.drains := rfl
@[simp] theorem Strand.wl_drainsNext (st : Strand) (n : Nat) (v : W64) : (st.wl n v).drainsNext = st.drainsNext := rfl
@[simp] theorem Strand.wl_refills (st : Strand) (n : Nat) (v : W64) : (st.wl n v).refills = st.refills := rfl
@[simp] theorem Strand.wl_saw (st : Strand) (n : Nat) (v : W64) : (st.wl n v).saw = st.saw := rfl
@[simp] theorem Strand.wx_v (st : Strand) (r : Nat) (v : W64) : (st.wx r v).v = st.v := by unfold Strand.wx; split <;> rfl
@[simp] theorem Strand.wx_m (st : Strand) (r : Nat) (v : W64) : (st.wx r v).m = st.m := by unfold Strand.wx; split <;> rfl
@[simp] theorem Strand.wx_e (st : Strand) (r : Nat) (v : W64) : (st.wx r v).e = st.e := by unfold Strand.wx; split <;> rfl
@[simp] theorem Strand.wx_e0 (st : Strand) (r : Nat) (v : W64) : (st.wx r v).e0 = st.e0 := by unfold Strand.wx; split <;> rfl
@[simp] theorem Strand.wx_t (st : Strand) (r : Nat) (v : W64) : (st.wx r v).t = st.t := by unfold Strand.wx; split <;> rfl
@[simp] theorem Strand.wx_l (st : Strand) (r : Nat) (v : W64) : (st.wx r v).l = st.l := by unfold Strand.wx; split <;> rfl
@[simp] theorem Strand.wx_pc (st : Strand) (r : Nat) (v : W64) : (st.wx r v).pc = st.pc := by unfold Strand.wx; split <;> rfl
@[simp] theorem Strand.wx_run (st : Strand) (r : Nat) (v : W64) : (st.wx r v).run = st.run := by unfold Strand.wx; split <;> rfl
@[simp] theorem Strand.wx_wait (st : Strand) (r : Nat) (v : W64) : (st.wx r v).wait = st.wait := by unfold Strand.wx; split <;> rfl
@[simp] theorem Strand.wx_waitBundle (st : Strand) (r : Nat) (v : W64) : (st.wx r v).waitBundle = st.waitBundle := by unfold Strand.wx; split <;> rfl
@[simp] theorem Strand.wx_waitWidx (st : Strand) (r : Nat) (v : W64) : (st.wx r v).waitWidx = st.waitWidx := by unfold Strand.wx; split <;> rfl
@[simp] theorem Strand.wx_waitSeq (st : Strand) (r : Nat) (v : W64) : (st.wx r v).waitSeq = st.waitSeq := by unfold Strand.wx; split <;> rfl
@[simp] theorem Strand.wx_checkPc (st : Strand) (r : Nat) (v : W64) : (st.wx r v).checkPc = st.checkPc := by unfold Strand.wx; split <;> rfl
@[simp] theorem Strand.wx_holdUntil (st : Strand) (r : Nat) (v : W64) : (st.wx r v).holdUntil = st.holdUntil := by unfold Strand.wx; split <;> rfl
@[simp] theorem Strand.wx_lc (st : Strand) (r : Nat) (v : W64) : (st.wx r v).lc = st.lc := by unfold Strand.wx; split <;> rfl
@[simp] theorem Strand.wx_cl (st : Strand) (r : Nat) (v : W64) : (st.wx r v).cl = st.cl := by unfold Strand.wx; split <;> rfl
@[simp] theorem Strand.wx_cs (st : Strand) (r : Nat) (v : W64) : (st.wx r v).cs = st.cs := by unfold Strand.wx; split <;> rfl
@[simp] theorem Strand.wx_sc (st : Strand) (r : Nat) (v : W64) : (st.wx r v).sc = st.sc := by unfold Strand.wx; split <;> rfl
@[simp] theorem Strand.wx_lq (st : Strand) (r : Nat) (v : W64) : (st.wx r v).lq = st.lq := by unfold Strand.wx; split <;> rfl
@[simp] theorem Strand.wx_cq (st : Strand) (r : Nat) (v : W64) : (st.wx r v).cq = st.cq := by unfold Strand.wx; split <;> rfl
@[simp] theorem Strand.wx_sq (st : Strand) (r : Nat) (v : W64) : (st.wx r v).sq = st.sq := by unfold Strand.wx; split <;> rfl
@[simp] theorem Strand.wx_ea (st : Strand) (r : Nat) (v : W64) : (st.wx r v).ea = st.ea := by unfold Strand.wx; split <;> rfl
@[simp] theorem Strand.wx_joins (st : Strand) (r : Nat) (v : W64) : (st.wx r v).joins = st.joins := by unfold Strand.wx; split <;> rfl
@[simp] theorem Strand.wx_tasks (st : Strand) (r : Nat) (v : W64) : (st.wx r v).tasks = st.tasks := by unfold Strand.wx; split <;> rfl
@[simp] theorem Strand.wx_seq (st : Strand) (r : Nat) (v : W64) : (st.wx r v).seq = st.seq := by unfold Strand.wx; split <;> rfl
@[simp] theorem Strand.wx_handler (st : Strand) (r : Nat) (v : W64) : (st.wx r v).handler = st.handler := by unfold Strand.wx; split <;> rfl
@[simp] theorem Strand.wx_trapped (st : Strand) (r : Nat) (v : W64) : (st.wx r v).trapped = st.trapped := by unfold Strand.wx; split <;> rfl
@[simp] theorem Strand.wx_stopped (st : Strand) (r : Nat) (v : W64) : (st.wx r v).stopped = st.stopped := by unfold Strand.wx; split <;> rfl
@[simp] theorem Strand.wx_pendTrap (st : Strand) (r : Nat) (v : W64) : (st.wx r v).pendTrap = st.pendTrap := by unfold Strand.wx; split <;> rfl
@[simp] theorem Strand.wx_trapSeq (st : Strand) (r : Nat) (v : W64) : (st.wx r v).trapSeq = st.trapSeq := by unfold Strand.wx; split <;> rfl
@[simp] theorem Strand.wx_rec_ (st : Strand) (r : Nat) (v : W64) : (st.wx r v).rec_ = st.rec_ := by unfold Strand.wx; split <;> rfl
@[simp] theorem Strand.wx_keep (st : Strand) (r : Nat) (v : W64) : (st.wx r v).keep = st.keep := by unfold Strand.wx; split <;> rfl
@[simp] theorem Strand.wx_keepBundle (st : Strand) (r : Nat) (v : W64) : (st.wx r v).keepBundle = st.keepBundle := by unfold Strand.wx; split <;> rfl
@[simp] theorem Strand.wx_keepWidx (st : Strand) (r : Nat) (v : W64) : (st.wx r v).keepWidx = st.keepWidx := by unfold Strand.wx; split <;> rfl
@[simp] theorem Strand.wx_keepSeq (st : Strand) (r : Nat) (v : W64) : (st.wx r v).keepSeq = st.keepSeq := by unfold Strand.wx; split <;> rfl
@[simp] theorem Strand.wx_catchUp (st : Strand) (r : Nat) (v : W64) : (st.wx r v).catchUp = st.catchUp := by unfold Strand.wx; split <;> rfl
@[simp] theorem Strand.wx_rlq (st : Strand) (r : Nat) (v : W64) : (st.wx r v).rlq = st.rlq := by unfold Strand.wx; split <;> rfl
@[simp] theorem Strand.wx_rcq (st : Strand) (r : Nat) (v : W64) : (st.wx r v).rcq = st.rcq := by unfold Strand.wx; split <;> rfl
@[simp] theorem Strand.wx_rsq (st : Strand) (r : Nat) (v : W64) : (st.wx r v).rsq = st.rsq := by unfold Strand.wx; split <;> rfl
@[simp] theorem Strand.wx_rea (st : Strand) (r : Nat) (v : W64) : (st.wx r v).rea = st.rea := by unfold Strand.wx; split <;> rfl
@[simp] theorem Strand.wx_win (st : Strand) (r : Nat) (v : W64) : (st.wx r v).win = st.win := by unfold Strand.wx; split <;> rfl
@[simp] theorem Strand.wx_lastDisp (st : Strand) (r : Nat) (v : W64) : (st.wx r v).lastDisp = st.lastDisp := by unfold Strand.wx; split <;> rfl
@[simp] theorem Strand.wx_lastL (st : Strand) (r : Nat) (v : W64) : (st.wx r v).lastL = st.lastL := by unfold Strand.wx; split <;> rfl
@[simp] theorem Strand.wx_afterCatch (st : Strand) (r : Nat) (v : W64) : (st.wx r v).afterCatch = st.afterCatch := by unfold Strand.wx; split <;> rfl
@[simp] theorem Strand.wx_lastIssue (st : Strand) (r : Nat) (v : W64) : (st.wx r v).lastIssue = st.lastIssue := by unfold Strand.wx; split <;> rfl
@[simp] theorem Strand.wx_fences (st : Strand) (r : Nat) (v : W64) : (st.wx r v).fences = st.fences := by unfold Strand.wx; split <;> rfl
@[simp] theorem Strand.wx_hasp (st : Strand) (r : Nat) (v : W64) : (st.wx r v).hasp = st.hasp := by unfold Strand.wx; split <;> rfl
@[simp] theorem Strand.wx_haspBudget (st : Strand) (r : Nat) (v : W64) : (st.wx r v).haspBudget = st.haspBudget := by unfold Strand.wx; split <;> rfl
@[simp] theorem Strand.wx_haspPrio (st : Strand) (r : Nat) (v : W64) : (st.wx r v).haspPrio = st.haspPrio := by unfold Strand.wx; split <;> rfl
@[simp] theorem Strand.wx_bars (st : Strand) (r : Nat) (v : W64) : (st.wx r v).bars = st.bars := by unfold Strand.wx; split <;> rfl
@[simp] theorem Strand.wx_syncs (st : Strand) (r : Nat) (v : W64) : (st.wx r v).syncs = st.syncs := by unfold Strand.wx; split <;> rfl
@[simp] theorem Strand.wx_lqAt (st : Strand) (r : Nat) (v : W64) : (st.wx r v).lqAt = st.lqAt := by unfold Strand.wx; split <;> rfl
@[simp] theorem Strand.wx_sqAt (st : Strand) (r : Nat) (v : W64) : (st.wx r v).sqAt = st.sqAt := by unfold Strand.wx; split <;> rfl
@[simp] theorem Strand.wx_late (st : Strand) (r : Nat) (v : W64) : (st.wx r v).late = st.late := by unfold Strand.wx; split <;> rfl
@[simp] theorem Strand.wx_gate (st : Strand) (r : Nat) (v : W64) : (st.wx r v).gate = st.gate := by unfold Strand.wx; split <;> rfl
@[simp] theorem Strand.wx_colls (st : Strand) (r : Nat) (v : W64) : (st.wx r v).colls = st.colls := by unfold Strand.wx; split <;> rfl
@[simp] theorem Strand.wx_drains (st : Strand) (r : Nat) (v : W64) : (st.wx r v).drains = st.drains := by unfold Strand.wx; split <;> rfl
@[simp] theorem Strand.wx_drainsNext (st : Strand) (r : Nat) (v : W64) : (st.wx r v).drainsNext = st.drainsNext := by unfold Strand.wx; split <;> rfl
@[simp] theorem Strand.wx_refills (st : Strand) (r : Nat) (v : W64) : (st.wx r v).refills = st.refills := by unfold Strand.wx; split <;> rfl
@[simp] theorem Strand.wx_saw (st : Strand) (r : Nat) (v : W64) : (st.wx r v).saw = st.saw := by unfold Strand.wx; split <;> rfl
@[simp] theorem Strand.wm_x (st : Strand) (r : Nat) (v : W64) : (st.wm r v).x = st.x := by unfold Strand.wm; split <;> rfl
@[simp] theorem Strand.wm_v (st : Strand) (r : Nat) (v : W64) : (st.wm r v).v = st.v := by unfold Strand.wm; split <;> rfl
@[simp] theorem Strand.wm_e (st : Strand) (r : Nat) (v : W64) : (st.wm r v).e = st.e := by unfold Strand.wm; split <;> rfl
@[simp] theorem Strand.wm_e0 (st : Strand) (r : Nat) (v : W64) : (st.wm r v).e0 = st.e0 := by unfold Strand.wm; split <;> rfl
@[simp] theorem Strand.wm_t (st : Strand) (r : Nat) (v : W64) : (st.wm r v).t = st.t := by unfold Strand.wm; split <;> rfl
@[simp] theorem Strand.wm_l (st : Strand) (r : Nat) (v : W64) : (st.wm r v).l = st.l := by unfold Strand.wm; split <;> rfl
@[simp] theorem Strand.wm_pc (st : Strand) (r : Nat) (v : W64) : (st.wm r v).pc = st.pc := by unfold Strand.wm; split <;> rfl
@[simp] theorem Strand.wm_run (st : Strand) (r : Nat) (v : W64) : (st.wm r v).run = st.run := by unfold Strand.wm; split <;> rfl
@[simp] theorem Strand.wm_wait (st : Strand) (r : Nat) (v : W64) : (st.wm r v).wait = st.wait := by unfold Strand.wm; split <;> rfl
@[simp] theorem Strand.wm_waitBundle (st : Strand) (r : Nat) (v : W64) : (st.wm r v).waitBundle = st.waitBundle := by unfold Strand.wm; split <;> rfl
@[simp] theorem Strand.wm_waitWidx (st : Strand) (r : Nat) (v : W64) : (st.wm r v).waitWidx = st.waitWidx := by unfold Strand.wm; split <;> rfl
@[simp] theorem Strand.wm_waitSeq (st : Strand) (r : Nat) (v : W64) : (st.wm r v).waitSeq = st.waitSeq := by unfold Strand.wm; split <;> rfl
@[simp] theorem Strand.wm_checkPc (st : Strand) (r : Nat) (v : W64) : (st.wm r v).checkPc = st.checkPc := by unfold Strand.wm; split <;> rfl
@[simp] theorem Strand.wm_holdUntil (st : Strand) (r : Nat) (v : W64) : (st.wm r v).holdUntil = st.holdUntil := by unfold Strand.wm; split <;> rfl
@[simp] theorem Strand.wm_lc (st : Strand) (r : Nat) (v : W64) : (st.wm r v).lc = st.lc := by unfold Strand.wm; split <;> rfl
@[simp] theorem Strand.wm_cl (st : Strand) (r : Nat) (v : W64) : (st.wm r v).cl = st.cl := by unfold Strand.wm; split <;> rfl
@[simp] theorem Strand.wm_cs (st : Strand) (r : Nat) (v : W64) : (st.wm r v).cs = st.cs := by unfold Strand.wm; split <;> rfl
@[simp] theorem Strand.wm_sc (st : Strand) (r : Nat) (v : W64) : (st.wm r v).sc = st.sc := by unfold Strand.wm; split <;> rfl
@[simp] theorem Strand.wm_lq (st : Strand) (r : Nat) (v : W64) : (st.wm r v).lq = st.lq := by unfold Strand.wm; split <;> rfl
@[simp] theorem Strand.wm_cq (st : Strand) (r : Nat) (v : W64) : (st.wm r v).cq = st.cq := by unfold Strand.wm; split <;> rfl
@[simp] theorem Strand.wm_sq (st : Strand) (r : Nat) (v : W64) : (st.wm r v).sq = st.sq := by unfold Strand.wm; split <;> rfl
@[simp] theorem Strand.wm_ea (st : Strand) (r : Nat) (v : W64) : (st.wm r v).ea = st.ea := by unfold Strand.wm; split <;> rfl
@[simp] theorem Strand.wm_joins (st : Strand) (r : Nat) (v : W64) : (st.wm r v).joins = st.joins := by unfold Strand.wm; split <;> rfl
@[simp] theorem Strand.wm_tasks (st : Strand) (r : Nat) (v : W64) : (st.wm r v).tasks = st.tasks := by unfold Strand.wm; split <;> rfl
@[simp] theorem Strand.wm_seq (st : Strand) (r : Nat) (v : W64) : (st.wm r v).seq = st.seq := by unfold Strand.wm; split <;> rfl
@[simp] theorem Strand.wm_handler (st : Strand) (r : Nat) (v : W64) : (st.wm r v).handler = st.handler := by unfold Strand.wm; split <;> rfl
@[simp] theorem Strand.wm_trapped (st : Strand) (r : Nat) (v : W64) : (st.wm r v).trapped = st.trapped := by unfold Strand.wm; split <;> rfl
@[simp] theorem Strand.wm_stopped (st : Strand) (r : Nat) (v : W64) : (st.wm r v).stopped = st.stopped := by unfold Strand.wm; split <;> rfl
@[simp] theorem Strand.wm_pendTrap (st : Strand) (r : Nat) (v : W64) : (st.wm r v).pendTrap = st.pendTrap := by unfold Strand.wm; split <;> rfl
@[simp] theorem Strand.wm_trapSeq (st : Strand) (r : Nat) (v : W64) : (st.wm r v).trapSeq = st.trapSeq := by unfold Strand.wm; split <;> rfl
@[simp] theorem Strand.wm_rec_ (st : Strand) (r : Nat) (v : W64) : (st.wm r v).rec_ = st.rec_ := by unfold Strand.wm; split <;> rfl
@[simp] theorem Strand.wm_keep (st : Strand) (r : Nat) (v : W64) : (st.wm r v).keep = st.keep := by unfold Strand.wm; split <;> rfl
@[simp] theorem Strand.wm_keepBundle (st : Strand) (r : Nat) (v : W64) : (st.wm r v).keepBundle = st.keepBundle := by unfold Strand.wm; split <;> rfl
@[simp] theorem Strand.wm_keepWidx (st : Strand) (r : Nat) (v : W64) : (st.wm r v).keepWidx = st.keepWidx := by unfold Strand.wm; split <;> rfl
@[simp] theorem Strand.wm_keepSeq (st : Strand) (r : Nat) (v : W64) : (st.wm r v).keepSeq = st.keepSeq := by unfold Strand.wm; split <;> rfl
@[simp] theorem Strand.wm_catchUp (st : Strand) (r : Nat) (v : W64) : (st.wm r v).catchUp = st.catchUp := by unfold Strand.wm; split <;> rfl
@[simp] theorem Strand.wm_rlq (st : Strand) (r : Nat) (v : W64) : (st.wm r v).rlq = st.rlq := by unfold Strand.wm; split <;> rfl
@[simp] theorem Strand.wm_rcq (st : Strand) (r : Nat) (v : W64) : (st.wm r v).rcq = st.rcq := by unfold Strand.wm; split <;> rfl
@[simp] theorem Strand.wm_rsq (st : Strand) (r : Nat) (v : W64) : (st.wm r v).rsq = st.rsq := by unfold Strand.wm; split <;> rfl
@[simp] theorem Strand.wm_rea (st : Strand) (r : Nat) (v : W64) : (st.wm r v).rea = st.rea := by unfold Strand.wm; split <;> rfl
@[simp] theorem Strand.wm_win (st : Strand) (r : Nat) (v : W64) : (st.wm r v).win = st.win := by unfold Strand.wm; split <;> rfl
@[simp] theorem Strand.wm_lastDisp (st : Strand) (r : Nat) (v : W64) : (st.wm r v).lastDisp = st.lastDisp := by unfold Strand.wm; split <;> rfl
@[simp] theorem Strand.wm_lastL (st : Strand) (r : Nat) (v : W64) : (st.wm r v).lastL = st.lastL := by unfold Strand.wm; split <;> rfl
@[simp] theorem Strand.wm_afterCatch (st : Strand) (r : Nat) (v : W64) : (st.wm r v).afterCatch = st.afterCatch := by unfold Strand.wm; split <;> rfl
@[simp] theorem Strand.wm_lastIssue (st : Strand) (r : Nat) (v : W64) : (st.wm r v).lastIssue = st.lastIssue := by unfold Strand.wm; split <;> rfl
@[simp] theorem Strand.wm_fences (st : Strand) (r : Nat) (v : W64) : (st.wm r v).fences = st.fences := by unfold Strand.wm; split <;> rfl
@[simp] theorem Strand.wm_hasp (st : Strand) (r : Nat) (v : W64) : (st.wm r v).hasp = st.hasp := by unfold Strand.wm; split <;> rfl
@[simp] theorem Strand.wm_haspBudget (st : Strand) (r : Nat) (v : W64) : (st.wm r v).haspBudget = st.haspBudget := by unfold Strand.wm; split <;> rfl
@[simp] theorem Strand.wm_haspPrio (st : Strand) (r : Nat) (v : W64) : (st.wm r v).haspPrio = st.haspPrio := by unfold Strand.wm; split <;> rfl
@[simp] theorem Strand.wm_bars (st : Strand) (r : Nat) (v : W64) : (st.wm r v).bars = st.bars := by unfold Strand.wm; split <;> rfl
@[simp] theorem Strand.wm_syncs (st : Strand) (r : Nat) (v : W64) : (st.wm r v).syncs = st.syncs := by unfold Strand.wm; split <;> rfl
@[simp] theorem Strand.wm_lqAt (st : Strand) (r : Nat) (v : W64) : (st.wm r v).lqAt = st.lqAt := by unfold Strand.wm; split <;> rfl
@[simp] theorem Strand.wm_sqAt (st : Strand) (r : Nat) (v : W64) : (st.wm r v).sqAt = st.sqAt := by unfold Strand.wm; split <;> rfl
@[simp] theorem Strand.wm_late (st : Strand) (r : Nat) (v : W64) : (st.wm r v).late = st.late := by unfold Strand.wm; split <;> rfl
@[simp] theorem Strand.wm_gate (st : Strand) (r : Nat) (v : W64) : (st.wm r v).gate = st.gate := by unfold Strand.wm; split <;> rfl
@[simp] theorem Strand.wm_colls (st : Strand) (r : Nat) (v : W64) : (st.wm r v).colls = st.colls := by unfold Strand.wm; split <;> rfl
@[simp] theorem Strand.wm_drains (st : Strand) (r : Nat) (v : W64) : (st.wm r v).drains = st.drains := by unfold Strand.wm; split <;> rfl
@[simp] theorem Strand.wm_drainsNext (st : Strand) (r : Nat) (v : W64) : (st.wm r v).drainsNext = st.drainsNext := by unfold Strand.wm; split <;> rfl
@[simp] theorem Strand.wm_refills (st : Strand) (r : Nat) (v : W64) : (st.wm r v).refills = st.refills := by unfold Strand.wm; split <;> rfl
@[simp] theorem Strand.wm_saw (st : Strand) (r : Nat) (v : W64) : (st.wm r v).saw = st.saw := by unfold Strand.wm; split <;> rfl
@[simp] theorem Strand.setQueue_x (st : Strand) (q : Unit5) (l : List Entry) : (st.setQueue q l).x = st.x := by cases q <;> rfl
@[simp] theorem Strand.setQueue_v (st : Strand) (q : Unit5) (l : List Entry) : (st.setQueue q l).v = st.v := by cases q <;> rfl
@[simp] theorem Strand.setQueue_m (st : Strand) (q : Unit5) (l : List Entry) : (st.setQueue q l).m = st.m := by cases q <;> rfl
@[simp] theorem Strand.setQueue_e (st : Strand) (q : Unit5) (l : List Entry) : (st.setQueue q l).e = st.e := by cases q <;> rfl
@[simp] theorem Strand.setQueue_e0 (st : Strand) (q : Unit5) (l : List Entry) : (st.setQueue q l).e0 = st.e0 := by cases q <;> rfl
@[simp] theorem Strand.setQueue_t (st : Strand) (q : Unit5) (l : List Entry) : (st.setQueue q l).t = st.t := by cases q <;> rfl
@[simp] theorem Strand.setQueue_l (st : Strand) (q : Unit5) (l : List Entry) : (st.setQueue q l).l = st.l := by cases q <;> rfl
@[simp] theorem Strand.setQueue_pc (st : Strand) (q : Unit5) (l : List Entry) : (st.setQueue q l).pc = st.pc := by cases q <;> rfl
@[simp] theorem Strand.setQueue_run (st : Strand) (q : Unit5) (l : List Entry) : (st.setQueue q l).run = st.run := by cases q <;> rfl
@[simp] theorem Strand.setQueue_wait (st : Strand) (q : Unit5) (l : List Entry) : (st.setQueue q l).wait = st.wait := by cases q <;> rfl
@[simp] theorem Strand.setQueue_waitBundle (st : Strand) (q : Unit5) (l : List Entry) : (st.setQueue q l).waitBundle = st.waitBundle := by cases q <;> rfl
@[simp] theorem Strand.setQueue_waitWidx (st : Strand) (q : Unit5) (l : List Entry) : (st.setQueue q l).waitWidx = st.waitWidx := by cases q <;> rfl
@[simp] theorem Strand.setQueue_waitSeq (st : Strand) (q : Unit5) (l : List Entry) : (st.setQueue q l).waitSeq = st.waitSeq := by cases q <;> rfl
@[simp] theorem Strand.setQueue_checkPc (st : Strand) (q : Unit5) (l : List Entry) : (st.setQueue q l).checkPc = st.checkPc := by cases q <;> rfl
@[simp] theorem Strand.setQueue_holdUntil (st : Strand) (q : Unit5) (l : List Entry) : (st.setQueue q l).holdUntil = st.holdUntil := by cases q <;> rfl
@[simp] theorem Strand.setQueue_lc (st : Strand) (q : Unit5) (l : List Entry) : (st.setQueue q l).lc = st.lc := by cases q <;> rfl
@[simp] theorem Strand.setQueue_cl (st : Strand) (q : Unit5) (l : List Entry) : (st.setQueue q l).cl = st.cl := by cases q <;> rfl
@[simp] theorem Strand.setQueue_cs (st : Strand) (q : Unit5) (l : List Entry) : (st.setQueue q l).cs = st.cs := by cases q <;> rfl
@[simp] theorem Strand.setQueue_sc (st : Strand) (q : Unit5) (l : List Entry) : (st.setQueue q l).sc = st.sc := by cases q <;> rfl
@[simp] theorem Strand.setQueue_joins (st : Strand) (q : Unit5) (l : List Entry) : (st.setQueue q l).joins = st.joins := by cases q <;> rfl
@[simp] theorem Strand.setQueue_tasks (st : Strand) (q : Unit5) (l : List Entry) : (st.setQueue q l).tasks = st.tasks := by cases q <;> rfl
@[simp] theorem Strand.setQueue_seq (st : Strand) (q : Unit5) (l : List Entry) : (st.setQueue q l).seq = st.seq := by cases q <;> rfl
@[simp] theorem Strand.setQueue_handler (st : Strand) (q : Unit5) (l : List Entry) : (st.setQueue q l).handler = st.handler := by cases q <;> rfl
@[simp] theorem Strand.setQueue_trapped (st : Strand) (q : Unit5) (l : List Entry) : (st.setQueue q l).trapped = st.trapped := by cases q <;> rfl
@[simp] theorem Strand.setQueue_stopped (st : Strand) (q : Unit5) (l : List Entry) : (st.setQueue q l).stopped = st.stopped := by cases q <;> rfl
@[simp] theorem Strand.setQueue_pendTrap (st : Strand) (q : Unit5) (l : List Entry) : (st.setQueue q l).pendTrap = st.pendTrap := by cases q <;> rfl
@[simp] theorem Strand.setQueue_trapSeq (st : Strand) (q : Unit5) (l : List Entry) : (st.setQueue q l).trapSeq = st.trapSeq := by cases q <;> rfl
@[simp] theorem Strand.setQueue_rec_ (st : Strand) (q : Unit5) (l : List Entry) : (st.setQueue q l).rec_ = st.rec_ := by cases q <;> rfl
@[simp] theorem Strand.setQueue_keep (st : Strand) (q : Unit5) (l : List Entry) : (st.setQueue q l).keep = st.keep := by cases q <;> rfl
@[simp] theorem Strand.setQueue_keepBundle (st : Strand) (q : Unit5) (l : List Entry) : (st.setQueue q l).keepBundle = st.keepBundle := by cases q <;> rfl
@[simp] theorem Strand.setQueue_keepWidx (st : Strand) (q : Unit5) (l : List Entry) : (st.setQueue q l).keepWidx = st.keepWidx := by cases q <;> rfl
@[simp] theorem Strand.setQueue_keepSeq (st : Strand) (q : Unit5) (l : List Entry) : (st.setQueue q l).keepSeq = st.keepSeq := by cases q <;> rfl
@[simp] theorem Strand.setQueue_catchUp (st : Strand) (q : Unit5) (l : List Entry) : (st.setQueue q l).catchUp = st.catchUp := by cases q <;> rfl
@[simp] theorem Strand.setQueue_rlq (st : Strand) (q : Unit5) (l : List Entry) : (st.setQueue q l).rlq = st.rlq := by cases q <;> rfl
@[simp] theorem Strand.setQueue_rcq (st : Strand) (q : Unit5) (l : List Entry) : (st.setQueue q l).rcq = st.rcq := by cases q <;> rfl
@[simp] theorem Strand.setQueue_rsq (st : Strand) (q : Unit5) (l : List Entry) : (st.setQueue q l).rsq = st.rsq := by cases q <;> rfl
@[simp] theorem Strand.setQueue_rea (st : Strand) (q : Unit5) (l : List Entry) : (st.setQueue q l).rea = st.rea := by cases q <;> rfl
@[simp] theorem Strand.setQueue_win (st : Strand) (q : Unit5) (l : List Entry) : (st.setQueue q l).win = st.win := by cases q <;> rfl
@[simp] theorem Strand.setQueue_lastDisp (st : Strand) (q : Unit5) (l : List Entry) : (st.setQueue q l).lastDisp = st.lastDisp := by cases q <;> rfl
@[simp] theorem Strand.setQueue_lastL (st : Strand) (q : Unit5) (l : List Entry) : (st.setQueue q l).lastL = st.lastL := by cases q <;> rfl
@[simp] theorem Strand.setQueue_afterCatch (st : Strand) (q : Unit5) (l : List Entry) : (st.setQueue q l).afterCatch = st.afterCatch := by cases q <;> rfl
@[simp] theorem Strand.setQueue_lastIssue (st : Strand) (q : Unit5) (l : List Entry) : (st.setQueue q l).lastIssue = st.lastIssue := by cases q <;> rfl
@[simp] theorem Strand.setQueue_fences (st : Strand) (q : Unit5) (l : List Entry) : (st.setQueue q l).fences = st.fences := by cases q <;> rfl
@[simp] theorem Strand.setQueue_hasp (st : Strand) (q : Unit5) (l : List Entry) : (st.setQueue q l).hasp = st.hasp := by cases q <;> rfl
@[simp] theorem Strand.setQueue_haspBudget (st : Strand) (q : Unit5) (l : List Entry) : (st.setQueue q l).haspBudget = st.haspBudget := by cases q <;> rfl
@[simp] theorem Strand.setQueue_haspPrio (st : Strand) (q : Unit5) (l : List Entry) : (st.setQueue q l).haspPrio = st.haspPrio := by cases q <;> rfl
@[simp] theorem Strand.setQueue_bars (st : Strand) (q : Unit5) (l : List Entry) : (st.setQueue q l).bars = st.bars := by cases q <;> rfl
@[simp] theorem Strand.setQueue_syncs (st : Strand) (q : Unit5) (l : List Entry) : (st.setQueue q l).syncs = st.syncs := by cases q <;> rfl
@[simp] theorem Strand.setQueue_lqAt (st : Strand) (q : Unit5) (l : List Entry) : (st.setQueue q l).lqAt = st.lqAt := by cases q <;> rfl
@[simp] theorem Strand.setQueue_sqAt (st : Strand) (q : Unit5) (l : List Entry) : (st.setQueue q l).sqAt = st.sqAt := by cases q <;> rfl
@[simp] theorem Strand.setQueue_late (st : Strand) (q : Unit5) (l : List Entry) : (st.setQueue q l).late = st.late := by cases q <;> rfl
@[simp] theorem Strand.setQueue_gate (st : Strand) (q : Unit5) (l : List Entry) : (st.setQueue q l).gate = st.gate := by cases q <;> rfl
@[simp] theorem Strand.setQueue_colls (st : Strand) (q : Unit5) (l : List Entry) : (st.setQueue q l).colls = st.colls := by cases q <;> rfl
@[simp] theorem Strand.setQueue_drains (st : Strand) (q : Unit5) (l : List Entry) : (st.setQueue q l).drains = st.drains := by cases q <;> rfl
@[simp] theorem Strand.setQueue_drainsNext (st : Strand) (q : Unit5) (l : List Entry) : (st.setQueue q l).drainsNext = st.drainsNext := by cases q <;> rfl
@[simp] theorem Strand.setQueue_refills (st : Strand) (q : Unit5) (l : List Entry) : (st.setQueue q l).refills = st.refills := by cases q <;> rfl
@[simp] theorem Strand.setQueue_saw (st : Strand) (q : Unit5) (l : List Entry) : (st.setQueue q l).saw = st.saw := by cases q <;> rfl
@[simp] theorem Strand.setCtr_x (st : Strand) (k : Ctr) (n : Nat) : (st.setCtr k n).x = st.x := by cases k <;> rfl
@[simp] theorem Strand.setCtr_v (st : Strand) (k : Ctr) (n : Nat) : (st.setCtr k n).v = st.v := by cases k <;> rfl
@[simp] theorem Strand.setCtr_m (st : Strand) (k : Ctr) (n : Nat) : (st.setCtr k n).m = st.m := by cases k <;> rfl
@[simp] theorem Strand.setCtr_e (st : Strand) (k : Ctr) (n : Nat) : (st.setCtr k n).e = st.e := by cases k <;> rfl
@[simp] theorem Strand.setCtr_e0 (st : Strand) (k : Ctr) (n : Nat) : (st.setCtr k n).e0 = st.e0 := by cases k <;> rfl
@[simp] theorem Strand.setCtr_t (st : Strand) (k : Ctr) (n : Nat) : (st.setCtr k n).t = st.t := by cases k <;> rfl
@[simp] theorem Strand.setCtr_l (st : Strand) (k : Ctr) (n : Nat) : (st.setCtr k n).l = st.l := by cases k <;> rfl
@[simp] theorem Strand.setCtr_pc (st : Strand) (k : Ctr) (n : Nat) : (st.setCtr k n).pc = st.pc := by cases k <;> rfl
@[simp] theorem Strand.setCtr_run (st : Strand) (k : Ctr) (n : Nat) : (st.setCtr k n).run = st.run := by cases k <;> rfl
@[simp] theorem Strand.setCtr_wait (st : Strand) (k : Ctr) (n : Nat) : (st.setCtr k n).wait = st.wait := by cases k <;> rfl
@[simp] theorem Strand.setCtr_waitBundle (st : Strand) (k : Ctr) (n : Nat) : (st.setCtr k n).waitBundle = st.waitBundle := by cases k <;> rfl
@[simp] theorem Strand.setCtr_waitWidx (st : Strand) (k : Ctr) (n : Nat) : (st.setCtr k n).waitWidx = st.waitWidx := by cases k <;> rfl
@[simp] theorem Strand.setCtr_waitSeq (st : Strand) (k : Ctr) (n : Nat) : (st.setCtr k n).waitSeq = st.waitSeq := by cases k <;> rfl
@[simp] theorem Strand.setCtr_checkPc (st : Strand) (k : Ctr) (n : Nat) : (st.setCtr k n).checkPc = st.checkPc := by cases k <;> rfl
@[simp] theorem Strand.setCtr_holdUntil (st : Strand) (k : Ctr) (n : Nat) : (st.setCtr k n).holdUntil = st.holdUntil := by cases k <;> rfl
@[simp] theorem Strand.setCtr_lq (st : Strand) (k : Ctr) (n : Nat) : (st.setCtr k n).lq = st.lq := by cases k <;> rfl
@[simp] theorem Strand.setCtr_cq (st : Strand) (k : Ctr) (n : Nat) : (st.setCtr k n).cq = st.cq := by cases k <;> rfl
@[simp] theorem Strand.setCtr_sq (st : Strand) (k : Ctr) (n : Nat) : (st.setCtr k n).sq = st.sq := by cases k <;> rfl
@[simp] theorem Strand.setCtr_ea (st : Strand) (k : Ctr) (n : Nat) : (st.setCtr k n).ea = st.ea := by cases k <;> rfl
@[simp] theorem Strand.setCtr_joins (st : Strand) (k : Ctr) (n : Nat) : (st.setCtr k n).joins = st.joins := by cases k <;> rfl
@[simp] theorem Strand.setCtr_tasks (st : Strand) (k : Ctr) (n : Nat) : (st.setCtr k n).tasks = st.tasks := by cases k <;> rfl
@[simp] theorem Strand.setCtr_seq (st : Strand) (k : Ctr) (n : Nat) : (st.setCtr k n).seq = st.seq := by cases k <;> rfl
@[simp] theorem Strand.setCtr_handler (st : Strand) (k : Ctr) (n : Nat) : (st.setCtr k n).handler = st.handler := by cases k <;> rfl
@[simp] theorem Strand.setCtr_trapped (st : Strand) (k : Ctr) (n : Nat) : (st.setCtr k n).trapped = st.trapped := by cases k <;> rfl
@[simp] theorem Strand.setCtr_stopped (st : Strand) (k : Ctr) (n : Nat) : (st.setCtr k n).stopped = st.stopped := by cases k <;> rfl
@[simp] theorem Strand.setCtr_pendTrap (st : Strand) (k : Ctr) (n : Nat) : (st.setCtr k n).pendTrap = st.pendTrap := by cases k <;> rfl
@[simp] theorem Strand.setCtr_trapSeq (st : Strand) (k : Ctr) (n : Nat) : (st.setCtr k n).trapSeq = st.trapSeq := by cases k <;> rfl
@[simp] theorem Strand.setCtr_rec_ (st : Strand) (k : Ctr) (n : Nat) : (st.setCtr k n).rec_ = st.rec_ := by cases k <;> rfl
@[simp] theorem Strand.setCtr_keep (st : Strand) (k : Ctr) (n : Nat) : (st.setCtr k n).keep = st.keep := by cases k <;> rfl
@[simp] theorem Strand.setCtr_keepBundle (st : Strand) (k : Ctr) (n : Nat) : (st.setCtr k n).keepBundle = st.keepBundle := by cases k <;> rfl
@[simp] theorem Strand.setCtr_keepWidx (st : Strand) (k : Ctr) (n : Nat) : (st.setCtr k n).keepWidx = st.keepWidx := by cases k <;> rfl
@[simp] theorem Strand.setCtr_keepSeq (st : Strand) (k : Ctr) (n : Nat) : (st.setCtr k n).keepSeq = st.keepSeq := by cases k <;> rfl
@[simp] theorem Strand.setCtr_catchUp (st : Strand) (k : Ctr) (n : Nat) : (st.setCtr k n).catchUp = st.catchUp := by cases k <;> rfl
@[simp] theorem Strand.setCtr_rlq (st : Strand) (k : Ctr) (n : Nat) : (st.setCtr k n).rlq = st.rlq := by cases k <;> rfl
@[simp] theorem Strand.setCtr_rcq (st : Strand) (k : Ctr) (n : Nat) : (st.setCtr k n).rcq = st.rcq := by cases k <;> rfl
@[simp] theorem Strand.setCtr_rsq (st : Strand) (k : Ctr) (n : Nat) : (st.setCtr k n).rsq = st.rsq := by cases k <;> rfl
@[simp] theorem Strand.setCtr_rea (st : Strand) (k : Ctr) (n : Nat) : (st.setCtr k n).rea = st.rea := by cases k <;> rfl
@[simp] theorem Strand.setCtr_win (st : Strand) (k : Ctr) (n : Nat) : (st.setCtr k n).win = st.win := by cases k <;> rfl
@[simp] theorem Strand.setCtr_lastDisp (st : Strand) (k : Ctr) (n : Nat) : (st.setCtr k n).lastDisp = st.lastDisp := by cases k <;> rfl
@[simp] theorem Strand.setCtr_lastL (st : Strand) (k : Ctr) (n : Nat) : (st.setCtr k n).lastL = st.lastL := by cases k <;> rfl
@[simp] theorem Strand.setCtr_afterCatch (st : Strand) (k : Ctr) (n : Nat) : (st.setCtr k n).afterCatch = st.afterCatch := by cases k <;> rfl
@[simp] theorem Strand.setCtr_lastIssue (st : Strand) (k : Ctr) (n : Nat) : (st.setCtr k n).lastIssue = st.lastIssue := by cases k <;> rfl
@[simp] theorem Strand.setCtr_fences (st : Strand) (k : Ctr) (n : Nat) : (st.setCtr k n).fences = st.fences := by cases k <;> rfl
@[simp] theorem Strand.setCtr_hasp (st : Strand) (k : Ctr) (n : Nat) : (st.setCtr k n).hasp = st.hasp := by cases k <;> rfl
@[simp] theorem Strand.setCtr_haspBudget (st : Strand) (k : Ctr) (n : Nat) : (st.setCtr k n).haspBudget = st.haspBudget := by cases k <;> rfl
@[simp] theorem Strand.setCtr_haspPrio (st : Strand) (k : Ctr) (n : Nat) : (st.setCtr k n).haspPrio = st.haspPrio := by cases k <;> rfl
@[simp] theorem Strand.setCtr_bars (st : Strand) (k : Ctr) (n : Nat) : (st.setCtr k n).bars = st.bars := by cases k <;> rfl
@[simp] theorem Strand.setCtr_syncs (st : Strand) (k : Ctr) (n : Nat) : (st.setCtr k n).syncs = st.syncs := by cases k <;> rfl
@[simp] theorem Strand.setCtr_lqAt (st : Strand) (k : Ctr) (n : Nat) : (st.setCtr k n).lqAt = st.lqAt := by cases k <;> rfl
@[simp] theorem Strand.setCtr_sqAt (st : Strand) (k : Ctr) (n : Nat) : (st.setCtr k n).sqAt = st.sqAt := by cases k <;> rfl
@[simp] theorem Strand.setCtr_late (st : Strand) (k : Ctr) (n : Nat) : (st.setCtr k n).late = st.late := by cases k <;> rfl
@[simp] theorem Strand.setCtr_gate (st : Strand) (k : Ctr) (n : Nat) : (st.setCtr k n).gate = st.gate := by cases k <;> rfl
@[simp] theorem Strand.setCtr_colls (st : Strand) (k : Ctr) (n : Nat) : (st.setCtr k n).colls = st.colls := by cases k <;> rfl
@[simp] theorem Strand.setCtr_drains (st : Strand) (k : Ctr) (n : Nat) : (st.setCtr k n).drains = st.drains := by cases k <;> rfl
@[simp] theorem Strand.setCtr_drainsNext (st : Strand) (k : Ctr) (n : Nat) : (st.setCtr k n).drainsNext = st.drainsNext := by cases k <;> rfl
@[simp] theorem Strand.setCtr_refills (st : Strand) (k : Ctr) (n : Nat) : (st.setCtr k n).refills = st.refills := by cases k <;> rfl
@[simp] theorem Strand.setCtr_saw (st : Strand) (k : Ctr) (n : Nat) : (st.setCtr k n).saw = st.saw := by cases k <;> rfl

/-! ### Reading what was written -/

@[simp] theorem State.core_setCore (s : State) (c : Nat) (k : Core) : (s.setCore c k).core c = k := by
  simp [State.setCore, State.core]

theorem State.core_setCore_other (s : State) {c d : Nat} (k : Core) (h : d ≠ c) : (s.setCore c k).core d = s.core d := by
  simp [State.setCore, State.core, Map.get_put_other _ _ _ h]

@[simp] theorem Core.strand_setStrand (k : Core) (h : Nat) (st : Strand) : (k.setStrand h st).strand h = st := by
  simp [Core.setStrand, Core.strand]

theorem Core.strand_setStrand_other (k : Core) {h g : Nat} (st : Strand) (n : g ≠ h) :
    (k.setStrand h st).strand g = k.strand g := by
  simp [Core.setStrand, Core.strand, Map.get_put_other _ _ _ n]

@[simp] theorem State.core_modCore (s : State) (c : Nat) (f : Core → Core) : (s.modCore c f).core c = f (s.core c) := by
  simp [State.modCore]

theorem State.core_modCore_other (s : State) {c d : Nat} (f : Core → Core) (h : d ≠ c) : (s.modCore c f).core d = s.core d := by
  simp [State.modCore, State.core_setCore_other s _ h]

@[simp] theorem State.strand_setStrand (s : State) (c h : Nat) (st : Strand) : (s.setStrand c h st).strand c h = st := by
  simp [State.setStrand, State.strand]

@[simp] theorem State.strand_modStrand (s : State) (c h : Nat) (f : Strand → Strand) :
    (s.modStrand c h f).strand c h = f (s.strand c h) := by
  simp [State.modStrand]

@[simp] theorem State.me_modMe (s : State) (f : Strand → Strand) : (s.modMe f).me = f s.me := by
  simp [State.modMe, State.me]

@[simp] theorem State.me_wx (s : State) (r : BitVec 6) (v : W64) : (s.wx r v).me = s.me.wx r.toNat v := by
  simp [State.wx]

@[simp] theorem State.me_finish (s : State) : s.finish.me = s.me.finishEntry s.cur.unit s.cur.entry := by
  simp [State.finish]

/-- Two updates of one core are one. -/
@[simp] theorem State.modCore_modCore (s : State) (c : Nat) (f g : Core → Core) :
    (s.modCore c f).modCore c g = s.modCore c fun k => g (f k) := by
  simp [State.modCore, State.setCore, State.core]

/-- Two updates of one strand are one. -/
@[simp] theorem State.modStrand_modStrand (s : State) (c h : Nat) (f g : Strand → Strand) :
    (s.modStrand c h f).modStrand c h g = s.modStrand c h fun st => g (f st) := by
  simp [State.modStrand, State.setStrand, State.modCore, State.setCore, State.core, State.strand, Core.strand, Core.setStrand]

/-- Two updates of the executing strand are one. -/
@[simp] theorem State.modMe_modMe (s : State) (f g : Strand → Strand) : (s.modMe f).modMe g = s.modMe fun st => g (f st) := by
  simp [State.modMe]

/-! ### Register files -/

@[simp] theorem Strand.rx_wx (st : Strand) (r q : Nat) (v : W64) : (st.wx r v).rx q = if q = r ∧ q ≠ 0 then v else st.rx q := by
  unfold Strand.wx Strand.rx
  by_cases h0 : q = 0
  · simp [h0]
  · by_cases hr : r = 0
    · have : q ≠ r := by omega
      simp [h0, hr]
    · simp [h0, hr, Map.get_put]

@[simp] theorem Strand.rv_wv (st : Strand) (r q : Nat) (v : BitVec 2048) : (st.wv r v).rv q = if q = r then v else st.rv q := by
  simp [Strand.wv, Strand.rv, Map.get_put]

@[simp] theorem Strand.rm_wm (st : Strand) (r q : Nat) (v : W64) : (st.wm r v).rm q = if q = r ∧ q ≠ 0 then v else st.rm q := by
  unfold Strand.wm Strand.rm
  by_cases h0 : q = 0
  · simp [h0]
  · by_cases hr : r = 0
    · have : q ≠ r := by omega
      simp [h0, hr]
    · simp [h0, hr, Map.get_put]

@[simp] theorem Strand.re_we (st : Strand) (n q : Nat) (v : BitVec 16) : (st.we n v).re q = if q = n then v else st.re q := by
  simp [Strand.we, Strand.re, Map.get_put]

@[simp] theorem Strand.rt_wt (st : Strand) (n q : Nat) (v : W64) : (st.wt n v).rt q = if q = n then v else st.rt q := by
  simp [Strand.wt, Strand.rt, Map.get_put]

@[simp] theorem Strand.rl_wl (st : Strand) (n q : Nat) (v : W64) : (st.wl n v).rl q = if q = n then v else st.rl q := by
  simp [Strand.wl, Strand.rl, Map.get_put]

/-! ### Queues and counters -/

@[simp] theorem Strand.queue_setQueue (st : Strand) {q : Unit5} (l : List Entry) (h : q ≠ .seq) : (st.setQueue q l).queue q = l := by
  cases q <;> first | rfl | exact absurd rfl h

theorem Strand.queue_setQueue_other (st : Strand) {p q : Unit5} (l : List Entry) (h : p ≠ q) :
    (st.setQueue q l).queue p = st.queue p := by
  cases p <;> cases q <;> first | rfl | exact absurd rfl h

@[simp] theorem Strand.ctr_setCtr (st : Strand) (k : Ctr) (n : Nat) : (st.setCtr k n).ctr k = n := by cases k <;> rfl

theorem Strand.ctr_setCtr_other (st : Strand) {j k : Ctr} (n : Nat) (h : j ≠ k) : (st.setCtr k n).ctr j = st.ctr j := by
  cases j <;> cases k <;> first | rfl | exact absurd rfl h

@[simp] theorem Strand.queue_setCtr (st : Strand) (k : Ctr) (n : Nat) (q : Unit5) : (st.setCtr k n).queue q = st.queue q := by
  cases k <;> rfl

@[simp] theorem Strand.ctr_setQueue (st : Strand) (q : Unit5) (l : List Entry) (k : Ctr) : (st.setQueue q l).ctr k = st.ctr k := by
  cases q <;> rfl

end Sys2Proof.Machine
end

