-- ==== Sys2Proof/Laws/Ops.lean ====
section
/-!
SUPPORT. What the shared operations do, said once: the issue of a bundle, the completion of a queue's head, and the
frames of an update of one strand.
-/

namespace Sys2Proof.Machine

/-! ### Frames of an update of the executing strand -/

/-- An update of the executing strand changes nothing elsewhere. -/
theorem State.elsewhere_modMe (s : State) (f : Strand → Strand) : s.elsewhere (s.modMe f) := by
  simp [State.elsewhere, State.modMe, State.modStrand, State.setStrand, State.modCore, State.setCore, State.core,
    State.strand, Core.strand, Core.setStrand]

/-- Reading the memories of a core past an update of a strand. -/
theorem State.modMe_core_sp (s : State) (f : Strand → Strand) (c : Nat) :
    ((s.modMe f).core c).sp = (s.core c).sp ∧ ((s.modMe f).core c).acc = (s.core c).acc ∧
      ((s.modMe f).core c).cst = (s.core c).cst := by
  by_cases h : c = s.cur.core
  · subst h; simp [State.modMe, State.modStrand, State.setStrand]
  · simp [State.modMe, State.modStrand, State.setStrand, State.core_modCore_other s _ h]

theorem State.locGet_modMe (s : State) (f : Strand → Strand) (l : Loc) : (s.modMe f).locGet l = s.locGet l := by
  cases l with
  | sp c a => exact congrArg (fun m => Mem.get m a) (s.modMe_core_sp f c).1
  | _ => rfl

/-- An update of the executing strand changes no byte. -/
theorem State.sameBytes_modMe (s : State) (f : Strand → Strand) : s.sameBytes (s.modMe f) :=
  ⟨fun l => s.locGet_modMe f l, fun c a => by simp [s.modMe_core_sp f c]⟩

theorem State.keepsBut_modMe (s : State) (f : Strand → Strand) (l : List Part)
    (h : ∀ p, p ∉ l → (f s.me).agrees s.me p) : s.keepsBut (s.modMe f) l := by
  intro p hp; simpa using h p hp

theorem Strand.agrees_rfl (a : Strand) (p : Part) : a.agrees a p := by
  cases p <;> simp [Strand.agrees]

/-! ### Issue -/

/-- The strand after its bundle has issued, when no EA instruction of it raises a cause (R48, R128). -/
def Strand.issuedAt (st : Strand) (s : State) : Strand :=
  { s.cur.rest.foldl (fun st p => st.enqueue p.1 p.2) st with
    pc := s.cur.nextPc, seq := st.seq + 1, holdUntil := s.cyc + 1, checkPc := false
    waitBundle := s.cur.entry.bundle, waitWidx := s.cur.entry.widx, waitSeq := st.seq
    syncs := st.syncs + (if s.cur.sync then 1 else 0)
    lastIssue := if s.cur.rest.any (fun p => p.1 = .cq) then s.cyc else st.lastIssue
    afterCatch := st.afterCatch && !s.cur.rest.any fun p => p.1 = .cq }

theorem findSome_clean : ∀ {l : List (Unit5 × Entry)}, (∀ p ∈ l, p.2.atIssue = none) →
    (l.findSome? fun p => p.2.atIssue.map fun k => (p.2, k)) = none
  | [], _ => rfl
  | p :: l, h => by
    simp [h p (List.mem_cons_self ..), findSome_clean fun q hq => h q (List.mem_cons_of_mem _ hq)]

/-- A clean bundle issues: exactly this becomes of its strand. -/
theorem State.issued_clean {s : State} (h : s.clean) : s.issued = s.modMe fun st => st.issuedAt s := by
  have hf : s.cur.rest.filter (fun p => p.2.atIssue.isNone) = s.cur.rest :=
    List.filter_eq_self.mpr fun p hp => by simp [h p hp]
  unfold State.issued
  rw [findSome_clean h, hf]
  rfl

theorem enqueue_all_agrees : ∀ (l : List (Unit5 × Entry)) (st : Strand) (p : Part),
    (l.foldl (fun st p => st.enqueue p.1 p.2) st).agrees st p
  | [], st, p => st.agrees_rfl p
  | q :: l, st, p => by
    have ih := enqueue_all_agrees l (st.enqueue q.1 q.2) p
    have e : (st.enqueue q.1 q.2).agrees st p := by
      cases p <;> simp [Strand.agrees, Strand.enqueue, Strand.rx, Strand.rv, Strand.rm, Strand.re, Strand.rt, Strand.rl]
    simp only [List.foldl_cons]
    cases p <;> simp_all [Strand.agrees]

theorem enqueue_all_queue : ∀ (l : List (Unit5 × Entry)) (st : Strand) (q : Unit5), q ≠ .seq →
    (l.foldl (fun st p => st.enqueue p.1 p.2) st).queue q = st.queue q ++ (l.filter fun p => p.1 = q).map Prod.snd
  | [], st, q, _ => by simp
  | p :: l, st, q, h => by
    simp only [List.foldl_cons, enqueue_all_queue l _ q h]
    by_cases e : p.1 = q
    · subst e; simp [Strand.enqueue, h]
    · have e' : q ≠ p.1 := fun x => e x.symm
      simp [Strand.enqueue, Strand.queue_setQueue_other _ _ e', e]

theorem enqueue_all_seq : ∀ (l : List (Unit5 × Entry)) (st : Strand),
    (l.foldl (fun st p => st.enqueue p.1 p.2) st).seq = st.seq
  | [], _ => rfl
  | p :: l, st => by rw [List.foldl_cons, enqueue_all_seq l]; simp [Strand.enqueue]

/-- Issue keeps every register, the token counters, the trap registers and the barrier slots. -/
theorem Strand.issuedAt_agrees (st : Strand) (s : State) (p : Part) : (st.issuedAt s).agrees st p := by
  have h := enqueue_all_agrees s.cur.rest st p
  cases p <;> exact h

theorem Strand.issuedAt_queue (st : Strand) (s : State) (q : Unit5) (h : q ≠ .seq) :
    (st.issuedAt s).queue q = st.queue q ++ (s.cur.rest.filter fun p => p.1 = q).map Prod.snd := by
  have := enqueue_all_queue s.cur.rest st q h
  cases q <;> exact this

@[simp] theorem Strand.issuedAt_pc (st : Strand) (s : State) : (st.issuedAt s).pc = s.cur.nextPc := rfl

@[simp] theorem Strand.issuedAt_seq (st : Strand) (s : State) : (st.issuedAt s).seq = st.seq + 1 := rfl

/-- A SEQ form that issues cleanly and then updates its strand by `f`, leaving the queues, the issue count and the
address of the next bundle: its frame. -/
theorem State.seqFrame_modMe {s : State} (h : s.clean) (f : Strand → Strand) (l : List Part)
    (hp : ∀ st, (f st).pc = st.pc) (hs : ∀ st, (f st).seq = st.seq) (hq : ∀ st q, (f st).queue q = st.queue q)
    (ha : ∀ st p, p ∉ l → (f st).agrees st p) : s.seqFrame (s.issued.modMe f) l := by
  have e : s.issued.modMe f = s.modMe fun st => f (st.issuedAt s) := by
    rw [State.issued_clean h, State.modMe_modMe]
  rw [e]
  refine ⟨⟨by simp [hp], by simp [hs], fun q hn => by simp [hq, Strand.issuedAt_queue _ _ _ hn]⟩, ?_,
    s.elsewhere_modMe _, s.sameBytes_modMe _⟩
  intro p hn
  have h1 := ha (s.me.issuedAt s) p hn
  have h2 := s.me.issuedAt_agrees s p
  simp only [State.me_modMe]
  cases p <;> simp_all [Strand.agrees]

/-- A SEQ form that writes one register runs, and of all registers only that one changes. -/
theorem Sets_seqSet {s : State} (h : s.clean) (i : Instr) (d : XReg) (v : W64) (e : exec i s = s.seqSet d v) :
    Sets s i d v := by
  refine ⟨s.issued.wx d v, e, ?_, fun r => ?_⟩
  · refine State.seqFrame_modMe h _ _ (by simp) (by simp) ?_ ?_
    · intro st q; cases q <;> simp [Strand.queue]
    · intro st p hp
      cases p <;> simp_all [Strand.agrees, Strand.rv, Strand.rm, Strand.re, Strand.rt, Strand.rl, Strand.ctr]
  · have := s.me.issuedAt_agrees s .x r
    simp [State.issued_clean h, this]

/-! ### Completion of a queue's head -/

theorem Strand.setCtr_agrees (st : Strand) (k : Ctr) (n : Nat) {p : Part} (h : p ≠ .tokens) : (st.setCtr k n).agrees st p := by
  cases p <;> first
    | exact absurd rfl h
    | simp [Strand.agrees, Strand.rx, Strand.rv, Strand.rm, Strand.re, Strand.rt, Strand.rl]

theorem Strand.setQueue_agrees (st : Strand) (q : Unit5) (l : List Entry) (p : Part) : (st.setQueue q l).agrees st p := by
  cases p <;> simp [Strand.agrees, Strand.rx, Strand.rv, Strand.rm, Strand.re, Strand.rt, Strand.rl]

theorem Strand.agrees_trans {a b c : Strand} {p : Part} (h1 : a.agrees b p) (h2 : b.agrees c p) : a.agrees c p := by
  cases p <;> simp_all [Strand.agrees]

/-- Pushes change token counters only. -/
theorem Strand.push_agrees (st : Strand) (q : Unit5) (e : Entry) {p : Part} (h : p ≠ .tokens) : (st.push q e).1.agrees st p := by
  unfold Strand.push
  dsimp only
  split <;> split
  · exact Strand.agrees_trans (Strand.setCtr_agrees _ _ _ h) (Strand.setCtr_agrees _ _ _ h)
  · exact Strand.setCtr_agrees _ _ _ h
  · exact Strand.setCtr_agrees _ _ _ h
  · exact Strand.agrees_rfl _ _

theorem finishList_agrees (q : Unit5) (x : Entry) {p : Part} (h : p ≠ .tokens) :
    ∀ (l : List Entry) (st : Strand), (finishList q x st l).1.agrees st p
  | [], st => st.agrees_rfl p
  | e :: es, st => by
    simp only [finishList]
    split
    · exact Strand.push_agrees st q e h
    · exact finishList_agrees q x h es st

/-- The completion of an entry changes its queue and token counters only. -/
theorem Strand.finishEntry_agrees (st : Strand) (q : Unit5) (x : Entry) {p : Part} (h : p ≠ .tokens) :
    (st.finishEntry q x).agrees st p := by
  have hl := finishList_agrees q x h (st.queue q) st
  unfold Strand.finishEntry
  exact Strand.agrees_trans (Strand.setQueue_agrees _ q _ p) hl

/-- The entry at the head of a queue completes: with its pushes made it leaves the queue, else it stays as done (R134). -/
theorem Strand.finishEntry_head (st : Strand) (q : Unit5) (e : Entry) (es : List Entry) (h : st.queue q = e :: es) :
    st.finishEntry q e =
      (st.push q e).1.setQueue q
        (if (st.push q e).2.2 then es else { (st.push q e).2.1 with later := [], left := none, srcs := [] } :: es) := by
  simp [Strand.finishEntry, h, finishList, Entry.same]

end Sys2Proof.Machine
end

