-- ==== Sys2Proof/Laws/Memory.lean ====
section
/-!
SUPPORT. What a translated access can change: lines of L2 and the contents of translation caches, nothing else; and
what writes at places change.
-/

namespace Sys2Proof.Machine

/-! ### L2 lines over GDDR7 -/

/-- An empty line holds no byte. -/
theorem Line.holds_empty (i : Nat) : Line.holds {} i = false := by
  show ((0#4).getLsbD (i / 64) || (0#256).getLsbD i) = false
  rw [BitVec.getLsbD_zero, BitVec.getLsbD_zero]; rfl

/-- What a write-back leaves in GDDR7: the bytes that the line holds, and the others as they were. -/
theorem writeBack_get (l : Line) (b : Nat) (a : Nat) : ∀ (is : List Nat) (g : Mem),
    Mem.get (is.foldl (fun g i => if l.holds i then Mem.set g (b + i) (l.byte i) else g) g) a =
      if b ≤ a ∧ a - b ∈ is ∧ l.holds (a - b) = true then l.byte (a - b) else Mem.get g a
  | [], g => by simp
  | i :: is, g => by
    simp only [List.foldl_cons, writeBack_get l b a is, List.mem_cons]
    by_cases hi : a = b + i
    · subst hi
      by_cases hh : l.holds i
      · simp [hh, Mem.get_set]
      · simp [hh]
    · by_cases hb : b ≤ a
      · have : a - b ≠ i := by omega
        by_cases hh : l.holds i <;> simp [hh, Mem.get_set, hi, this, hb]
      · by_cases hh : l.holds i <;> simp [hh, Mem.get_set, hi, hb]

/-- A line that leaves L2 leaves every byte as it was (R343). -/
theorem State.devGet_evictLine (s : State) (n a : Nat) : (s.evictLine n).devGet a = s.devGet a := by
  have hg := writeBack_get (s.line n) (256 * n) a (List.range 256) s.gddr
  have hl : (s.evictLine n).line (a / 256) = if a / 256 = n then {} else s.line (a / 256) := Map.get_erase {} s.l2 n (a / 256)
  have hg' : Mem.get (s.evictLine n).gddr a =
      if 256 * n ≤ a ∧ a - 256 * n ∈ List.range 256 ∧ (s.line n).holds (a - 256 * n) = true then (s.line n).byte (a - 256 * n)
      else Mem.get s.gddr a := by
    dsimp only [State.evictLine]; exact hg
  unfold State.devGet
  dsimp only
  rw [hl, hg']
  by_cases h : a / 256 = n
  · have e : a - 256 * n = a % 256 := by omega
    have r : a - 256 * n ∈ List.range 256 := List.mem_range.mpr (by omega)
    have hb : 256 * n ≤ a := by omega
    rw [if_pos h, Line.holds_empty, h]
    simp only [e] at r ⊢
    simp [hb, r]
  · have hm : ¬(256 * n ≤ a ∧ a - 256 * n ∈ List.range 256 ∧ (s.line n).holds (a - 256 * n) = true) := by
      rintro ⟨h1, h2, -⟩
      rw [List.mem_range] at h2
      omega
    rw [if_neg h, if_neg hm]

/-- Room is made for a line without a change of any byte (R342). -/
theorem State.devGet_makeRoom (s : State) (n a : Nat) : (s.makeRoom n).devGet a = s.devGet a := by
  unfold State.makeRoom
  dsimp only
  repeat' split
  all_goals first | rfl | exact State.devGet_evictLine _ _ _

/-- The bytes of a line are those that it holds, over GDDR7; those of every other line are as they were. -/
theorem State.devGet_putLine (s : State) (n : Nat) (l : Line) (a : Nat) :
    (s.putLine n l).devGet a =
      if a / 256 = n then (if l.holds (a % 256) then l.byte (a % 256) else Mem.get (s.makeRoom n).gddr a) else s.devGet a := by
  have hl : (s.putLine n l).line (a / 256) = if a / 256 = n then l else (s.makeRoom n).line (a / 256) :=
    Map.get_put {} (s.makeRoom n).l2 n (a / 256) l
  have hr := s.devGet_makeRoom n a
  unfold State.devGet at *
  dsimp only at *
  rw [hl]
  by_cases h : a / 256 = n
  · rw [if_pos h, if_pos h]; rfl
  · rw [if_neg h, if_neg h, ← hr]; rfl

/-! ### GDDR7 stays in canonical form -/

theorem writeBack_wf (l : Line) (b : Nat) : ∀ (is : List Nat) (g : Mem), Mem.wf g = true →
    Mem.wf (is.foldl (fun g i => if l.holds i then Mem.set g (b + i) (l.byte i) else g) g) = true
  | [], _, h => h
  | i :: is, g, h => by
    rw [List.foldl_cons]
    refine writeBack_wf l b is _ ?_
    split
    · exact Mem.set_wf _ _ h
    · exact h

/-- A write-back keeps GDDR7 in canonical form. -/
theorem State.evictLine_wf {s : State} (n : Nat) (h : Mem.wf s.gddr = true) : Mem.wf (s.evictLine n).gddr = true := by
  dsimp only [State.evictLine]; exact writeBack_wf _ _ _ _ h

/-- So does whatever puts a line into L2. -/
theorem State.putLine_wf {s : State} (n : Nat) (l : Line) (h : Mem.wf s.gddr = true) : Mem.wf (s.putLine n l).gddr = true := by
  show Mem.wf (s.makeRoom n).gddr = true
  unfold State.makeRoom
  dsimp only
  repeat' split
  all_goals first | exact h | exact State.evictLine_wf _ h

/-- A write of a byte keeps GDDR7 in canonical form. -/
theorem State.devSet_wf {s : State} (a : Nat) (b : Byte) (h : Mem.wf s.gddr = true) : Mem.wf (s.devSet a b).gddr = true :=
  State.putLine_wf _ _ h

/-! ### What a translated access can change -/

/-- Only L2 lines, what they write back, what translation caches and layout units hold, and what checks of sectors find differ. -/
def State.viaCaches (s t : State) : Prop :=
  t = { s with
    gddr := t.gddr, l2 := t.l2, groups := t.groups, ports := t.ports, dirs := t.dirs, poison := t.poison, checks := t.checks, mg := t.mg
    blackBox := t.blackBox }

theorem State.viaCaches_refl (s : State) : s.viaCaches s := rfl

theorem State.viaCaches_trans {s t u : State} (h1 : s.viaCaches t) (h2 : t.viaCaches u) : s.viaCaches u := by
  unfold State.viaCaches at *; rw [h2, h1]

theorem State.viaCaches_cores {s t : State} (h : s.viaCaches t) : t.cores = s.cores := by rw [h]
theorem State.viaCaches_cur {s t : State} (h : s.viaCaches t) : t.cur = s.cur := by rw [h]
theorem State.viaCaches_cyc {s t : State} (h : s.viaCaches t) : t.cyc = s.cyc := by rw [h]
theorem State.viaCaches_host {s t : State} (h : s.viaCaches t) : t.host = s.host := by rw [h]
theorem State.viaCaches_peers {s t : State} (h : s.viaCaches t) : t.peers = s.peers := by rw [h]
theorem State.viaCaches_free {s t : State} (h : s.viaCaches t) : t.free = s.free := by rw [h]

theorem State.viaCaches_core {s t : State} (h : s.viaCaches t) (c : Nat) : t.core c = s.core c := by
  unfold State.core; rw [State.viaCaches_cores h]

theorem State.viaCaches_strand {s t : State} (h : s.viaCaches t) (c k : Nat) : t.strand c k = s.strand c k := by
  unfold State.strand; rw [State.viaCaches_core h]

theorem State.viaCaches_me {s t : State} (h : s.viaCaches t) : t.me = s.me := by
  unfold State.me; rw [State.viaCaches_strand h, State.viaCaches_cur h]

theorem State.viaCaches_placement {s t : State} (h : s.viaCaches t) (c : Nat) : t.placement c = s.placement c := by
  unfold State.placement; rw [State.viaCaches_core h]

theorem State.evictLine_via (s : State) (n : Nat) : s.viaCaches (s.evictLine n) := by
  unfold State.evictLine
  dsimp only
  generalize List.foldl _ s.gddr (List.range 256) = g
  rfl

theorem State.makeRoom_via (s : State) (n : Nat) : s.viaCaches (s.makeRoom n) := by
  unfold State.makeRoom
  dsimp only
  repeat' split
  all_goals first | exact s.viaCaches_refl | exact s.evictLine_via _

theorem State.putLine_via (s : State) (n : Nat) (l : Line) : s.viaCaches (s.putLine n l) := by
  have h := s.makeRoom_via n
  unfold State.putLine
  exact State.viaCaches_trans h rfl

theorem State.devSet_via (s : State) (a : Nat) (b : Byte) : s.viaCaches (s.devSet a b) := s.putLine_via _ _

theorem State.bbEvent_via (s : State) (kind cause tenant core : Nat) (data : BitVec 128) : s.viaCaches (s.bbEvent kind cause tenant core data) := by
  have h : ∀ l, s.viaCaches { s with blackBox := l } := fun _ => rfl
  unfold State.bbEvent
  split
  · exact h _
  · split
    · rfl
    · exact h _

theorem State.verifySector_via (s : State) (q : Nat) : s.viaCaches (s.verifySector q) := by
  have h : ∀ p c m, s.viaCaches { s with poison := p, checks := c, mg := m } := fun _ _ _ => rfl
  unfold State.verifySector; split
  · exact State.viaCaches_trans (h _ _ _) (State.bbEvent_via _ _ _ _ _ _)
  · rfl

theorem State.fillSector_via (s : State) (q : Nat) : s.viaCaches (s.fillSector q) := by
  unfold State.fillSector; dsimp only; split
  · rfl
  · exact State.viaCaches_trans (s.verifySector_via q) (State.putLine_via _ _ _)

theorem State.fillSectors_via : ∀ (n : Nat) (s : State) (q : Nat), s.viaCaches (s.fillSectors q n)
  | 0, _, _ => rfl
  | n + 1, s, q => State.viaCaches_trans (s.fillSector_via q) (State.fillSectors_via n _ (q + 1))

theorem State.devTouch_via (s : State) (a n : Nat) : s.viaCaches (s.devTouch a n) := State.fillSectors_via _ s _

theorem State.keepDir_via (s : State) (tenant index : Nat) : s.viaCaches (s.keepDir tenant index) := by
  unfold State.keepDir
  generalize Map.put s.dirs _ _ = x
  split <;> rfl

theorem State.devWrite_via : ∀ (s : State) (a : Nat) (bs : List Byte), s.viaCaches (s.devWrite a bs)
  | _, _, [] => rfl
  | s, a, b :: bs => State.viaCaches_trans (s.devSet_via a b) (State.devWrite_via _ (a + 1) bs)

theorem State.setTcache_via (s : State) (c : TCache) (l : List TEntry) : s.viaCaches (s.setTcache c l) := by cases c <;> rfl

theorem State.dropT_via (s : State) (c : TCache) (d : Desc) (k : Nat) : s.viaCaches (s.dropT c d k) := s.setTcache_via _ _

theorem State.installT_via (s : State) (c : TCache) (d : Desc) (k : Nat) (e : W64) : s.viaCaches (s.installT c d k e) :=
  s.setTcache_via _ _

theorem State.accessed_via (s : State) (c : TCache) (d : Desc) (k : Nat) : s.viaCaches (s.accessed c d k) := by
  cases c
  · exact s.devSet_via _ _
  · rfl
  · rfl

theorem State.walk_via (s : State) (c : TCache) (d : Desc) (k : Nat) : s.viaCaches (s.walk c d k).2 := by
  unfold State.walk
  dsimp only
  split
  · rfl
  · have h1 : s.viaCaches (if Map.has s.dirs (dirKey d.tenant d.index) then s.devTouch (tenantBase + 64 * d.tenant) 64
        else (s.devTouch (tenantBase + 64 * d.tenant) 64).devTouch (s.tenantField d.tenant 8 8 + 128 * d.index) 128) := by
      split
      · exact s.devTouch_via _ _
      · exact State.viaCaches_trans (s.devTouch_via _ _) (State.devTouch_via _ _ _)
    generalize (if Map.has s.dirs (dirKey d.tenant d.index) then _ else _) = t at h1 ⊢
    have h2 := State.viaCaches_trans h1 (t.devTouch_via (d.ttbase + 8 * k) 8)
    generalize t.devTouch (d.ttbase + 8 * k) 8 = u at h2 ⊢
    split
    · exact h2
    · split
      · exact h2
      · exact State.viaCaches_trans h2 (State.viaCaches_trans (State.keepDir_via _ _ _)
          (State.viaCaches_trans (State.accessed_via _ c d k) (State.installT_via _ _ _ _ _)))

theorem State.cached_via (s : State) (c : TCache) (d : Desc) (k : Nat) : s.viaCaches (s.cached c d k).2 := by
  unfold State.cached
  split
  · exact s.walk_via c d k
  · split
    · rfl
    · exact State.viaCaches_trans (s.dropT_via c d k) (State.walk_via _ c d k)

theorem State.dirty_via (s : State) (c : TCache) (d : Desc) (k : Nat) (e : W64) : s.viaCaches (s.dirty c d k e) := by
  unfold State.dirty
  split
  · rfl
  · exact State.viaCaches_trans (s.devSet_via _ _) (State.installT_via _ _ _ _ _)

theorem State.tile_via (s : State) (c : TCache) (d : Desc) (k : Nat) (w : Bool) : s.viaCaches (s.tile c d k w).2 := by
  unfold State.tile
  dsimp only
  generalize s.cacheOf d k c = c'
  have h := s.cached_via c' d k
  split
  · rename_i e; rw [e] at h; exact h
  · rename_i e; rw [e] at h; exact h
  · rename_i e0 t e
    rw [e] at h
    split
    · exact h
    · split
      · exact h
      · have h2 := State.walk_via (t.dropT c' d k) c' d k
        have h3 := State.viaCaches_trans h (t.dropT_via c' d k)
        split
        · rename_i e2; rw [e2] at h2; exact State.viaCaches_trans h3 h2
        · rename_i e2; rw [e2] at h2; exact State.viaCaches_trans h3 h2
        · rename_i e2; rw [e2] at h2
          have h4 := State.viaCaches_trans h3 h2
          split
          · exact h4
          · split <;> exact h4

theorem State.elem_via (s : State) (c : TCache) (d : Desc) (cs : List Int) (w : Bool) : s.viaCaches (s.elem c d cs w).2 := by
  unfold State.elem
  split
  · rfl
  · rename_i k _ _
    have h := s.tile_via c d k w
    split <;> rename_i e <;> rw [e] at h <;> exact h

theorem State.elems_via : ∀ (ws : List Bool) (s : State) (c : TCache) (d : Desc) (w : Bool) (cs : List Int)
    (last : Option (Nat × Except Nat (Option W64))), s.viaCaches (s.elems c d w ws cs last).2
  | [], _, _, _, _, _, _ => rfl
  | b :: ws, s, c, d, w, cs, last => by
    unfold State.elems
    dsimp only
    split
    · exact State.elems_via ws s c d w _ last
    · rename_i k _ _
      have h2 : s.viaCaches (match last with
          | some (j, r) => if j = k then (r, s) else s.tile c d k w
          | none => s.tile c d k w).2 := by
        split
        · split
          · exact s.viaCaches_refl
          · exact s.tile_via c d k w
        · exact s.tile_via c d k w
      exact State.viaCaches_trans h2 (State.elems_via ws _ c d w _ _)

theorem State.flatBytes_via (s : State) (c : TCache) (tenant : Nat) (ref : W64) (x : Int) (n : Nat) (w : Bool) :
    s.viaCaches (s.flatBytes c tenant ref x n w).2 := by
  unfold State.flatBytes
  split
  · rfl
  · rename_i d _
    split
    · rfl
    · have h := State.elems_via (List.replicate n true) s c d w [x] none
      dsimp only
      split <;> exact h

/-- The code span of a line: what its read may change. -/
theorem State.span_via (s : State) (c : TCache) (tenant : Nat) (ref : W64) (off n : Nat) (w : Bool) :
    s.viaCaches (s.span c tenant ref off n w).2 := by
  unfold State.span
  split
  · rfl
  · rename_i d _
    split
    · rfl
    · have h := s.elem_via c d [(off : Int)] w
      split <;> rename_i e <;> rw [e] at h
      · exact h
      · exact h
      · exact h
      · split <;> exact h

theorem State.line0_via (s : State) (c : Nat) (a : W64) : s.viaCaches (s.line0 c a).2 := by
  unfold State.line0
  dsimp only
  split
  · rfl
  · have h := s.span_via (tcOf c) (s.placement c).tenant (s.placement c).codeten
      ((s.placement c).codeoff + 64 * (a.toNat / 64)) 64 false
    split <;> rename_i e <;> rw [e] at h <;> exact h

/-- The checks of a transfer target change L2 lines and translation caches only. -/
theorem State.target_via (s : State) (c h : Nat) (anyOnly : Bool) (T : W64) : s.viaCaches (s.target c h anyOnly T).2 := by
  have hl := s.line0_via c T
  unfold State.target
  split
  · rename_i e; rw [e] at hl; exact hl
  · rename_i e; rw [e] at hl
    dsimp only
    split
    · exact hl
    · split <;> exact hl

/-- Fetch and decode change L2 lines and translation caches only. -/
theorem State.fetch_via (s : State) (c h : Nat) (pc : W64) : s.viaCaches (s.fetch c h pc).2 := by
  have hl := s.line0_via c pc
  unfold State.fetch
  split
  · rename_i e; rw [e] at hl; exact hl
  · rename_i e; rw [e] at hl
    dsimp only
    repeat' split
    all_goals exact hl

/-- A flat pointer's checks change L2 lines and translation caches only. -/
theorem State.flatAt_via (s : State) (c tenant : Nat) (ptr ref : W64) (off : Int) (al n : Nat) (w h : Bool) :
    s.viaCaches (s.flatAt c tenant ptr ref off al n w h).2 := by
  unfold State.flatAt
  dsimp only
  split
  · rfl
  · split
    · rfl
    · have hv := s.flatBytes_via (tcOf c) tenant ref ((ptrCoord ptr : Int) + off) n w
      split <;> rename_i e <;> rw [e] at hv
      · exact hv
      · split <;> exact hv

theorem State.touch_via (s : State) (ls : List Loc) : s.viaCaches (s.touch ls) := by
  unfold State.touch
  generalize noRuns none ((ls.filter Loc.isDev).map fun l => l.addr / 64) = l
  induction l generalizing s with
  | nil => rfl
  | cons q l ih => exact State.viaCaches_trans (s.fillSector_via q) (ih _)

/-- Finding a ring changes L2 lines and translation caches only. -/
theorem State.ringOf_via (s : State) (c tenant : Nat) (w ref : W64) (st : Bool) : s.viaCaches (s.ringOf c tenant w ref st).2 := by
  unfold State.ringOf
  split
  · split
    · rfl
    · have hv := s.flatAt_via c tenant (w64 (w.toNat % 2 ^ 52)) ref 0 256 256 st true
      split <;> rename_i e <;> rw [e] at hv
      · exact hv
      · exact State.viaCaches_trans hv (State.touch_via _ _)
  · split <;> rfl

end Sys2Proof.Machine
end

