-- ==== Sys2Proof/Tests/Slice0.lean ====
section
/-!
SUPPORT. The model's own tests: words of the spec's encodings, ill-formed terms, worked examples of the spec, and states that meet
the hypotheses of the statements.
-/

namespace Sys2Proof.Tests

open Sys2Proof Sys2Proof.Machine

set_option Elab.async false

/-! ### Small states -/

/-- Core 0 holds a placement of node 0 whose code is one line with a bundle of `join`; tensor 1 of tenant 0 is that line's tile of
4096 bytes, resident and writable; strand 0 runs. -/
def mach : State := { State.reset.withWord 0x02000003 none with agenda := [] }

/-- `mach` with the executing instruction's bundle at code address 4. -/
def atBundle : State := { mach with cur := { entry := { bundle := 4 }, nextPc := 12 } }

/-- An empty machine whose strand 0 of core 0 is `st`. -/
def one (st : Strand) : State := State.setStrand {} 0 0 st

/-- The same, with the entry at the head of a queue in execution. -/
def oneAt (q : Unit5) (e : Entry) (st : Strand) : State := { one (st.setQueue q [e]) with cur := { unit := q, entry := e } }

/-- `mach` with the entry at the head of strand 0's queue in execution. -/
def machAt (q : Unit5) (e : Entry) : State :=
  { mach.modStrand 0 0 (fun st => st.setQueue q [e]) with cur := { unit := q, entry := e } }

/-- The value of a computation that may fail, if it does not. -/
def okv {α : Type} : Except Nat α → Option α
  | .ok a => some a
  | .error _ => none

/-- The cause of a computation that may fail, if it does. -/
def errv {α : Type} : Except Nat α → Option Nat
  | .ok _ => none
  | .error k => some k

/-! ### Hypotheses that are met -/

theorem wit_clean : State.clean {} ∧ State.clean atBundle ∧ State.clean mach :=
  have h1 : atBundle.cur.rest = [] := by decide +kernel
  have h2 : mach.cur.rest = [] := by decide +kernel
  ⟨(fun _ h => nomatch h), (fun p hp => by rw [h1] at hp; exact nomatch hp), (fun p hp => by rw [h2] at hp; exact nomatch hp)⟩

theorem wit_transfers :
    (atBundle.issued.target 0 0 false 4).1 = none ∧ atBundle.cur.entry.bundle + BitVec.ofInt 64 (0 * 4) = 4 ∧ atBundle.x 0 = 0 ∧
      ((atBundle.modMe fun st => st.wx 1 4).x 1 ≠ 0) ∧ ((atBundle.modMe fun st => st.wx 1 (-1)).x 1).toInt < 0 ∧
      ((atBundle.issued.wx 1 12).target 0 0 false 4).1 = none ∧ (atBundle.issued.target 0 0 false 0).1 = some (0x03, 0) ∧
      ((atBundle.issued.wx 1 12).target 0 0 false 64).1 = some (0x04, 64) ∧ atBundle.me.trapped = false := by decide +kernel

theorem wit_loop :
    ((atBundle.modMe fun st => st.wl 0 (2 * 2 ^ 32)).me.rl 0).toNat / 2 ^ 32 = 2 ∧
      (((atBundle.modMe fun st => st.wl 0 (2 * 2 ^ 32)).issued.modMe fun st => st.wl 0 (2 * 2 ^ 32 + 1)).target 0 0 false 4).1 = none ∧
      (atBundle.me.rl 0).toNat / 2 ^ 32 ≤ (atBundle.me.rl 0).toNat % 2 ^ 32 + 1 := by decide +kernel

theorem wit_special :
    mach.idxItem 0 = some 0 ∧ mach.idxItem 63 = none ∧ mach.csr 0x10 = some 0 ∧ mach.csr 63 = none ∧
      (4 : W64).toNat % 4 = 0 ∧ (4 : W64).toNat < 64 * mach.myPlace.nlines ∧ (4 : W64).toNat % 64 / 4 ≠ 0 ∧
      (match mach.line0 0 4 with
        | (.ok l, t) => decide (linkOwner (t.codeWord 0 l 0) ≠ 5)
        | _ => false) = true ∧
      64 * mach.myPlace.nlines ≤ (64 : W64).toNat := by decide +kernel

theorem wit_lit_constant_line :
    (match (mach.withLine [0, 0, 0, 0xA0]).line0 0 4 with
    | (.ok l, t) => decide (linkOwner (t.codeWord 0 l 0) = 5)
    | _ => false) = true := by decide +kernel

theorem wit_events :
    let s := mach.modMe fun st => { st.wx 1 3 with fences := 0 }
    let u := (mach.modCore 0 fun k => { k with place := k.place.map fun p => { p with kd := BitVec.ofNat 512 (2 ^ 48) } }).modMe
      fun st => st.wx 1 (3 + 16 + 2 ^ 10)
    (s.x 1).toNat < 2 ^ 13 ∧ (s.x 1).toNat / 2 ^ 10 % 4 ≠ 3 ∧ s.eventTarget 3 false = (0, 0) ∧ s.holdsNode 0 s.myPlace.node = true ∧
      s.issued.me.openFence = none ∧ s.eventTarget (3 + 16 + 2 ^ 10) false = (0, 1) ∧ (s.placement 0).nstrands = 1 ∧
      (u.x 1).toNat < 2 ^ 13 ∧ (u.x 1).toNat / 2 ^ 10 % 4 ≠ 3 ∧ u.eventTarget (u.x 1).toNat false = (0, 1) ∧
      u.holdsNode 0 u.myPlace.node = true ∧ (u.placement 0).nstrands = 2 ∧ (u.cur.core, u.cur.strand) = (0, 0) ∧ ¬ (2 ^ 13 : Nat) < 2 ^ 13 := by decide +kernel

theorem wit_event_waits :
    let s : State := { one {} with cyc := 10, increments := [{ core := 0, strand := 0, ctr := 15, amt := 1, node := 0, srcCore := 1, srcStrand := 0 }] }
    let w := one { wait := .wfe 5 0 10 none 0 }
    s.increments[0]? ≠ none ∧ blockedBy { core := 0, strand := 0, ctr := 15, amt := 1, node := 0, srcCore := 1, srcStrand := 0 } (s.increments.take 0) = false ∧
      s.reaches 0 0 0 false = false ∧ mach.reaches 0 0 0 false = true ∧ (s.increments.map fun i => i.fence) = [none] ∧
      ((mach.modMe fun st => { st with lq := [{ marker := some (0, .dev) }] }).issued.me.openFence ≠ none) ∧ (w.strand 0 0).wait = .wfe 5 0 10 none 0 ∧ (10 : W64) ≠ 0 ∧
      0 + (10 : W64).toNat ≤ s.cyc ∧ ((one {}).me.re0 15).toNat = 0 := by decide +kernel

theorem wit_handler_entry :
    let s := one { trapped := true, rec_ := { cause := 0x20 } }
    let t := s.modCore 0 fun k => { k with place := some { kd := BitVec.ofNat 512 (4 * 2 ^ 416), started := true } }
    (t.strand 0 0).trapped = true ∧ (t.strand 0 0).stopped = false ∧ (t.strand 0 0).inQop = false ∧
      (t.strand 0 0).endCause (t.placement 0).trapentry = none ∧ (t.strand 0 0).settled t.cyc = true ∧ t.outstanding 0 0 = false := by
  decide +kernel

theorem wit_eret :
    let s := atBundle.modMe fun st => { st with handler := true, rec_ := { st.rec_ with resume := 4 } }
    s.me.handler = true ∧ s.cur.rest = [] ∧ s.me.drained = true ∧ s.outstanding 0 0 = false ∧
      ((s.issued.modMe fun st => { st with wait := .eret }).target 0 0 false s.me.rec_.resume).1 = none ∧ s.preempting 0 = false ∧
      s.me.rlq = [] ∧ s.me.rcq = [] ∧ s.me.rsq = [] ∧ s.me.rea = [] := by decide +kernel

theorem wit_context_frames :
    (one {}).me.frameBad 1 = true ∧ (one {}).me.frameBad 0xFDC00 = false ∧ (one {}).me.frameBad 0xFDC40 = true ∧
      (one {}).quiet 0 0 = true := by decide +kernel

theorem wit_bdecl :
    let s := one {}
    let h := one { handler := true }
    let taken : State := { one {} with bars := [(7, { node := some 5 })] }
    h.barForbidden = true ∧ s.barForbidden = false ∧ s.bdeclCause 0 0x00010107 0 = none ∧ (s.me.bar 0).valid = false ∧
      (Map.get {} s.bars 7).node = none ∧ s.bdeclCause 0 0x00010FFF 0 = some 0x51 ∧ taken.bdeclCause 0 0x00010107 0 = some 0x52 := by
  decide +kernel

theorem wit_barrier_forms :
    let s := one { bars := [(0, { valid := true, setw := 0x00010107, del := 2 })] }
    s.barForbidden = false ∧ (s.me.bar 0).valid = true ∧ (s.me.bar 1).valid = false ∧ s.barCause 0 0 true = none ∧ s.barCause 0 1 false = none ∧
      (s.me.bar 0).del.getLsbD 1 = true ∧ (s.me.bar 0).del.getLsbD 0 = false ∧ setDepth 0x00010107 = 2 := by decide +kernel

theorem wit_barrier_unit :
    let s : State := { one { bars := [(0, { valid := true, setw := 0x00010107 })] } with
      bars := [(7, { node := some 0, setw := 0x00010107, count := 1 })], barArr := [{ core := 0, strand := 0, id := 7, rel := false, seq := 0, node := 0 }]
      barDue := [{ core := 0, id := 7, clk := 0 }] }
    s.barArr[0]? ≠ none ∧ (s.barArr.take 0).any (fun b => b.core == 0 && b.strand == 0 && b.node == 0) = false ∧ s.performedTo 0 0 0 = true ∧
      s.mayServe unitBarrier 0 = true ∧ s.arrivalDue 0 = false ∧ (Map.get {} s.bars 7).node = some 0 ∧ (Map.get {} s.bars 8).node ≠ some 0 ∧
      (s.barDue.map fun d => decide (d.core = 0 ∧ d.clk ≤ s.cyc)) = [true] ∧
      setCount 0x00010107 = 2 ∧ (Map.get {} s.bars 7).count + 1 = setCount 0x00010107 ∧ (Map.get {} s.bars 8).count + 1 ≠ setCount 0x00010107 ∧
      (s.core 0).wantsId 7 = true ∧ s.dueCores.head? = some 0 ∧ s.delivered < 128 ∧ ((s.strand 0 0).bar 0).has 7 = true := by decide +kernel

theorem wit_spawn :
    let s := atBundle.modMe fun st => st.wx 1 4
    s.me.handler = false ∧ ((s.target 0 0 true 4).1 = none) ∧ (s.x 1 &&& 0x1FFFFF) = 4 ∧ (s.x 1).toNat < 2 ^ 21 ∧
      ((s.modMe fun st => st.wx 1 (2 ^ 21 + 4)).x 1 &&& 0x1FFFFF) = 4 ∧ (3 * 2 ^ 10 : W64).toNat / 2 ^ 10 % 4 = 3 ∧ (57 : XReg).toNat ≤ 57 ∧ 57 < (58 : XReg).toNat ∧ (s.b (.reg 0)).toNat < 2 ^ 13 ∧ (s.taskRecs 0).length < 32 ∧
      (s.target 0 0 true 0).1 = some (0x03, 0) ∧ (one { handler := true }).me.handler = true := by decide +kernel

theorem wit_spawn_full :
    let s := mach.modCore 0 fun k => { k with sp := (List.range 32).map fun i => (64 * i, 4) }
    32 ≤ (s.taskRecs 0).length := by decide +kernel

theorem wit_tasks :
    let s := (mach.modCore 0 fun k => { k with sp := [(0, 4)], taskMarks := [0] }).modStrand 0 1 fun st => { st with run := .idle }
    (one {}).me.join = 0 ∧ (one { joins := [(0, 1)] }).me.join ≠ 0 ∧ (one {}).nestEligible 0 0 = false ∧ s.nestEligible 0 0 = true ∧
      (s.strand 0 1).idle = true ∧ (s.strand 0 1).trapped = false ∧ s.preempting 0 = false ∧ s.holdsNode 0 0 = true ∧ s.takeFrom 0 = some 0 := by
  decide +kernel

/-- A task whose first bundle waits for an access of its spawner. -/
theorem wit_gated :
    let s := (mach.modStrand 0 0 fun st => { st with lq := [{}] }).modStrand 0 1 fun st => { st with run := .running, gate := some (0, 0, 1) }
    s.gated 0 1 = true ∧ (s.strand 0 1).catchUp = false ∧ (s.strand 0 1).inQop = false := by decide +kernel

/-- A placement that waits to start, its tables in the first 16 KiB of a tensor of four tiles. -/
def starting : State :=
  let dir := 0x1000
  let e := 2 ^ 9 + 2 ^ 64 * 0x2000 + 2 ^ 128 * 0x3000 + 2 ^ 192 * 4 + 2 ^ 256 * 16384 + 2 ^ 288 * 12 + 2 ^ 320
  let t : State := { keys := [(0, 0), (1024, 0)] }
  let t := (((t.devWrite tenantBase (leBytes 64 (1 + 2 ^ 64 * dir + 2 ^ 128 * 2))).devWrite (dir + 128) (leBytes 128 e)).devWrite 0x2000
    ((List.range 4).flatMap fun i => leBytes 8 (7 + 2 ^ 24 * (16 + i))))
  t.setCore 0 { place := some { kd := BitVec.ofNat 512 (2 ^ 64 + 2 ^ 160 * 0x400 + 2 ^ 192 * 0x500 + 2 ^ 224 * 0x600) } }

set_option maxRecDepth 200000 in
theorem wit_placement_start :
    (starting.core 0).place.map Placement.started = some false ∧ starting.coreBusy 0 = false ∧
      (match starting.launchReads 0 [(0, 1024), (0x400, 256), (0x500, 256), (0x600, 8192)] with
        | (.ok _, _) => true
        | _ => false) = true := by decide +kernel

theorem wit_placement_retire : (mach.modStrand 0 0 fun st => { st with run := .exited }).canRetire 0 = true := by decide +kernel

/-- `mach` whose t1 names the tensor. -/
def machT : State := mach.modStrand 0 0 fun st => st.wt 1 1

/-- The layout of the tensor of `mach`. -/
def flat4k : Desc :=
  { tenant := 0, index := 1, gen := 0, esize := 0, fsize := 0, ttbase := 0x2000, cwbase := 0x3000, ntiles := 1, dims := [dimOf (2 ^ 256 * 4096 + 2 ^ 288 * 12 + 2 ^ 320) 0] }

theorem wit_translation :
    errv (mach.desc 0 0) = some 0x25 ∧ okv (machT.desc 0 1) = some flat4k ∧ flat4k.map [4096] = none ∧ flat4k.map [4095] = some (0, 4095) ∧
      entResident (machT.entry flat4k 0) = true ∧ machT.tenantField 0 24 8 = 0 ∧
      entResident ((machT.devWrite 0x2000 (leBytes 8 0)).entry flat4k 0) = false ∧ (2 ^ 32 : Nat) / 2 ^ 32 % 2 ^ 16 ≠ 0 ∧
      flat4k.dims.length = 1 ∧ (59 : XReg).toNat + flat4k.dims.length ≤ 60 ∧ 60 < (60 : XReg).toNat + flat4k.dims.length ∧
      (machT.tcache (.group 0)).any (fun t => t.is flat4k 0) = false ∧ (machT.tcache (.port 49)).any (fun t => t.is flat4k 0) = false ∧ machT.groupUses 0 0 1 = true ∧ Map.has machT.keys 0 = true ∧
      machT.entOk flat4k (machT.entry flat4k 0) = true := by decide +kernel

theorem wit_late_requests :
    let r : LateReq := { request := false, d := 5, ref := 1, tref := 0, coords := [4095], bundle := 4, widx := 1, seq := 0, due := 512 }
    let s := machT.modStrand 0 0 fun st => { st with late := [r] }
    okv (machT.desc machT.myPlace.tenant r.ref) = some flat4k ∧ flat4k.map r.coords = some (0, 4095) ∧ (s.strand 0 0).late = [r] ∧
      ((s.lateCtx 0 0 r).lateStep r).isSome = true ∧ machT.lateReleased r = true ∧
      (machT.modStrand 0 0 fun st => { st with lq := [{}] }).lateReleased r = false := by decide +kernel

theorem wit_tsync :
    let i : TInv := { core := 0, strand := 0, tenant := 0, index := 1, gen := 0, tile := 0, groups := 1 }
    let s : State := { mach with tinvs := [i] }
    let t := s.modStrand 0 1 fun st => { st with lq := [{ left := some 0, tref := 1 }] }
    ((s.tinvs.filter fun i => i.core == 0 && i.strand == 0).any s.usesTile) = false ∧
      ((t.tinvs.filter fun i => i.core == 0 && i.strand == 0).any t.usesTile) = true := by decide +kernel

theorem wit_pgreq_ring :
    let q : Desc := { flat4k with ntiles := 4, dims := [dimOf (2 ^ 256 * 16384 + 2 ^ 288 * 12 + 2 ^ 320) 0] }
    let w : W64 := 2 ^ 63
    let s0 := (starting.devWrite 0x2018 (leBytes 8 0)).devWrite (tenantBase + 24) (leBytes 8 w.toNat)
    let s1 := s0.devWrite 0x10000 (leBytes 256 (lineOfRing { valid := true, base := 2 ^ 48 + 0x1000, stride := 256, cnt := 3 }))
    let s := s1.modStrand 0 0 fun st => st.wt 1 1
    let m := s.ringOf 0 0 w 1 true
    okv (s.desc 0 1) = some q ∧ q.map [0x3000] = some (3, 0) ∧ entResident (s.entry q 3) = false ∧ w64 (s.tenantField 0 24 8) = w ∧
      okv m.1 = some (.global 0x10000) ∧ (m.2.ring (.global 0x10000)).valid = true ∧ (m.2.ring (.global 0x10000)).first true = none ∧
      ((m.2.ring (.global 0x10000)).claim).isSome = true ∧ ((m.2.ring (.global 0x10000)).setSlot 0 1).claim = none ∧
      (okv (m.2.slotPlaces (m.2.ring (.global 0x10000)) 0 32).1).isSome = true := by
  decide +kernel

theorem wit_kv :
    let e := 1 + 2 ^ 4 * 5 + 2 ^ 128 * 0x8000
    let s0 := mach.devWrite (kvEntryAddr 3) (leBytes 64 e)
    let s := s0.modStrand 0 0 fun st => st.wx 1 (newHandle 3 5 0 0)
    let t := s.modCore 0 fun k => { k with kvCache := [9] }
    s.kvReason 0 (s.x 1) = 0 ∧ s.kvReason 0 0 = 2 ∧ hRo (s.x 1) = false ∧ s.myCore.kvCache = [] ∧ t.kvReason 0 (t.x 1) = 0 ∧
      t.myCore.kvCache = [9] ∧ t.kvLength (hIndex (t.x 1)) ≠ 65535 ∧ 0 ≤ t.kvLength (hIndex (t.x 1)) ∧ Map.has t.keys t.myPlace.tenant = true := by
  decide +kernel

/-- The same with a handle of two blocks, and no key. -/
theorem wit_kv_no_key :
    let e := 1 + 2 ^ 4 * 5 + 2 ^ 32 * 2 + 2 ^ 128 * 0x8000
    let s0 := { mach with keys := [(1024, 0)] }.devWrite (kvEntryAddr 3) (leBytes 64 e)
    let s := (s0.modStrand 0 0 fun st => st.wx 1 (newHandle 3 5 0 0)).modCore 0 fun k => { k with kvCache := [9] }
    s.kvReason s.myPlace.tenant (s.x 1) = 0 ∧ Map.has s.keys s.myPlace.tenant = false ∧ s.myCore.kvCache ≠ [] ∧
      s.kvLength (hIndex (s.x 1)) = 2 := by decide +kernel

theorem wit_scratchpad :
    let s := machAt .lq { caps := [0xFFFF8, 0xFFFF8] }
    let t := machAt .lq { left := some 1, srcs := [.at (.sp 0 0) 4] }
    let u := machAt .sq { later := [[(.sp 0 0, 1)]] }
    s.cur.entry.left = none ∧ s.cur.entry.later = [] ∧ s.cur.entry.srcs = [] ∧ s.behind [.sp 0 0xFFFF8] = false ∧ t.cur.entry.left = some 1 ∧
      t.cur.entry.srcs ≠ [] ∧ u.cur.entry.later ≠ [] ∧
    okv (s.spTarget 0xFFFF8 1 [0] 8) = some (0, 0xFFFF8) ∧ s.spStall 0xFFFF8 false [(0xFFFF8, 8)] = false ∧
      s.spStall 0xFFFF8 true [(0xFFFF8, 8)] = false ∧ errv (s.spTarget 0xFFFF9 1 [0] 8) = some 0x20 ∧
      okv (s.spTarget 0xFFF00 4 ((enabled (BitVec.allOnes 64)).map fun i => 4 * i) 4) = some (0, 0xFFF00) ∧
      errv (s.spTarget 0xFFF04 4 ((enabled (BitVec.allOnes 64)).map fun i => 4 * i) 4) = some 0x20 ∧
      s.holdsNode (16 * (0 / 16) + (2 ^ 24 + 2 ^ 20) / 2 ^ 20 % 16) s.myPlace.node = false ∧
      (enabled (BitVec.allOnes 64)).any (fun i => s.stalled 0 s.cur.entry true (4 * i) 4) = false := by decide +kernel

theorem wit_tensor_forms :
    let s := machAt .lq { tref := 1, caps := [0] }
    let load := s.elems (tcOf 0) flat4k false (wantElems flat4k (BitVec.allOnes 64)) s.coords none
    let store := s.elems (tcOf 0) flat4k true (wantElems flat4k (BitVec.allOnes 64)) s.coords none
    okv s.myDesc = some flat4k ∧ s.mreg 0 0 = BitVec.allOnes 64 ∧ firstFault load.1 = none ∧ (hitLocs load.1).any load.2.locPoisoned = false ∧
      s.cur.entry.fails = none ∧ load.2.elemFails (hitLocs load.1) = none ∧ (load.2.touch (hitLocs load.1)).elemFails (hitLocs load.1) = none ∧ load.1.contains (.at (.dev 0x4000)) = true ∧
      firstFault (store.1.map fun h => if h = .absent then .fault 0x28 else h) = none ∧ store.2.elemFails (hitLocs store.1) = none ∧
      flat4k.flat = true ∧ (s.cap 0).toNat / 2 ^ 52 = 0 ∧ (((s.cap 0).toNat % 2 ^ 48 : Nat) : Int) % 4 = 0 := by decide +kernel

theorem wit_atomics :
    let s := machAt .lq { tref := 1, caps := [4088, 1, 2] }
    let a := s.flatAt 0 0 (s.cap 0) 1 0 8 8 true true
    (okv a.1).map List.length = some 8 ∧ ((okv a.1).getD []).any a.2.locPoisoned = false ∧ ((okv a.1).getD []).Nodup ∧
      okv (s.flatAt 0 0 4092 1 0 4 4 true true).1 = some ((List.range 4).map fun i => .dev (0x4000 + 4092 + i)) := by decide +kernel

/-- Core 0 with ring 0 of four slots, all free but those given. -/
def ringed (slots : Map Nat) : State :=
  machAt .lq { caps := [0, 0] } |>.modCore 0 fun k => { k with rings := [(0, { valid := true, base := 0x1000, stride := 64, cnt := 3, slots := slots })] }

theorem wit_ring_name : ((ringed []).myRing 0 true = (.ok (.local 0 0), ringed [])) ∧ ((ringed []).myRing 1 true = (.ok (.local 0 0), ringed [])) ∧
    ((ringed []).myRing 0 false = (.ok (.local 0 0), ringed [])) ∧ ((ringed []).myRing 2 true = (.ok (.local 0 0), ringed [])) :=
  ⟨rfl, rfl, rfl, rfl⟩

theorem wit_rings :
    let r := (ringed []).ring (.local 0 0)
    let w := (ringed [(0, 3)]).ring (.local 0 0)
    let a : Waiter := { core := 0, agent := 0, claims := true }
    r.valid = true ∧ (r.ask a 0).1 = some 0 ∧ (r.ask { a with claims := false } 0).1 = none ∧ (w.ask a 0).1 = none ∧
      (w.ask { a with claims := false } 0).1 = some 0 ∧ ((ringed []).ring (.local 0 1)).valid = false ∧ r.slot 0 = 0 ∧ w.slot 0 = 3 ∧
      ((ringed [(3, 1)]).ring (.local 0 0)).slot 3 = 1 ∧ r.count = 4 ∧ setupOk true (2 ^ 8 * 64 + 63) 0xFF000 = true ∧
      setupOk true (2 ^ 8 * 64 + 63) 0xFF040 = false ∧ r.waiters = [] ∧
      (ringed []).performed 0 0 (fun x => x.before (ringed []).cur.entry) = true ∧ (ringed []).cur.entry.parked = false ∧ r.fill 0 = none ∧
      (((ringed [(3, 1)]).ring (.local 0 0)).fill 3).isSome = true ∧ (((ringed [(3, 4)]).ring (.local 0 0)).release 3).isSome = true := by
  decide +kernel

theorem wit_global_ring :
    let s := (machAt .lq { tref := 1, caps := [2 ^ 63, 2 ^ 63] }).devWrite 0x4000 (leBytes 256 (lineOfRing { valid := true, stride := 64, cnt := 3, slots := [(0, 1)] }))
    let m := s.myRing 1 true
    okv m.1 = some (.global 0x4000) ∧ s.cur.entry.parked = false ∧ okv (s.myRing 0 true).1 = some (.global 0x4000) ∧
      (s.performed 0 0 fun x => x.before s.cur.entry) = true ∧ (m.2.ring (.global 0x4000)).valid = true ∧
      ((m.2.ring (.global 0x4000)).fill 0).isSome = true ∧
      (({ (m.2.ring (.global 0x4000)) with slots := [] } : Ring).ask { core := 0, agent := 0, claims := true } 0).1 = some 0 := by decide +kernel

theorem wit_parked :
    let w : Waiter := { core := 0, agent := 0, claims := true }
    let s := (machAt .lq { parked := true }).modCore 0 fun k => { k with rings := [(0, { valid := true, cnt := 3, waiters := [w] })] }
    (s.ring (.local 0 0)).first true = some w ∧ (s.strand 0 0).trapped = false ∧ (s.strand 0 0).stopped = false ∧
      ((s.ring (.local 0 0)).serve true 0).isSome = true ∧ ((s.strand 0 0).lq.find? fun e => e.parked) = some { parked := true } := by
  decide +kernel

/-- Strand 0 of core 0 holds the hasp. -/
def holder : State := (machAt .cq { caps := [0xFF400] }).modCore 0 fun k => { k with haspHolder := some 0, haspLeft := 1 }

theorem wit_hasp :
    holder.me.hasp ≠ .rejoining ∧ holder.myCore.haspHolder = some holder.cur.strand ∧ 0 < holder.myCore.haspLeft ∧
      (0xFF400 : W64).toNat % 64 = 0 ∧ (0xFF400 : W64).toNat + 3072 ≤ 2 ^ 20 ∧ holder.stalled 0 holder.cur.entry false 0xFF400 3072 = false ∧
      holder.stalled 0 holder.cur.entry true 0xFC000 16384 = false ∧ (0xFF440 : W64).toNat + 3072 > 2 ^ 20 ∧ mach.me.hasp = .none ∧
      mach.myCore.haspHolder ≠ some 0 ∧ (holder.performed 0 0 fun x => x.before holder.cur.entry) = true ∧ holder.haspWanted = false ∧
      holder.cur.entry.parked = false ∧
      (let s := (holder.modCore 0 fun k => { k with haspLeft := 0 }).modStrand 0 0 fun st => { st with lq := [{}] }
      (s.performed 0 0 fun x => x.before { seq := 1 }) = false ∧ s.myCore.haspLeft = 0 ∧ s.haspWanted = false ∧
        (s.modStrand 0 1 fun st => { st with hasp := .waiting }).haspWanted = true) ∧
      (holder.modStrand 0 0 fun st => { st with hasp := .rejoining }).me.hasp = .rejoining := by
  decide +kernel

theorem wit_hasp_grant :
    let s := ({ mach with cyc := 1 }.modStrand 0 0 fun st => { st with hasp := .waiting, haspPrio := 1 }).modStrand 0 1 fun st => { st with hasp := .waiting }
    let k := s.core 0
    (s.strand 0 0).haspEarlier s.cyc = true ∧ (s.strand 0 1).haspEarlier s.cyc = true ∧ k.haspHolder = none ∧ k.haspFree ≤ s.cyc ∧ (k.strand 0).wantsHasp = true ∧ (k.strand 1).wantsHasp = true ∧
      (k.strand 1).haspPrio < (k.strand 0).haspPrio ∧ (k.strand 0).haspPrio < 4 := by decide +kernel

theorem wit_aperture :
    let r : ResElem := { tag := 5 }
    let s := (machAt .ea { caps := [0x80, 5] }).modGroup 0 fun g => { g with attnOut := [r] }
    (0x80 : W64).toNat % 128 = 0 ∧ (0x80 : W64).toNat ≤ 0xFFF80 ∧ (0xFFF81 : W64).toNat % 128 ≠ 0 ∧
      (s.performed 0 0 fun x => x.before s.cur.entry) = true ∧ ¬ ((0xFFFFF : W64).toNat ≤ 0xFFF80) ∧ s.canReserve 0 0 0 = true ∧ s.canReserve 0 0 1 = true ∧
      (s.group 0).results 0 = [] ++ r :: [] ∧ r.core = s.cur.core ∧ r.strand = s.cur.strand ∧ (s.group 0).attnOut = [] ++ r :: [] ∧
      r.tag = (5 : W64).toNat % 65536 := by decide +kernel

/-- A template of a fetch of 16 bytes, and core 0 with it as its template 0. -/
def tmpl16 : BitVec 1024 := 4 + 2 ^ 64 * 16
def copying : State := (machAt .ea { caps := [1, 0, 0] }).modCore 0 fun k => { k with templates := [(0, tmpl16)] }

theorem wit_copy :
    (copying.performed 0 0 fun x => x.before copying.cur.entry) = true ∧ (okv (copying.headCmd 0 0)).isSome = true ∧
      (okv (copying.headCmd 1 0)).isSome = true ∧ (okv (copying.headCmd 2 0)).isSome = true ∧ (copying.chan 0 3).queue = [] ∧
      (copying.core 0).sbFree ≠ none ∧ ((okv (copying.headCmd 0 0)).map fun q => q.sb) = some none ∧ copying.cur.entry.cover = none ∧
      (let s := (machAt .ea { cover := some [4] }).modChan 0 1 fun k => { k with queue := [{ id := 4 }] }
      s.cur.entry.cover = some [4] ∧ (s.chan 0 1).queue = [{ id := 4 }] ∧ (s.chan 0 2).queue = []) ∧
      (let s := copying.modChan 0 1 fun k => { k with queue := [{ id := 4, chain := some 0 }] }
      ((s.chan 0 1).queue.map fun x => (x.chain, x.begun)) = [(some 0, false)]) ∧ (1 : W64).toNat % 128 ≠ 0 ∧ (0x80 : W64).toNat % 128 = 0 ∧
      (15 : W64).toNat < 16 ∧ (0x80 : W64).toNat + 128 * ((15 : W64).toNat + 1) ≤ 2 ^ 20 ∧ (0xFFFFFFFF : W64).toNat < 2 ^ 32 ∧
      2 ^ 32 ≤ (0x100000000 : W64).toNat := by decide +kernel

theorem wit_fabric_forms :
    let s := machAt .ea { tref := 1, caps := [0, 2, 3] }
    let a := s.flatAt 0 0 (s.cap 0) 1 0 256 256 true true
    let f := s.flatAt 0 0 (s.cap 0) 1 0 8 8 true false
    (okv a.1).map List.length = some 256 ∧ s.cur.entry.wait = none ∧ (s.performed 0 0 fun x => x.before s.cur.entry) = true ∧
      s.fwinItem 5 = some 1 ∧ s.fwinItem 6 = none ∧ (okv f.1).map (fun ls => ls.any Loc.isHost) = some false ∧
      sigOk 0x30 0xFFFF 1 = true ∧ sigOk 0x30 0x10000 1 = false ∧ sigOk 0x10000 0 1 = false ∧
      errv (s.flatAt 0 0 0 0 0 256 256 true true).1 = some 0x25 ∧ ((okv a.1).getD []) ≠ [] ∧ s.others s.myPlace = [] ∧
      collOk (BitVec.ofNat 512 (2 ^ 32 + 2 ^ 64 * 0x100 + 2 ^ 96 * 0x200)) 1 = true ∧ collOk 0 1 = false ∧ (0xFFFC0 : W64).toNat ≤ 0xFFFC0 ∧
      (1 : W64).toNat % 64 ≠ 0 := by decide +kernel

/-- A collective of a node of two chips, whose peer has a good link, a stopped one, and none that is left. -/
theorem wit_coll_peers :
    let p : Placement := { mach.myPlace with loops := [2 + 2 ^ 33] }
    let s : State := { mach with winSize := 2 }.modCore 0 fun k => { k with place := some p }
    let port := s.portOf 1
    let t : State := { s with fab := { s.fab with stopped := [(port, 2)] }, unreach := [1] }
    s.others p = [1] ∧ s.vcStopped 1 2 = false ∧ t.vcStopped 1 2 = true ∧ t.unreach = [1] := by decide +kernel

/-- Function 0 with nodes 0 to 9, queue 0 enabled, mapped and open to partition 0, its front end up. -/
def fronted (s : State) (nodes : Map Node) : State :=
  let cb : BitVec 1024 := BitVec.ofNat 1024 (1 + 2 ^ 48 + 2 ^ 64)
  { s with fe := { up := true, fns := [(0, 1 + 2 ^ 28 * 10)], nodes := nodes, queues := [(0, { cb := cb, mapped := true, taken := 1 })] } }

/-- The image of a NODE packet for node 3, as bytes. -/
def nodeImage : List Byte := leBytes 64 (1 + 2 ^ 16 * 3 + 2 ^ 320 * (2 ^ 64 - 1))

theorem wit_queue_forms :
    let s := (fronted mach [(4, { st := .waiting, pred := 1 })]).spWrite 0 0x40 nodeImage
    let t := fronted mach [(3, { st := .ready })]
    let img := s.spImage 0x40
    imageOk 0x40 = true ∧ imageOk 0x41 = false ∧ pktType img = 1 ∧ nodePktOk img = true ∧ s.nodeAllowed 0 img = true ∧
      (t.node (pf img 16 12)).st ≠ .free ∧ s.inWindow 0 9 = true ∧ s.inWindow 0 10 = false ∧ (s.node 4).st = .waiting ∧ (s.node 5).st ≠ .waiting ∧
      (2 ^ 32 : W64).toNat / 2 ^ 32 ≠ s.myPlace.queue ∧ (0xFFFFFFFF : W64).toNat / 2 ^ 32 = 0 ∧ (s.fq 0).slots ≤ 2 ^ 31 ∧
      ((s.fq 0).consume + 2 ^ 32 - (0xFFFFFFFF : W64).toNat % 2 ^ 32) % 2 ^ 32 = 1 ∧ (s.performed 0 0 fun _ => true) = true ∧
      (s.node (pf img 16 12)).st = .free ∧ (okv (s.createNode 0 img none).1).isSome = true ∧ s.mayServe unitNodes 1 = true ∧
      { s with served := [(unitNodes, (0, 2))] }.mayServe unitNodes 1 = false ∧ 0 < (s.fq 0).slots ∧ (s.fq 0).consume = 0 ∧
      (okv (s.patchPacket 0 0 img).1).isSome = true ∧
      (errv ((s.modQ 0 fun k => { k with cb := k.cb ||| 2 ^ 65 }).patchPacket 0 0 img).1).isSome = true := by decide +kernel

theorem wit_stream_forms :
    let c : Claimed := { slot := 1, frame := 7, deadline := 9 }
    let x : Stream := { active := true, desc := 2 ^ 16 * 3, claimed := [c] }
    let s := { fronted (machAt .ea { caps := [1] }) [(0, { bound := some 2 })] with streams := [(2, x)] }
    s.myStream = some 2 ∧ mach.myStream = none ∧ (s.stream 2).submission (s.cap 0).toNat = some c ∧ (s.stream 2).submission 2 = none ∧
      (s.stream 2).fault = false ∧ (s.performed 0 0 fun x => x.before s.cur.entry) = true ∧
      ((s.stream 2).fifo.filter fun x => !x.picked).length < 8 := by decide +kernel

/-- `fronted` with the tensor's first packet this one. -/
def packeted (p : Nat) (nodes : Map Node) : State := (fronted mach nodes).devWrite 0x4000 (leBytes 64 p)

/-- The packet at the head of queue 0. -/
def headPkt (s : State) : Option (BitVec 512) :=
  match (s.headPacket 0).1 with
  | some (.ok p) => some p
  | _ => none

theorem wit_packets :
    let dec := 2 + 2 ^ 64 * 4
    let s := packeted dec [(4, { st := .waiting, pred := 1 })]
    let wait := 3 + 2 ^ 8 + 2 ^ 64 + 2 ^ 128 * 8 + 2 ^ 192 * 5 + 2 ^ 256 * 0xFF
    let fence := 5 + 2 ^ 8 + 2 ^ 16 * 4
    headPkt (packeted 0 []) = some 0 ∧ (s.headPacket 0).2.fe.linkHeld = false ∧ s.fe.linkHeld = false ∧ decPktOk (BitVec.ofNat 512 (dec + 2 ^ 8 * 31)) = false ∧
      waitPktOk (BitVec.ofNat 512 (wait + 2 ^ 12)) = false ∧ headPkt s = some (BitVec.ofNat 512 dec) ∧ decPktOk (BitVec.ofNat 512 dec) = true ∧
      (∀ m ∈ decNodes (BitVec.ofNat 512 dec), (s.inWindow 0 m = true ∧ (s.node m).st = .waiting ∧ (decNodes (BitVec.ofNat 512 dec)).count m ≤ (s.node m).pred)) ∧
      waitPktOk (BitVec.ofNat 512 wait) = true ∧ waitHolds (BitVec.ofNat 512 wait) 5 = true ∧ waitHolds (BitVec.ofNat 512 wait) 6 = false ∧
      okv ((packeted wait []).waitWord 0 (BitVec.ofNat 512 wait)).1 = some 1 ∧
      pf (BitVec.ofNat 512 fence) 9 7 = 0 ∧ pf (BitVec.ofNat 512 fence) 28 484 = 0 ∧ s.inWindow 0 4 = true ∧ (s.node 4).live = true ∧
      pktType (BitVec.ofNat 512 fence) = 5 ∧ (s.node 5).live = false ∧ pktType 8 = 8 := by decide +kernel

theorem wit_packet_node :
    let p := leNat nodeImage
    let s := packeted p []
    let v := BitVec.ofNat 512 p
    headPkt s = some v ∧ nodePktOk v = true ∧ s.nodeAllowed 0 v = true ∧ (s.node 3).st = .free ∧ (okv (s.createNode 0 v (some 0)).1).isSome = true ∧
      ((packeted p [(3, { st := .error })]).node 3).st ≠ .free ∧ nodePktOk (v ||| 2 ^ 13) = false ∧ s.nodeAllowed 0 (v ||| 2 ^ 8) = false := by
  decide +kernel

theorem wit_packet_signal :
    let p := 4 + 2 ^ 64 + 2 ^ 128 * 0x40 + 2 ^ 192 * 7
    let s := packeted p []
    let v := BitVec.ofNat 512 p
    headPkt s = some v ∧ pf v 10 54 = 0 ∧ pf v 128 64 % 8 = 0 ∧ pf v 256 256 = 0 ∧ s.queueBusy 0 = false ∧
      (okv (s.portWrite 0 (w64 (pf v 64 64)) (pf v 128 64) (leBytes 8 (pf v 192 64))).1).isSome = true := by decide +kernel

theorem wit_queues :
    let s := { fronted mach [] with arg := { word := 64 } }
    let wait := BitVec.ofNat 512 (3 + 2 ^ 64 + 2 ^ 128 * 8)
    let t := s.modQ 0 fun k => { k with mapped := false, pending := true }
    let b := s.modQ 0 fun k => { k with run := some wait, blocked := true }
    s.queueOfReg 0 0 = some 0 ∧ (64 : W64).toNat % 2 ^ 32 = 64 ∧ (s.fq 0).latched = 0 ∧ (s.fq 0).slots = 64 ∧ t.mapNext = some 0 ∧
      (t.fe.queues.filter fun p => p.2.mapped).length < 32 ∧ s.fe.up = true ∧ (b.fq 0).mapped = true ∧ (b.waitWord 0 wait).2.fe.linkHeld = false ∧
      Map.has s.fe.queues 0 = true ∧ { s with fe := { s.fe with fns := [(1, 1)], queues := [(0, { cb := 2 ^ 48 })] } }.fe.queues.length = 1 ∧ (b.fq 0).enabled = true ∧ (b.fq 0).stopped = false ∧ (b.fq 0).run = some wait ∧
      (okv (b.waitWord 0 wait).1).map (waitHolds wait) = some true ∧ ((s.queueError 0 1 0 0).fq 0).stopped = true := by decide +kernel

theorem wit_host :
    let s := { machAt .ea {} with mg := { dataUp := true } }
    let w := s.hostSpan 0 1 [16] 4 true
    let r := s.hostSpan 0 1 [16] 4 false
    (w.1.map List.length = some 4) ∧ (w.1.getD []).Nodup ∧ r.1.isSome = true ∧ (s.hostSpan 0 1 [4096] 4 true).1 = none ∧ s.mg.recovery = false ∧
      0x2000 ≤ 0x21E0 ∧ 0x21E0 + 32 ≤ 0x2200 ∧ (0x21E0 : Nat) % 32 + 32 ≤ 32 ∧ (0x3FF80 : Nat) + 128 ≤ 0x40000 ∧ (0x3FF80 : Nat) % 128 + 128 ≤ 128 ∧
      (s.fq 1023).enabled = false ∧ s.windowBad 3 (1 + 2 ^ 16 * 5 + 2 ^ 28 * 7) = false ∧ s.windowBad 3 (1 + 2 ^ 16 * 4095 + 2 ^ 28 * 4096) = true := by
  decide +kernel

/-- A partition of group 0 and a data plane that runs. -/
def parted (nodes : Map Node) : State := { fronted mach nodes with fe := { (fronted mach nodes).fe with parts := [(0, 1)] }, mg := { dataUp := true } }

theorem wit_nodes :
    let n : Node := { st := .ready, pkt := 2 ^ 64, checked := false }
    let bad : Node := { n with kd := 2 ^ 47 }
    let s := { fronted mach [(2, n), (3, bad), (4, { st := .ready }), (5, { st := .placing, placed := 1, forwards := [1] })] with arg := { n := 2, k := 1 } }
    (s.node 4).kref = 0 ∧ (s.node 3).kref ≠ 0 ∧ (s.nodeCheck (s.node 3)).1 = some 1 ∧ (s.nodeCheck (s.node 2)).1 ≠ none ∧ (s.node 3).orphan = false ∧
      (s.node 5).forwards.contains 1 = true ∧ (s.node 5).retired < (s.node 5).placed ∧ (s.node 2).checked = false ∧ (s.node 1).st = .free ∧ s.fe.up = true ∧
      (s.nodeCheck (s.node 3)).2.fe.linkHeld = false ∧ (s.node 3).remote = false ∧ (s.node 3).checked = false := by
  decide +kernel

set_option maxRecDepth 200000 in
/-- Everything that a node check reads: the code tensor of `starting`, in one tile, with a node of it that is ready. -/
theorem wit_node_check :
    let n : Node := { st := .ready, pkt := 2 ^ 64, kd := BitVec.ofNat 512 (2 ^ 64 + 2 ^ 160 * 0x400 + 2 ^ 192 * 0x500 + 2 ^ 224 * 0x600) }
    let e := 2 ^ 7 + 2 ^ 9 + 2 ^ 64 * 0x2000 + 2 ^ 128 * 0x3000 + 2 ^ 192 + 2 ^ 256 * 16384 + 2 ^ 288 * 14 + 2 ^ 320
    let t := { starting with fe := { nodes := [(2, n)] } }.devWrite 0x1080 (leBytes 128 e)
    (match t.nodeCheck (t.node 2) with
      | (none, u) => !u.fe.linkHeld
      | _ => false) = true := by decide +kernel

theorem wit_placement_decisions :
    let n : Node := { st := .ready, checked := true, pkt := 1, kd := 0 }
    let s := parted [(2, n)]
    let r : CompRec := { src := 9, data := BitVec.ofNat 128 (1 + 2 ^ 12 * 2) }
    let t := { s with fe := { s.fe with recs := [r], nodes := [(2, { st := .running, placed := 2 })] } }
    s.keyOrder = [2] ∧ s.choice 1 = some 2 ∧ s.freeCores.take 2 = [1, 2] ∧ s.placedNow = 0 ∧ s.placeable (s.node 2) = true ∧ (s.dropHolds.choice 1) = some 2 ∧ s.heldFrom 0 0 = false ∧ s.startHeld (s.node 2) = false ∧ s.coreFree 1 = true ∧ s.coreFree 0 = false ∧ s.partHas 0 0 = true ∧ s.fe.up = true ∧ s.mayServe unitNodes 0 = true ∧ (t.fe.recs[0]? = some r) ∧
      r.data.toNat % 16 = 1 ∧ bitsAt r.data.toNat 12 12 = 2 ∧ (t.node 2).st = .running ∧ (t.node 2).retired + 1 < (t.node 2).placed := by
  decide +kernel

set_option maxRecDepth 20000 in
theorem wit_preemption_decision :
    let part := BitVec.ofNat 256 (1 + 2 ^ 64 * 1 + 2 ^ 67 + 2 ^ 96 * 100 + 2 ^ 192)
    let low : Placement := { part := 1, started := true }
    let n : Node := { st := .ready, checked := true, pkt := 0, dline := 0 }
    let s : State := { cores := (List.range 16).map fun c => (c, { place := some low }), mg := { dataUp := true }
                       fe := { parts := [(0, part)], nodes := [(2, n)] } }
    (s.keyOrder.find? fun i => (s.node i).part == 0) = some 2 ∧ ((List.range (s.partF 0 192 16)).find? (s.slotFree 0)) = some 0 ∧ s.victimOk 0 0 = true ∧ s.victim 0 = some 0 ∧ s.fe.preempts = [] ∧
      s.partF 0 67 1 = 1 ∧ s.slack (s.node 2) < sval 32 (s.partF 0 96 32) ∧ (List.range 16).any (fun c => s.partHas 0 (groupOf c) && s.coreFree c) = false := by
  decide +kernel

/-- A STREAM packet of an op. -/
def streamPkt (op : Nat) : Nat := 6 + 2 ^ 8 * op + 2 ^ 16 * 2 + 2 ^ 192 + 2 ^ 256 * 0x80

theorem wit_stream_packets :
    let p := BitVec.ofNat 512 (streamPkt 1)
    let s := { packeted (streamPkt 1) [] with streams := [(2, { active := true, desc := 2 ^ 16 * 3 + 2 ^ 32 * 8333333, frame := 1 })] }
    let f := BitVec.ofNat 512 (7 + 2 ^ 16 * 2)
    let w := s.modQ 0 fun k => { k with framing := 1 }
    headPkt s = some p ∧ (s.headPacket 0).2.fe.linkHeld = false ∧ pf (BitVec.ofNat 512 (streamPkt 2)) 8 2 = 2 ∧ pf p 128 32 % 64 = 0 ∧ pf p 10 6 = 0 ∧ pf p 22 10 = 0 ∧ pf p 40 24 = 0 ∧ pf p 160 32 = 0 ∧ pf p 288 224 = 0 ∧ pf p 256 32 % 8 = 0 ∧ (s.fq 0).fn = 0 ∧
      (okv (s.portSpan 0 (w64 (pf p 192 64)) (pf p 256 32) 8 true).1).isSome = true ∧ (s.stream 2).active = true ∧ (s.stream 2).fifo = [] ∧
      s.mayServe (unitStream 2) 1 = true ∧ s.seenBy 2 = false ∧ s.mg.recovery = false ∧ (s.stream 3).active = false ∧ pktType f = 7 ∧ pf f 8 8 = 0 ∧ pf f 22 490 = 0 ∧ pf f 16 6 = 2 ∧ s.boundStream 0 = some 2 ∧ (s.fq 0).framing = 0 ∧
      (w.stream 2).releaseAt ((w.stream 2).frame - 1) ≤ w.time.toNat ∧ w.threadRuns 0 = true ∧
      (okv (s.portRead 0 1 0x40 256).1).map List.length = some 256 := by decide +kernel

/-- R470: CRC-32C of the nine digits is 0xE3069283, the check value that is published for this polynomial. -/
theorem test_crc : crc32c ([0x31, 0x32, 0x33, 0x34, 0x35, 0x36, 0x37, 0x38, 0x39].map (BitVec.ofNat 8)) = 0xE3069283 := by decide +kernel

/-- R454: an sstat that has read the stream holds the start of its frame, and the next FRAME, until the sclk is over. -/
theorem wit_stream_order :
    let e : Node := { st := .ready, bound := some 2, head := true }
    let s := mach.modStrand 0 0 fun st => { st with saw := some (2, 0) }
    s.seenBy 2 = true ∧ s.startHeld e = true ∧ { s with tick := 1 }.startHeld e = false ∧ mach.startHeld e = false ∧
      (mach.servedAs (unitStream 2) 1).startHeld e = true := by decide +kernel

/-- R453: a frame whose FRAME was cut short is judged without a mark on the current one; R472, R473: what comes in the sclk of a fatal
event goes before it, and later events are not written. -/
theorem wit_record_order :
    let x : Stream := { frame := 3, cur := some 1, desc := 2 ^ 19 }
    let s := ({ mach with bbFrozen := true, blackBox := [{ kind := 7 }] }.servedAs unitRecord 1)
    (x.judge x.begun true).rung = 1 ∧ (x.judge x.begun true).late = false ∧ ({ x with cur := some 2 }.judge x.begun true).late = true ∧
      s.mayServe unitRecord 0 = false ∧ (s.bbEvent 5 0 0 0 0).blackBox.map BBEvent.kind = [5, 7] ∧
      ({ s with tick := 1 }.bbEvent 5 0 0 0 0).blackBox.map BBEvent.kind = [7] := by decide +kernel

theorem wit_frame_slot :
    let x : Stream := { active := true, frame := 1, desc := BitVec.ofNat 2048 (2 ^ 255 + 2 ^ 640) }
    let s := { (fronted mach []).modQ 0 fun k => { k with framing := 2 } with streams := [(2, x)] }
    let t := s.devWrite 0x4000 (leBytes 256 (lineOfRing { valid := true, cnt := 3 }))
    let full := s.devWrite 0x4000 (leBytes 256 (lineOfRing { valid := true, cnt := 3, slots := [(0, 1)] }))
    t.boundStream 0 = some 2 ∧ t.threadRuns 0 = true ∧ okv (t.frameRing x).1 = some (.global 0x4000) ∧
      (((t.frameRing x).2.ring (.global 0x4000)).ask { core := 2, agent := 9, claims := true } 0).1 = some 0 ∧
      (((full.frameRing x).2.ring (.global 0x4000)).ask { core := 2, agent := 9, claims := true } 0).1 = none ∧
      errv (t.frameRing { x with desc := 2 ^ 640 }).1 = some 0x49 := by decide +kernel

theorem wit_encoders :
    let osize := 2 ^ 16
    let x : Stream :=
      { active := true, fifo := [{ slot := 0, deadline := 5 }], tenant := 0
        desc := BitVec.ofNat 2048 (2 ^ 16 * 3 + 2 ^ 22 + 2 ^ 255 + 2 ^ 256 + 2 ^ 320 * 0x200 + 2 ^ 384 + 2 ^ 448 * 0x100 + 2 ^ 480 * 64 + 2 ^ 512 + 2 ^ 608 * 256 +
          2 ^ 640 + 2 ^ 1040 + 2 ^ 1052) }
    let s := { mach.devWrite 0x4000 (leBytes 256 (lineOfRing { valid := true, cnt := 3, slots := [(0, 3)] })) with streams := [(2, x)] }
    let t := { s with streams := [(2, { x with fifo := [{ picked := true, taken := true }] })] }
    s.encoderPick 0 = some 2 ∧ (s.stream 2).fifo ≠ [] ∧ (s.stream 2).first.taken = false ∧
      okv (s.frameRing x).1 = some (.global 0x4000) ∧
      (((s.frameRing x).2.ring (.global 0x4000)).ask { core := 2, agent := 10, claims := false } 0).1 = some 0 ∧
      (x.width 0, x.height 0) = (16, 16) ∧ (okv (s.frameLines x).1).map List.length = some 3 ∧ s.poison = [] ∧
      (((s.ring (.global 0x4000)).setSlot 0 4).release 0).isSome = true ∧
      t.encoderPick 0 = some 2 ∧ (t.stream 2).first.taken = true ∧ (okv (t.portNat 0 1 (0x100 + 64)).1).isSome = true ∧
      (okv (t.lineNos 0 1 0 1).1).isSome = true ∧ (t.ringWrites 0 1 [(0x120, [1]), (0x100, leBytes 32 0), (0x140, leBytes 8 64)]).1 = none ∧
      (t.ringWrites 0 1 [(0x120, [1]), (0x100, leBytes 32 0), (0x140, leBytes 8 64)]).2.fe.linkHeld = false ∧ ¬ (64 < 64 * ceilDiv (32 + 1) 64) ∧
      64 < 64 * ceilDiv (32 + 33) 64 ∧ osize = 2 ^ 16 ∧ (0 : Nat) < x.nrungs := by decide +kernel

/-- With no link stopped, no access waits for one. -/
theorem wit_no_link_stopped (s : State) (h : s.fab.stopped = []) : ∀ l, s.placeHeld l = false := by
  intro l
  cases l <;> simp [State.placeHeld, State.vcStopped, h]

/-- A command of the template that has begun, alone in channel 1 of core 0. -/
def chanOf (q : CopyCmd) : State := mach.modChan 0 1 fun k => { k with queue := [q] }

theorem wit_copies :
    let q : CopyCmd := { id := 4, tmpl := tmpl16 ||| 2 ^ 576 }
    let s := (chanOf q).modStrand 0 0 fun st => st.we 0 1
    let g : CopyCmd := { q with kind := 2, begun := true }
    let sp := (chanOf g).spWrite 0 0 (leBytes 4 0xFFFFFFFF)
    let l : Landing := { core := 0, base := 0x100 }
    let t := chanOf { q with tmpl := tmpl16, begun := true, lands := [l] }
    let u := chanOf { q with tmpl := tmpl16, begun := true, lands := [{ l with begun := true }], box := [(0, [1, 2])] }
    let w := chanOf { q with tmpl := tmpl16, begun := true }
    (s.chan 0 1).queue.all (fun x => !x.waited) = true ∧ s.fab.stopped = [] ∧ ((s.chan 0 1).queue.find? fun x => !x.begun) = some q ∧ (∀ r, r < 16 → (tWmask q.tmpl).testBit r = true → 1 ≤ ((s.strand 0 q.strand).re r).toNat) ∧
      ((sp.chan 0 1).queue.find? (fun x => x.begun && x.kind == 2 && decide (x.gnext < x.count) && !x.detached)) = some g ∧
      leNat (sp.spRead 0 (g.list.toNat % 2 ^ 20 + 4 * g.gnext) 4) = 0xFFFFFFFF ∧ (chanOf g).gatherOk g 0 = false ∧
      (t.cmd? 0 1 4).isSome = true ∧ t.landRefusal { q with lands := [l] } l = none ∧ (u.cmd? 0 1 4).isSome = true ∧
      ((w.chan 0 1).queue.head?.map fun x => x.landedAll) = some true ∧
      (w.lastMoves 0 { q with tmpl := tmpl16 } (fun _ => true) true).1.fault = none ∧ (w.lastMoves 0 { q with tmpl := tmpl16 } (fun _ => true) true).1.held = false ∧
      (w.lastMoves 0 { q with tmpl := tmpl16, fault := some (0x66, 0) } (fun _ => true) true).1.fault = some (0x66, 0) ∧
      ((chanOf { q with tmpl := tmpl16, begun := true, lands := [{ l with begun := true }], todo := [(0, .dev 0x4000, 1)] }).cmd? 0 1 4).map
        (fun x => (x.detached, x.todo.length, (x.lands.find? fun y => y.begun).isSome)) = some (false, 1, true) ∧
      { mach with bars := [(7, { node := some 0 })] }.remoteArrival 7 0 = (true, ({ mach with bars := [(7, { node := some 0 })] }.countArrival 7).servedAs unitBarrier 4096) ∧
      (mach.remoteArrival 7 0).1 = false ∧ tf (tmpl16 ||| 2 ^ 616) 616 1 = 1 ∧ (mach.strand 0 0).draining 1 = none ∧
      ((mach.modStrand 0 0 fun st => { st with ea := [{ word := BitVec.ofNat 32 (3 * 2 ^ 25 + 0x14 + 2 ^ 6) }] }).strand 0 0).draining 1 = none ∧ tf tmpl16 616 1 = 0 ∧ ¬ (tRmode tmpl16 = 2) := by decide +kernel

theorem wit_gather_and_refusals :
    let q : CopyCmd := { id := 4, tmpl := tmpl16, kind := 2, begun := true, handle := newHandle 3 5 0 16, src := 1 }
    let s := (chanOf q).devWrite (kvEntryAddr 3) (leBytes 64 (1 + 2 ^ 4 * 5 + 2 ^ 32 * 16 + 2 ^ 64 + 2 ^ 128 * 0x8000))
    let l : Landing := { core := 0, slot := some 0 }
    s.kvReason 0 q.handle = 0 ∧ s.gatherOk q 0 = true ∧ tRmode q.tmpl = 0 ∧ s.landRefusal q l = some 0x6C := by decide +kernel

theorem wit_chain :
    let t1 : BitVec 1024 := tmpl16 ||| 2 ^ 640
    let s0 := mach.modCore 0 fun k => { k with rings := [(0, { valid := true, base := 0x1000, stride := 64, cnt := 3 })] }
    let s := (s0.modChan 0 1 fun k => { k with linked := true, credit := 1, base := 0x80 }).spWrite 0 0x80 (leBytes 128 t1.toNat)
    let k := s.chan 0 1
    BitVec.ofNat 1024 (leNat (s.spRead 0 (k.base + 128 * k.next) 128)) = t1 ∧ templateOk t1 = true ∧ tRmode t1 = 1 ∧ tf t1 768 3 ≤ 4 ∧
      s.boxCheck 0 t1 1 0 = none ∧ k.linked = true ∧ 0 < k.credit ∧ k.queue = [] ∧ templateOk 0 = false ∧ (mach.strand 0 0).run ≠ .exited := by
  decide +kernel

theorem wit_slices :
    let code := 1 + 2 ^ 31 + 2 ^ 64 * (0x14 * 2 ^ 27 + 8 * 2 ^ 20)
    let q : TmbReq := { tenant := 0, codeten := 1, rtnoff := 0x80, line := 0x4000, o0 := 9, d := 3 }
    let s := { mach.devWrite 0x4080 (leBytes 128 code) with tmbs := [q] }
    let rt : Routine := { tenant := 0, index := 1, off := 0x80, code := BitVec.ofNat 1024 code }
    let t := { s with slices := [(sliceOf 0x4000, [rt])] }
    rtnCheck code = none ∧ (s.routines q).any (fun r => r.is q) = false ∧ okv (s.routineRead q).1 = some code ∧
      (t.routines q).find? (fun r => r.is q) = some rt ∧ t.tmbBehind 0 q = false ∧ t.poison = [] ∧ q.line % 256 = 0 ∧ q.slot.toNat < 64 ∧ q.rtnoff % 128 = 0 ∧
      (s.routineRead q).2.fe.linkHeld = false ∧ s.mayServe (unitSlice (q.line / 256)) q.rank = true ∧ q.ran = none ∧ q.dead = false ∧ q.fault = none ∧ q.d < 63 ∧
      { t with poison := [0x4000 / 64] }.poisoned q.line = true ∧ s.saved = [] ∧ s.fe.preempts = [] ∧
      (sliceGo (rtnWord code) 9 0 24 {}).outcome = 0 ∧ (sliceGo (rtnWord code) 9 0 24 {}).result = 9 ∧ Map.has s.l2 (0x4080 / 256) = true ∧
      (s.line (0x4080 / 256)).pins = [] ∧ Map.get [] s.gwait 0x4000 = [] ∧ q.form < 0x14 := by decide +kernel

theorem wit_attention :
    let a : EngCmd := { tag := 3 }
    let s := mach.modGroup 0 fun g => { g with attnIn := [a] }
    let t := mach.modGroup 0 fun g => { g with attnRun := some { cmd := a } }
    (s.group 0).attnRun = none ∧ (s.group 0).attnIn = a :: [] ∧ (s.group 0).attnOut.length < 64 ∧ (t.group 0).attnRun = some { cmd := a } ∧
      bitsAt a.data.toNat 20 2 = 0 ∧ (s.attnCheck 0 0 (2 ^ 12)).isSome = true ∧ s.fab.stopped = [] ∧ a.detached = false ∧
      (s.strand 0 0).hasExited = false := by decide +kernel

theorem wit_fabric_at_work :
    let r : FabReq := { width := 8, places := (List.range 8).map fun i => (0, 0x4000 + i) }
    let s := { mach with fab := { reqs := [r], formed := true, resends := [(2, 8)] }, keys := [(0, 0)] }
    let ls := r.places.map reqLoc
    s.fab.reqs[0]? = some r ∧ r.isSig = false ∧ (r.width = 4 ∨ r.width = 8) ∧ s.vcStopped 1 1 = false ∧ (2 ^ 63 : W64).toNat + 8 ≥ mgmtBase ∧
      ({ s with fab := { s.fab with resends := [] } } : State).fab.down = [] ∧ s.famoBehind 0 [0] r = false ∧ s.flowHeld r.touch = false ∧ ls.findSome? (fun l => s.peerFault r.tenant l) = none ∧
      ls.Nodup ∧ ls.length = r.width ∧ Map.get 0 s.fab.resends 2 = 8 ∧ Map.get 0 s.fab.resends 3 = 0 ∧ 2 ∉ s.fab.down ∧ mach.fab.reqs = [] ∧
      (0x4000 : W64).toNat + 8 ≤ mgmtBase ∧ Map.has s.keys 0 = true ∧ Map.has s.keys 1 = false := by decide +kernel

/-- A home with nothing in its response space admits a request, and one whose space is full does not. -/
theorem wit_admits (s : State) (m : Nat) : (s.fab.resps = [] → s.admits m = true) ∧ (s.fab.resps = [(m, Config.respSpace + 1)] → s.admits m = false) :=
  ⟨fun h => by simp [State.admits, Map.get, h], fun h => by simp [State.admits, Map.get, h]⟩

theorem wit_signals :
    let n : Node := { st := .running, loops := [2 + 2 ^ 33] }
    let y := { mach with fe := { nodes := [(7, n)] } }
    let c : Coll := { node := 7 }
    ((1 : Nat) < (y.node 7).shape.chips.getD 0 ∧ 1 ≠ y.rank ∧ (y.node 7).st ≠ .free ∧ ¬ (0 < (y.node 6).shape.chips.getD 0) ∧
      ({ y with fab := { colls := [c] } }.fab.colls.all fun x => !(x.is 7 0 0 0) || !Map.has x.contribs 1) = true) ∧
    let r : FabReq := { isSig := true, target := 0x5, amount := 3 }
    let s := { mach with fab := { reqs := [r] } }
    s.fab.reqs[0]? = some r ∧ bitsAt r.target.toNat 16 6 = s.rank ∧ bitsAt r.target.toNat 6 1 = 0 ∧ s.vcStopped 0 0 = false ∧
      s.coreOfPlace r.node (bitsAt r.target.toNat 24 32) = some 0 ∧ bitsAt r.target.toNat 4 2 < (s.placement 0).nstrands ∧
      s.vcStopped 63 2 = false ∧ s.coresOf 7 = [] ∧ s.vcStopped s.rank 0 = false := by decide +kernel

theorem wit_collectives :
    let d := BitVec.ofNat 512 (2 ^ 32 + 2 ^ 64 * 0x100 + 2 ^ 96 * 0x200 + 2 ^ 224 * 0x300)
    let e : Entry := { word := BitVec.ofNat 32 (5 * 2 ^ 18), wait := some 0 }
    let q : Coll := { contribs := [(0, d, [1, 0, 0, 0])] }
    let s := (mach.modStrand 0 0 fun st => { st with ea := [e] })
    let t := { s with fab := { colls := [q] }, fe := { preempts := [{ asked := true }] }, cyc := 65536 }
    t.fab.colls[0]? = some q ∧ (t.strand 0 0).ea = e :: [] ∧
      (q.contribs.find? fun x => x.1 == t.participant (t.placement 0)) = some (t.participant (t.placement 0), d, [1, 0, 0, 0]) ∧
      e.wait = some q.k ∧ t.holdsNode 0 0 = true ∧ (t.placement 0).lin = q.place ∧ q.hw = q.strand ∧ q.half = [] ∧ q.ends 1 = some 0 ∧ ({ q with cause := 0x83 } : Coll).ends 1 = some 0x83 ∧
      (t.placement 0).nc = 1 ∧ (t.strand 0 0).trapped = false ∧ (∃ x ∈ t.fe.preempts, x.asked = true ∧ x.group = groupOf q.core ∧ x.at_ + 65536 ≤ t.cyc) := by
  decide +kernel

/-- The management core runs, and the host's command area holds this command. -/
def commanded (cmd : List Byte) : State :=
  { mach with mg := { up := true, booted := some 0, feReady := true, dataUp := true, host := { cmd := Mem.write [] 0 cmd } }, arg := { word := 1 } }

/-- A command area: opcode, tenant, and the words from byte 16 on. -/
def cmdOf (op tenant : Nat) (rest : List (Nat × Nat)) : List Byte := leBytes 256 (op + 2 ^ 64 * tenant + (rest.map fun p => 2 ^ (8 * p.1) * p.2).sum)

theorem wit_planes :
    let s := commanded []
    s.mg.up = true ∧ s.mg.feReady = true ∧ ({ s with mg := { s.mg with dataUp := false } } : State).mg.dataUp = false ∧ s.mg.booted ≠ none ∧ s.mustDeliver = false ∧
      s.emptyReady = false ∧ s.half = false ∧ State.placeDue {} = false ∧ State.placeLater {} = false ∧ (parted [(2, { st := .ready, checked := true, pkt := 1, kd := 0 })]).placeDue = true ∧ ((fronted mach []).fq 0).mapped = true ∧ (fronted mach []).fe.up = true ∧ s.arg.flag = false ∧ s.clkDue = true ∧
      State.clkDue {} = false ∧ State.emptyReady {} = false ∧ (fronted mach [(4, { st := .ready })]).emptyReady = true ∧ s.fab.slew = 0 ∧
      ({ slew := 3, slewAt := 9999 } : Fabric).slew ≠ 0 ∧ 9999 ≤ ({ slew := 3, slewAt := 9999 } : Fabric).slewAt := by decide +kernel

theorem wit_management :
    let q : EngCmd := { data := BitVec.ofNat 1024 (0x10 + 2 ^ 64 * 63) }
    let s := { (commanded []).modGroup 0 (fun g => { g with mboxIn := [q] }) with arg := { mbox := .group 0, k := 5, word := BitVec.ofNat 64 mgmtBase } }
    64 * 7 < gddrSize ∧ 25 < s.mg.mhz ∧ s.mg.mhz - 25 ≤ 575 ∧ (s.group 0).mboxIn = q :: [] ∧ s.mboxTurn 0 = true ∧ (s.group 0).mboxOut.length < 16 ∧
      q.detached = false ∧ q.opcode = 0x10 ∧ (q.word 1).toNat < 64 ∧ 0 < s.arg.k ∧ s.arg.k < 2 ^ 20 ∧ s.kvField s.arg.k 0 1 = 0 ∧ s.arg.word.toNat < gddrSize ∧
      s.kvReason 0 0 ≠ 0 ∧ (3 : Nat) ≠ 3 / 2 ^ 26 % 2 ^ 6 * 2 ^ 26 := by decide +kernel

theorem wit_kv_refill :
    let s := (commanded []).modCore 0 fun k => { k with kvAsked := true }
    (s.core 0).kvAsked = true ∧ s.mboxTurn (groupOf 0) = true ∧ s.grantOk (s.core 0).kvTenant (16 - (s.core 0).kvCache.length) s.arg.nats = true := by
  decide +kernel

/-- A pool of one block of 16 by 64 by 2 elements of 2 bytes, in the tensor that tenant 0's record declares. -/
theorem wit_kv_create :
    let dims := [(16, 4), (64, 6), (2, 1), (1, 0)].zipIdx.map fun p => 2 ^ (256 + 128 * p.2) * (p.1.1 + 2 ^ 32 * p.1.2 + 2 ^ 64)
    let e := 1 + 3 * 2 ^ 3 + 2 ^ 9 + 2 ^ 64 * 0x2000 + 2 ^ 128 * 0x3000 + 2 ^ 192 + dims.sum
    let s := (mach.devWrite 0x1080 (leBytes 128 e)).devWrite (tenantBase + 32) (leBytes 8 1)
    s.poolShape 0 (s.poolOf 0) = some (16, 1) ∧ (okv (s.desc 0 (s.poolOf 0))).map Desc.ebytes = some (kvBytes 0) ∧
      (2 ^ 26 : Nat) = 2 ^ 26 / 2 ^ 26 % 2 ^ 6 * 2 ^ 26 := by decide +kernel

theorem wit_tenant_commands :
    let s := commanded (cmdOf 1 3 [(64, 1), (72, 0x1000), (80, 2)])
    let i := commanded (cmdOf 2 3 [])
    let p := commanded (cmdOf 7 0 [(16, 1), (32, 256)])
    s.doorbell .host = true ∧ cmdNat s.mg.host.cmd 0 1 = 1 ∧ cmdNat s.mg.host.cmd 8 2 = 3 ∧ cmdNat s.mg.host.cmd 72 8 = 0x1000 ∧
      (0x1000 : Nat) < mgmtBase ∧ (0x1000 : Nat) % 128 = 0 ∧ (s.sysTake .host).tenantBusy 3 = false ∧ (1023 : Nat) < 1024 ∧
      cmdNat i.mg.host.cmd 0 1 = 2 ∧ i.doorbell .host = true ∧ (i.sysTake .host).poolShape 3 0 = none ∧ (i.sysTake .host).hasHandle 3 = false ∧
      (i.sysTake .host).slotUsed 3 = false ∧ (i.sysTake .host).slotUsed 0 = true ∧ Map.has i.keys 3 = false ∧
      ((p.sysTake .host).pinRange p.mg.host.cmd).1 = some [0x40] ∧ cmdNat p.mg.host.cmd 10 1 = 0 ∧
      (p.sysTake .host).pinsTooMany [0x40] = false ∧ (p.sysTake .host).setTooFull [0x40] = false ∧ cmdNat (commanded [0x0C]).mg.host.cmd 0 1 = 0x0C := by
  decide +kernel

theorem wit_window_commands :
    let f : WinForm := { size := 2, rank := 1 }
    let form := commanded (cmdOf 6 0 [(12, 1)])
    let upd := { commanded (cmdOf 6 1 []) with fab := { formed := true } }
    let bad := { commanded (cmdOf 6 1 [(66, 0x1000)]) with fab := { formed := true }, winSize := 2 }
    let time := { commanded (cmdOf 0x0B 9 []) with mg := { (commanded (cmdOf 0x0B 9 [])).mg with dataUp := false } }
    let s := { mach with fab := { form := some f } }
    s.fab.form = some f ∧ s.time.toNat ≤ f.at_.toNat + 10 ^ 9 ∧ f.at_.toNat + 10 ^ 9 < (1000000001 : W64).toNat ∧
      cmdNat form.mg.host.cmd 0 1 = 6 ∧ cmdNat form.mg.host.cmd 8 1 = 0 ∧ form.fab.formed = false ∧ (form.sysTake .host).formBad form.mg.host.cmd = false ∧
      form.doorbell .host = true ∧ (upd.sysTake .host).routesOk upd.winSize upd.rank (cmdRoutes upd.mg.host.cmd) = true ∧ upd.fab.reqs = [] ∧
      bad.fab.formed = true ∧ bad.doorbell .host = true ∧ upd.doorbell .host = true ∧ upd.fab.formed = true ∧ (bad.sysTake .host).routesOk bad.winSize bad.rank (cmdRoutes bad.mg.host.cmd) = false ∧
      mach.fe.nodes.any (fun p => p.2.st != .free && p.2.shape.chips.isSome) = false ∧ time.mg.loaded = false ∧ time.time.toNat ≤ cmdNat time.mg.host.cmd 8 8 ∧
      time.doorbell .host = true := by decide +kernel

theorem wit_root_commands :
    let s := commanded (cmdOf 9 0 [])
    let r : State := { mg := { up := true, recovery := true, rbox := { cmd := Mem.write [] 0 (cmdOf 0x20 2 []) } }, arg := { word := 1, mbox := .recovery } }
    s.floorSlot = some 0 ∧ ({ s with mg := { s.mg with feReady := false } } : State).floorSlot = none ∧ r.doorbell .recovery = true ∧
      cmdNat r.mg.rbox.cmd 0 1 = 0x20 ∧ 2 ≤ cmdNat r.mg.rbox.cmd 8 1 := by decide +kernel

/-- What the next bundle of strand 0 meets, as a Bool about its form. -/
def isReady (p : Prep) : Bool := match p with
  | .ready _ => true
  | _ => false

theorem wit_strands :
    let s := mach
    let st := s.strand 0 0
    let err := mach.withLine (leBytes 16 (4 * 2 ^ 29))
    let pad := mach.withLine (leBytes 16 (4 * 2 ^ 29 + 2 ^ 32 * (0x3F * 2 ^ 25)))
    let s0 := s.openGate 0 0
    st.run = .running ∧ s.mustDeliver = false ∧ s.nodeEnding 0 = false ∧ st.inQop = false ∧ st.trapped = false ∧ st.stopped = false ∧ st.catchUp = false ∧
      st.keep = .none ∧ st.holdUntil ≤ s.cyc ∧ st.wait = .none ∧ s.gated 0 0 = false ∧ isReady (s0.prep 0 0).1 = true ∧
      (match (pad.prep 0 0).1 with
        | .padding _ => true
        | _ => false) = true ∧
      (match (err.prep 0 0).1 with
        | .err k w _ => decide (k < 256 ∧ w < 16)
        | _ => false) = true ∧
      (match (s0.prep 0 0).1 with
        | .ready r => !r.sync && r.rest.isEmpty && r.seqForm.isSome
        | _ => false) = true ∧ (s.core 0).place ≠ none ∧ st.idle = false := by decide +kernel

theorem wit_no_seq_form :
    let w := 0x001C1080 + 0x2A * 2 ^ 25
    let s := mach.withLine (lineOfWord w none)
    (match (s.prep 0 0).1 with
      | .ready r => !r.sync && r.seqForm.isNone && r.rest.all (fun p => p.2.cmd.isNone && p.2.atIssue.isNone) && !r.rest.isEmpty
      | _ => true) = true := by decide +kernel

/-- `mach` with a sync bundle of one SEQ form, and strand 1 of the core, which reads the same line and runs or not. -/
def paired (w : Nat) (run : Bool) : State :=
  (mach.withLine (leBytes 16 (4 * 2 ^ 29 + 2 ^ 32 * (0x3F * 2 ^ 25 + 2 ^ 24 + 2 ^ 20) + 2 ^ 64 * w))).modCore 0 fun k =>
    { (k.setStrand 1 { run := .running, pc := 4, stopped := !run }) with place := k.place.map fun p => { p with kd := p.kd ||| 2 ^ 48 } }

theorem wit_pairing :
    (match (paired 0x02000003 true).prep 0 0 with
      | (.ready r, u) => r.sync && (match (u.pairing 0 0 r).1 with
        | some l => decide (l.length = 2)
        | none => false)
      | _ => false) = true ∧
      (match (paired 0x02000003 false).prep 0 0 with
        | (.ready r, u) => r.sync && (u.pairing 0 0 r).1.isNone
        | _ => false) = true := by decide +kernel

theorem wit_token_traps :
    let e : Entry := { word := 1 }
    let w := 0x54 * 2 ^ 24
    let s := (mach.withLine (lineOfWord w none)).modStrand 0 0 fun st => { st with lq := List.replicate 32 e }
    let t := mach.modStrand 0 0 fun st => { st with lq := [e], wait := .exit }
    let k := mach.modStrand 0 0 fun st => { st with keep := .ewait 0 0 0 }
    let g := (mach.withLine (lineOfWord ((encode (.addi 6 5 0)).headD 0).toNat none)).modStrand 0 0 fun st => { st with lq := [{ word := 1 }, { word := 1, dst := [5] }] }
    unitOf w = .lq ∧ s.tokenWait 0 0 .lq = true ∧ (s.prep 0 0).1 = .stall [.lq] [] false false ∧ g.tokenWait 0 0 .lq = true ∧ (g.prep 0 0).1 = .stall [] [5] false false ∧ (g.strand 0 0).ea = [] ∧ t.tokenStranded 0 0 .lq = true ∧ (t.strand 0 0).wait = .exit ∧
      (k.strand 0 0).keep = .ewait 0 0 0 ∧ condHolds 0 ((k.strand 0 0).re0 0).toNat 0 = true := by decide +kernel

/-- A save pool whose tiles are resident, and a saved group of one core of a node that runs. -/
def pooled : State :=
  let e := 4 * 2 ^ 6 + 2 ^ 9 + 2 ^ 64 * 0x2000 + 2 ^ 128 * 0x3000 + 2 ^ 192 * 64 + 2 ^ 256 * 2 ^ 22 + 2 ^ 288 * 16 + 2 ^ 320
  let c : SavedCore := { pos := 0, tenant := 0, node := 2, place := { node := 2, started := true }, book := {}, incrs := [], arrs := [], reqs := [], attnRes := [], mboxRes := [] }
  let s := (mach.devWrite 0x1080 (leBytes 128 e)).devWrite 0x2000 ((List.range 34).flatMap fun i => leBytes 8 (7 + 2 ^ 24 * (16 + 16 * i)))
  { s with fe := { parts := [(0, BitVec.ofNat 256 (1 + 2 + 2 ^ 128))], nodes := [(2, { st := .running, pkt := 0 })] }
           saved := [{ part := 0, slot := 0, cores := [c] }] }

set_option maxRecDepth 200000 in
theorem wit_group_resume :
    (pooled.saved.map fun v => (pooled.canResume v 1, v.part, v.slot, v.cores.map SavedCore.pos)) = [(true, 0, 0, [0])] ∧
      (okv (State.areaOf { pooled with saved := pooled.saved.eraseIdx 0 } 0 0 0 false).1).map List.length = some 544 := by decide +kernel

theorem wit_node_ends :
    let s := mach.modStrand 0 0 fun st => { st with trapped := true, rec_ := { cause := 0xA4 } }
    let pre : Preempt := { asked := true }
    let t := { mach with fe := { preempts := [pre] }, cyc := 65536 }.modStrand 0 0 fun st => { st with handler := true }
    let u := { mach with fe := { preempts := [{ group := 0 }] } }
    let r := ({ mach with fe := { preempts := [pre] } }).modStrand 0 0 fun st => { st with stopped := true }
    let e : Ending := { node := 0, cause := 0xA5, cause2 := 0, who := none }
    let w := fronted mach [(4, { st := .running }), (5, { st := .ready, loops := [2 + 2 ^ 33] }), (6, { st := .placing })]
    ({ mach with ending := [e] }.ending.find? (fun x => x.node == 0)) = some e ∧ (mach.core 0).place.map (fun p => p.node) = some 0 ∧ mach.nodeBusy 0 = false ∧
      { mach with tmbs := [{}] }.nodeBusy 0 = true ∧ (w.node 4).st = .running ∧ (w.node 6).st = .placing ∧ (w.node 5).shape.chips ≠ none ∧ (w.node 5).st = .ready ∧
      (w.node 4).shape.chips = none ∧ s.ending = [] ∧ (s.strand 0 0).inQop = false ∧ s.outstanding 0 0 = false ∧ s.arg.flag = false ∧
    (s.strand 0 0).endCause (s.placement 0).trapentry = some (0xA4, 0) ∧ (s.strand 0 0).settled s.cyc = true ∧ (s.strand 0 0).stopped = false ∧
      (∃ x ∈ t.fe.preempts, x.asked = true ∧ x.group = groupOf 0 ∧ x.at_ + 65536 ≤ t.cyc) ∧ (t.strand 0 0).handler = true ∧ (t.core 0).place ≠ none ∧
      (∃ x ∈ u.fe.preempts, x.group = 0 ∧ x.asked = false) ∧ (∀ e ∈ u.placedCores 0, (u.placement e).started = true) ∧
      r.fe.preempts.find? (fun p => p.asked && p.group == 0) = some pre ∧ ∀ e ∈ r.placedCores 0, r.saveReady e = true := by decide +kernel

/-! ### Words of the spec -/

/-- Whether a word with its literal decodes to a well-formed instruction, this one. -/
def reads (w : Nat) (l : Lit) (i : Instr) : Bool := match decodeWord w l with
  | .ok j => decide (j = i) && i.wf
  | .error _ => false

/-- Whether a word with its literal is refused, by the decoder or by the checks on field values. -/
def refuses (w : Nat) (l : Lit) : Bool := match decodeWord w l with
  | .ok j => !j.wf
  | .error _ => true

/-- Words that the spec's own examples give (R61, R149, R150, R155, R157, R159, R160, R138). -/
theorem test_decode_scalar_words :
    reads 0x001C1082 none (.mul 7 1 (.reg 2)) = true ∧ reads 0x10D08805 none (.ori 13 2 0x805) = true ∧ reads 0x02092006 none (.idx 2 0x12) = true ∧
      reads 0x0224A002 none (.spawn 9 10 (.reg 0)) = true ∧ reads 0x02000003 none .join = true ∧ reads 0x0258500F none (.eget 22 5) = true ∧
      reads 0x020031CD none (.esig 3 (.reg 7)) = true := by decide +kernel

/-- The same of the svc forms (R284, R286, R441, R443, R455). -/
theorem test_decode_svc_words :
    reads 0x04142288 none (.probe 5 2 10) = true ∧ reads 0x04182289 none (.pgreq 6 2 10) = true ∧ reads 0x040021CA none (.tinv 2 (.reg 7)) = true ∧
      reads 0x0400000B none .tsync = true ∧ reads 0x0400320C none (.tdesc 3 (.reg 8)) = true ∧ reads 0x04143010 none (.qlaunch 5 3 (.reg 0)) = true ∧
      reads 0x0448F451 none (.qpatch 18 15 (.reg 17)) = true ∧ reads 0x04280012 none (.sstat 10 0) = true ∧ reads 0x042C6012 none (.sstat 11 6) = true := by
  decide +kernel

/-- eng, lqx, sqx and vtopk (R194, R212, R456). -/
theorem test_decode_queued_words :
    reads 0x06014024 none (.encsub 20) = true ∧ reads 0x562C2040 none (.rfill 11 2 0) = true ∧
      reads 0xA84A0130 none (.vtopk 9 8 (.imm 4) 0) = true := by decide +kernel

/-- From the formats of R51 and the majors of R59, bit by bit: LS, VM, VG, VT and QF. -/
theorem test_decode_memory_formats :
    reads (0x20 * 2 ^ 25 + 3 * 2 ^ 18 + 4 * 2 ^ 12 + 2 * 2 ^ 10 + 5 * 2 ^ 4 + 8) none (.lds 3 4 2 (.short 5) 8) = true ∧
      reads (0x21 * 2 ^ 25 + 2 ^ 24 + 3 * 2 ^ 18 + 4 * 2 ^ 12 + 3 * 2 ^ 10 + 4) (some 0xFFFFFFF8) (.sts 3 4 3 (.lit 0xFFFFFFF8) 4) = true ∧
      reads (0x27 * 2 ^ 25 + 2 ^ 24) (some 0) (.ldg 0 0 0 0 0) = false := by decide +kernel

/-- A branch's offset, and the long immediates (R51, R54). -/
theorem test_decode_offsets :
    reads (0x16 * 2 ^ 25 + 7 * 2 ^ 20 + 0xFFFFD) none (.bcNz 7 0xFFFFD) = true ∧ reads (0x0E * 2 ^ 25 + 9 * 2 ^ 20 + 0x80000) none (.li 9 0x80000) = true ∧
      reads (0x10 * 2 ^ 25 + 9 * 2 ^ 20 + 1) none (.lih 9 1) = true ∧ reads (0x0C * 2 ^ 25 + 9 * 2 ^ 20 + 8 * 2 ^ 14 + 2 ^ 12 + 3) none (.shrImm 9 8 3) = true := by decide +kernel

/-- Unassigned majors, the header's major, unassigned functs, and a literal where none may stand (R54, R59, R61). -/
theorem test_decode_refusals :
    refuses 0xFE000000 none = true ∧ refuses (0x3F * 2 ^ 25) none = true ∧ refuses (0x2C * 2 ^ 25) none = true ∧ refuses (0x3E * 2 ^ 25) none = true ∧
      refuses 0x0000003F none = true ∧ refuses 0x0200003E none = true ∧ refuses 0x02000003 (some 0) = true := by decide +kernel

/-! ### Field values that decode refuses -/

/-- One ill-formed term for each check of R52, R54 to R56, R167, R179, R197, R205, R207, R208, R212, R283, R300, R328, R352
and R402. -/
theorem test_ill_formed :
    ([.lds 1 2 0 (.short 0) 2, .vlds 1 2 0 (.short 0) 4, .rclaim 1 2 2, .sts 1 2 0 (.short 0) 8, .vstss 1 2 3 0 1, .rfill 1 2 8,
        .rinit 63 1 0, .ldg 1 2 60 0 0, .stg 1 2 60 0 0, .pref false 1 60 0, .amoAdd 1 63 true none 0, .amoCas 1 62 true none 0,
        .vaddF32 1 2 (.imm 3) 0, .vsplat 1 (.imm 3) 0, .vcmpI32 0 0 1 (.scalar 2) 0, .vsel 1 2 (.scalar 3) 0, .vrot 1 2 (.imm 64) 0,
        .vtopk 1 2 (.imm 17) 0, .mand 0 1 2 0, .mcnt 8 1 2 0, .csldt 3 0 1 none 0, .acscE8 3 3 false 1 none 0, .epush 2 1 (.reg 1),
        .cpym 0 63 (.reg 1), .tmbRlx 63 1 (.reg 1), .tmbRlx 1 62 (.reg 1), .famo 10 false 1 (.reg 1), .famo 8 true 1 (.reg 1),
        .probe 1 2 60] : List Instr).all (fun i => !i.wf) = true := by decide +kernel

/-! ### Worked examples of the spec -/

/-- R85: one step of 1.0 and two products of 2^-24 rounds once, where two additions would each round to even. -/
theorem test_matrix_step_rounds_once :
    (let p := (fval .bf16 0x3F80).mul (fval .bf16 0x3380)
    let z := (fval .bf16 0).mul (fval .bf16 0)
    rne .f32 (XR.sum (v32 0x3F800000) ([p, p] ++ List.replicate 22 z)) = 0x3F800001) ∧
      fadd (fadd 0x3F800000 0x33800000) 0x33800000 = 0x3F800000 := by decide +kernel

/-- R86: acsc.e8 rounds once, acsc.f32 at each product. -/
theorem test_acsc_examples :
    r32 ((v32 0x80000000).add ((v32 0x3F800001).scale ((0 : Int) + 0x80 - 254))) = 0x00800001 ∧
      fadd 0x80000000 (fmul (fmul 0x3F800001 0x00400000) 0x40000000) = 0x00800000 := by decide +kernel

/-- The vector of R194's example. -/
def ranked : List W32 :=
  (List.range 64).map fun i => match i with
    | 5 => 0x40400000
    | 9 => 0x40E00000
    | 12 => 0x40E00000
    | 20 => 0x7FC00000
    | 33 => 0x40A00000
    | 40 => 0x7F800000
    | _ => 0xBF800000

/-- R194: lanes 40, 9, 12 and 33, then lane 5 and the first eleven lanes of -1.0. -/
theorem test_vtopk_example :
    ((sortBy ranksBefore (ranked.zipIdx)).take 16).map Prod.snd = [40, 9, 12, 33, 5, 0, 1, 2, 3, 4, 6, 7, 8, 10, 11, 13] := by decide +kernel

/-- R149: the corners of division. -/
theorem test_division_corners :
    let s := atBundle.modMe fun st => ((st.wx 1 (BitVec.ofInt 64 (-2 ^ 63))).wx 2 (-1)).wx 3 7
    let x := fun (i : Instr) => match exec i s with
      | .next t => t.x 9
      | _ => 0
    x (.div 9 1 (.reg 2)) = BitVec.ofInt 64 (-2 ^ 63) ∧ x (.rem 9 1 (.reg 2)) = 0 ∧ x (.div 9 3 (.reg 0)) = -1 ∧ x (.remn 9 3 (.reg 0)) = 7 ∧
      x (.div 9 3 (.lit 0xFFFFFFFE)) = -3 ∧ x (.rem 9 3 (.lit 0xFFFFFFFE)) = 1 := by decide +kernel

/-- R151, R152: call writes the return address; loop counts its index. -/
theorem test_call_and_loop :
    (match exec (.call 5 0) atBundle with
      | .next t => decide (t.x 5 = 12 ∧ t.me.pc = 4)
      | _ => false) = true ∧
      (match exec (.loop 1 0) (atBundle.modMe fun st => st.wl 1 (3 * 2 ^ 32 + 2)) with
        | .next t => decide (t.me.rl 1 = 3 * 2 ^ 32 ∧ t.me.pc = 12)
        | _ => false) = true := by decide +kernel

/-- One step runs the first instruction placed: `li x9, #-1`. -/
theorem test_step_li :
    (match step (State.reset.withFetchWord 32 (0x0E * 2 ^ 25 + 9 * 2 ^ 20 + 0xFFFFF)) with
      | .next t => decide ((t.strand 0 0).pc = 12 ∧ (t.strand 0 0).rx 9 = -1)
      | _ => false) = true := by decide +kernel

/-! ### The whole machine -/

theorem wit_fetch :
    (match (mach.fetch 0 0 4).1 with
      | .bundle hw is _ => decide (hw / 2 ^ 25 = 0x3F) && is.map (fun b => b.instr) == [Instr.join]
      | _ => false) = true := by decide +kernel

theorem wit_tokens :
    let e : Entry := { word := 0x40000001 }
    let st : Strand := { lq := [e] }
    let s := one { lq := [e], cl := 1, run := .running }
    popsOf .lq (tokOf .lq e.word) = [.cl] ∧ (∃ k ∈ popsOf .lq (tokOf .lq e.word), st.ctr k = 0) ∧ (s.strand 0 0).ctr .cl = 1 ∧
      e.done = false ∧ e.until_ = none ∧ e.underWay = false ∧ e.marker = none ∧ e.begun = false ∧ e.skip = false ∧ s.nodeEnding 0 = false ∧ e.ready ≤ s.cyc ∧
      (s.strand 0 0).beginAt .lq ≤ s.cyc ∧ (s.strand 0 0).trapped = false ∧ (s.strand 0 0).stopped = false ∧
      ({ cl := 15, cs := 14 } : Strand).ctr .cl = 15 ∧ (s.strand 0 0).acquiring .lq e = false ∧ s.heldBack 0 0 .lq e = false ∧ st.queue .lq = e :: [] := by decide +kernel

/-- A turn that hands over one SEQ form, and two sync bundles handed over together: both issue, or both raise in place of their issue
(an index item that does not exist, R160, R483). -/
theorem wit_handed_over :
    let seen : Res → Bool × Bool × List Bool := fun r => match r with
      | .next t => (t.slot, t.cur.bare, t.paired.map fun x => ({ t with slot := false, paired := [] } : State).ctxIssues x)
      | _ => (false, true, [])
    seen (exec .bundleIssue mach) = (true, false, []) ∧ (seen (exec .bundleIssue (paired 0x02000003 true))).2.2 = [true, true] ∧
      (seen (exec .bundleIssue (paired 0x020BF006 true))).2.2 = [false, false] ∧
      (match decodeWord 0x02000003 none with
        | .ok i => decide (i = .join)
        | _ => false) = true := by decide +kernel

theorem wit_step :
    mach.agenda = [] ∧ (State.reset.withWord 0x02000003 none).agenda = [.event .bundleIssue {}] ∧ (Instr.mul 7 1 (.reg 2)).wf = true ∧
      encode (.mul 7 1 (.reg 2)) = [0x001C1082] := by decide +kernel

theorem wit_canonical : State.reset.canonical ∧ State.canonical {} :=
  ⟨⟨rfl, rfl, fun _ => rfl, fun _ => ⟨rfl, rfl, rfl⟩⟩, ⟨rfl, rfl, fun _ => rfl, fun _ => ⟨rfl, rfl, rfl⟩⟩⟩

/-! ### The later clauses -/

/-- R151, R152: targets that fail their check: the line's first word is no bundle, and a taken branch and a counted loop. -/
theorem wit_bad_targets :
    let h : W64 := atBundle.cur.entry.bundle + BitVec.ofInt 64 (-1 * 4)
    let l := (atBundle.modMe fun st => (st.wl 0 (2 * 2 ^ 32)).wx 1 (-1))
    h = 0 ∧ (l.issued.target 0 0 false h).1 = some (0x03, 0) ∧ (l.x 1).toInt < 0 ∧ (l.me.rl 0).toNat % 2 ^ 32 + 1 < (l.me.rl 0).toNat / 2 ^ 32 ∧
      ((l.issued.modMe fun st => st.wl 0 (2 * 2 ^ 32 + 1)).target 0 0 false h).1 = some (0x03, 0) ∧ l.me.trapped = false ∧ l.me.wait = .none := by
  decide +kernel

/-- R233, R234: a record goes back into a queue with room, and stays before a full one. -/
theorem wit_catch_up :
    let st : Strand := { rlq := [{ faulted := true }], rec_ := { ctl := 1 } }
    let full : Strand := { st with lq := List.replicate 32 {} }
    let owing : Strand := { rlq := [{ done := true }] }
    st.replay .lq = [{ faulted := true }] ∧ (st.queue .lq).length < queueSize .lq ∧ st.rec_.ctl.getLsbD 0 = true ∧
      (queues.any fun q => !((st.catchUpTurn 0).replay q).isEmpty) = false ∧ queueSize .lq ≤ (full.queue .lq).length ∧
      (queues.any fun q => !((full.catchUpTurn 0).replay q).isEmpty) = true ∧ (owing.replay .lq).map (fun r => r.done) = [true] := by decide +kernel

/-- R231: what settles. -/
theorem wit_settle :
    let st : Strand := { lq := [{ word := 2, begun := true }, { word := 8 + 2 ^ 24, done := true }], rlq := [{ word := 3 }] }
    st.settle.lq = [] ∧ (st.settle.rlq.map fun e => e.word.toNat).getLast? = some 3 ∧
      ((st.queue .lq).filter fun e => !e.done && e.until_.isNone).length = 1 := by decide +kernel

/-- R246: frames that ctxr loads: one with a good resume address, one with a bad one, and one with a join field. -/
theorem wit_ctxr :
    let put := fun (s : State) (off v : Nat) => s.spWrite 0 off (leBytes 8 v)
    let good := put mach 0x2300 4
    let bad := put mach 0x2300 64
    let joined := put good 0x2310 1
    let f := fun (s : State) off n => (s.core 0).spNat off n
    let u := fun (s : State) => (s.forgetCounters 0 0).setStrand 0 0 ((((s.strand 0 0).loadFrame (f s)).loadEvents (f s)).addEvents (s.strand 0 0))
    good.quiet 0 0 = true ∧ (good.strand 0 0).frameBad 0 = false ∧ f good 0x2310 8 = 0 ∧ f good 0x2300 8 = 4 ∧ ((u good).target 0 0 false 4).1 = none ∧
      ((u bad).target 0 0 false 64).1 = some (0x04, 64) ∧ f joined 0x2310 8 ≠ 0 := by decide +kernel

/-- R209: markers at the head of all four queues, and of one only. -/
theorem wit_fence_markers :
    let m : Entry := { marker := some (0, .dev) }
    let all := mach.modStrand 0 0 fun st => { st with lq := [m, {}], cq := [m], sq := [m], ea := [m] }
    let some_ := mach.modStrand 0 0 fun st => { st with lq := [m, {}] }
    (all.strand 0 0).queue .lq = m :: [{}] ∧ ((m :: [{}] : List Entry).all fun x => !x.done && x.until_.isNone && !x.underWay) = true ∧
      (all.strand 0 0).fenceReady 0 = true ∧ all.outstanding 0 0 = false ∧ (all.strand 0 0).trapped = false ∧ all.nodeEnding 0 = false ∧
      (some_.strand 0 0).fenceReady 0 = false ∧ (some_.strand 0 0).queue .lq = m :: [{}] := by decide +kernel

/-- R370, R372: a sequence of as many blocks as it may have, and a free below none. -/
theorem wit_kv_full :
    let e := 1 + 2 ^ 4 * 5 + 2 ^ 32 * 65535 + 2 ^ 128 * 0x8000
    let s := ((mach.devWrite (kvEntryAddr 3) (leBytes 64 e)).modStrand 0 0 fun st => st.wx 1 (newHandle 3 5 0 0)).modCore 0 fun k => { k with kvCache := [9] }
    s.kvReason 0 (s.x 1) = 0 ∧ hRo (s.x 1) = false ∧ s.kvLength (hIndex (s.x 1)) = 65535 ∧ s.myCore.kvCache ≠ [] ∧ (16 : W64).toNat < 65536 ∧
      (65536 : W64).toNat ≥ 65536 ∧ s.kvLength (hIndex (s.x 1)) < 70000 := by decide +kernel

/-- R198, R399: an access under way of this chip's bytes alone. -/
theorem wit_under_way :
    let s := machAt .lq { left := some 1, srcs := [.at (.sp 0 0) 4] }
    let u := machAt .sq { later := [[(.dev 0x4000, 1)]] }
    s.cur.entry.fails = none ∧ s.elemFails (s.cur.entry.srcs.flatMap Src.locs) = none ∧ s.poison = [] ∧ s.checks = [] ∧
      u.cur.entry.fails = none ∧ u.elemFails (u.cur.entry.later.flatten.map Prod.fst) = none := by decide +kernel

/-- What a turn reads is not poisoned where nothing is, whatever it reads. -/
theorem wit_nothing_poisoned (s : State) (l : List Loc) (h : s.poison = []) (h' : s.peerPoison = []) : l.any s.locPoisoned = false := by
  rw [List.any_eq_false]
  intro x _
  cases x <;> simp [State.locPoisoned, State.poisoned, h, h']

/-- R471: a place whose sector is poisoned. -/
theorem wit_poisoned : { mach with poison := [0x4000 / 64] }.locPoisoned (.dev 0x4000) = true := by decide +kernel

/-- R213, R214: a global ring whose line is set up, free and not; and one whose line holds no ring. -/
theorem wit_global_setup :
    let line := fun (r : Ring) => (machAt .lq { tref := 1, caps := [64 * 2 ^ 8 + 3, 0x1000, 2 ^ 63] }).devWrite 0x4000 (leBytes 256 (lineOfRing r))
    let free := line { valid := true, stride := 64, cnt := 3 }
    let used := line { valid := true, stride := 64, cnt := 3, slots := [(0, 1)] }
    let none_ := line {}
    okv (free.myRing 2 true).1 = some (.global 0x4000) ∧ setupOk false (free.cap 0) (free.cap 1) = true ∧ setupOk false 64 0 = false ∧
      ((free.myRing 2 true).2.ring (.global 0x4000)).waiters = [] ∧
      ((List.range 4).all fun k => ((free.myRing 2 true).2.ring (.global 0x4000)).slot k == 0) = true ∧
      ((used.myRing 2 true).2.ring (.global 0x4000)).slot 0 = 1 ∧ ((used.myRing 2 true).2.ring (.global 0x4000)).count = 4 ∧
      ((none_.myRing 2 true).2.ring (.global 0x4000)).valid = false ∧
      (let w := machAt .lq { tref := 1, caps := [2 ^ 63] }
      okv (w.myRing 0 false).1 = some (.global 0x4000) ∧ ((w.myRing 0 false).2.ring (.global 0x4000)).valid = false) := by decide +kernel

/-- R320: a form of the array reads its operand as it dispatches, or in part later: one of the two clauses applies. -/
theorem wit_mx_late (s : State) : s.mxLate = true ∨ s.mxLate = false := by cases s.mxLate <;> simp

theorem wit_mx_under_way : (machAt .cq { left := some 0, srcs := [.at (.sp 0 0) 4] }).cur.entry.left ≠ none := by decide +kernel

/-- R423, R428: an empty node that is ready holds DEC and qlaunch; one that is made behind a decrement waits for the next sclk. -/
theorem wit_empty_nodes :
    let s := fronted mach [(4, { st := .ready })]
    let t := { mach with served := [(unitNodes, (0, 2))] }
    let full : BitVec 512 := BitVec.ofNat 512 (2 ^ 64)
    s.emptyReady = true ∧ s.mayServe unitNodes 1 = true ∧ t.emptyHeld 0 = true ∧ t.emptyHeld full = false ∧ mach.emptyHeld 0 = false := by decide +kernel

/-- R425: DEC of a node outside the window, of one that is not waiting, and bad fields of SIGNAL and FFENCE. -/
theorem wit_bad_packets :
    let dec := fun (n : Nat) => BitVec.ofNat 512 (2 + 2 ^ 64 * n)
    let s := packeted (2 + 2 ^ 64 * 100) [(4, { st := .ready })]
    decPktOk (dec 100) = true ∧ decNodes (dec 100) = [100] ∧ s.inWindow 0 100 = false ∧ decPktOk (dec 4) = true ∧ decNodes (dec 4) = [4] ∧
      s.inWindow 0 4 = true ∧ (s.node 4).st ≠ .waiting ∧ headPkt s = some (dec 100) ∧ pf (BitVec.ofNat 512 (4 + 2 ^ 10)) 10 54 ≠ 0 ∧
      pf (BitVec.ofNat 512 (5 + 2 ^ 9)) 9 7 ≠ 0 ∧ pf (BitVec.ofNat 512 (5 + 2 ^ 8 + 2 ^ 16 * 100)) 16 12 = 100 ∧
      pf (BitVec.ofNat 512 (4 + 2 ^ 8)) 8 1 = 1 ∧ s.queueBusy 0 = true := by decide +kernel

/-- R26, R417: a queue of a tenant that is valid, and entries that another chip's queue reset reaches. -/
theorem wit_tenant_valid :
    let s := (fronted mach [(7, { st := .ready, remote := true })]).devWrite tenantBase [1]
    s.tenantValid (s.fq 0).tenant = true ∧ ((fronted mach []).devWrite tenantBase [0]).tenantValid 0 = false ∧ (s.node 7).remote = true := by decide +kernel

/-- R431: an entry comes from another chip; the last report of one completes its node. -/
theorem wit_forwarded :
    let s := fronted mach [(5, { st := .placing, placed := 1, forwards := [1] }), (6, { st := .running, placed := 2, retired := 2, forwards := [1] })]
    (s.node 6).forwards.contains 1 = true ∧ s.mayServe unitNodes 0 = true ∧ (s.node 6).st = .running ∧ (s.node 6).placed ≤ (s.node 6).retired ∧
      (s.node 6).failed = false ∧ ((s.node 6).forwards.filter fun j => j != 1) = [] ∧ (s.node 5).retired < (s.node 5).placed ∧ (s.node 9).st = .free ∧
      s.fe.up = true := by decide +kernel

/-- R428: a record of kind 2 that is not the first of its placement. -/
theorem wit_second_record :
    let r : CompRec := { src := 9, data := 2, first := false }
    let s := { parted [] with fe := { (parted []).fe with recs := [r] } }
    s.fe.recs[0]? = some r ∧ r.data.toNat % 16 = 2 ∧ ((s.fe.recs.take 0).any fun q => q.src == r.src) = false := by decide +kernel

/-- R374, R386: a staged request of one listed block is good; an entry of all ones is skipped; one of a pool may lie beyond the handle. -/
theorem wit_staged_request :
    let q : BitVec 1024 := 4 + 2 ^ 7
    let s := mach
    let t := mach.spWrite 0 0 (leBytes 4 0xFFFFFFFF)
    let p : BitVec 1024 := 2 ^ 7
    s.attnCheck 0 0 q = none ∧ aStaged q = true ∧ aListed q = true ∧ attnBlocks q = 1 ∧ leNat (s.spRead 0 (qf0 q 512 20) 4) ≠ 0xFFFFFFFF ∧
      leNat (t.spRead 0 (qf0 q 512 20) 4) = 0xFFFFFFFF ∧ aListed p = true ∧ aStaged p = false ∧ s.kvReach (w64 (qf0 p 64 64)) 0 = false := by decide +kernel

/-- A request is written in one turn or in parts: one of the two clauses applies. -/
theorem wit_whole_turn (n : Nat) : wholeTurn n = true ∨ wholeTurn n = false := by cases wholeTurn n <;> simp

/-- R398, R403: a famo of a peer chip with a key and without, and requests that the fabric combines. -/
theorem wit_famo_home :
    let a : Arg := { flag := true, n := 8, word := 0x4000, k := 9, m := 0 }
    let s := { mach with arg := a, keys := [(0, 0)] }
    let r : FabReq := { width := 8, places := (List.range 8).map fun i => (0, 0x4000 + i) }
    let two := { mach with fab := { reqs := [r, { r with strand := 1, amount := 5 }] }, arg := { nats := [1] } }
    let home := (List.range 8).map fun i => Loc.dev (0x4000 + i)
    a.word.toNat % 8 = 0 ∧ a.word.toNat + 8 ≤ mgmtBase ∧ a.k ≤ 9 ∧ Map.has s.keys a.m = true ∧ Map.has s.keys 1 = false ∧ s.famoSpoilt home = false ∧
      { s with poison := [0x4000 / 64] }.famoSpoilt home = true ∧ r.combines { r with strand := 1, amount := 5 } = true ∧
      two.famoBehind 0 [0, 1] r = false ∧ two.famoBehind 0 [0, 1] { r with strand := 1 } = false ∧ two.flowHeld r.touch = false ∧
      (r.places.map reqLoc).findSome? (fun l => two.peerFault r.tenant l) = none ∧ (two.strand 0 0).hasExited = false := by decide +kernel

/-- R395, R399: a path between two other ranks that fails, and a peer that writes its own memory. -/
theorem wit_other_ranks :
    let s : State := { mach with winSize := 4, arg := { flag := true, k := 1, m := 2, n := 3 }, fab := { colls := [{ node := 7 }] } }
    s.arg.m ≠ s.rank ∧ s.arg.n ≠ s.rank ∧ s.arg.m ≠ s.arg.n ∧ s.arg.m < 64 ∧ s.fab.colls.map (fun q => q.half.isEmpty) = [true] ∧ s.fab.reqs = [] ∧
      (max 2 3 < ({ loops := [4 + 2 ^ 33] } : Node).shape.chips.getD 0) := by decide +kernel

/-- R404, R411: a collective of a node of one chip with a good peer. -/
theorem wit_coll_late :
    let q : Coll := {}
    let s := { mach with fab := { colls := [q] } }
    s.collLate q = false ∧ s.fab.colls.any s.collLate = false ∧
      (let d := BitVec.ofNat 512 (2 ^ 2)
      bitsAt d.toNat 0 2 = 0 ∧ bitsAt d.toNat 2 2 = 1) ∧ bitsAt (2 : BitVec 512).toNat 0 2 = 2 := by decide +kernel

/-- R479: a form that names a size of 0, and one whose route has a reserved bit. -/
theorem wit_bad_form :
    let bad := commanded (cmdOf 6 0 [])
    let route := commanded (cmdOf 6 0 [(12, 2), (66, 0x1000)])
    (bad.sysTake .host).formBad bad.mg.host.cmd = true ∧ bad.fab.formed = false ∧ bad.doorbell .host = true ∧
      (route.sysTake .host).formBad route.mg.host.cmd = true := by decide +kernel

/-- R43: a line of padding that leads to itself, again and again. -/
theorem wit_padding :
    let pad := mach.withLine (leBytes 16 (4 * 2 ^ 29 + 2 ^ 32 * (0x3F * 2 ^ 25)))
    let s0 := pad.openGate 0 0
    (match s0.prep 0 0 with
      | (.padding n, w) =>
        let s1 := w.modStrand 0 0 fun st => { st with pc := n, checkPc := false }
        match s1.prep 0 0 with
        | (.padding m, _) => decide (n = m)
        | _ => false
      | _ => false) = true ∧ (pad.strand 0 0).run = .running := by decide +kernel

set_option maxRecDepth 200000 in
/-- R236, R240: a placed core whose group is asked to leave: it is ready, and its area lies in the pool. -/
theorem wit_save :
    let pre : Preempt := { asked := true }
    let s := { pooled with saved := [] }.modStrand 0 0 fun st => { st with stopped := true }
    let t := { s with fe := { s.fe with preempts := [pre] } }
    t.fe.preempts.find? (fun p => p.asked && p.group == 0) = some pre ∧ t.placedCores 0 = [0] ∧ t.saveReady 0 = true ∧
      t.fab.colls.any t.collLate = false ∧ ((t.core 0).place).isSome = true := by decide +kernel

set_option maxRecDepth 200000 in
/-- The pages of that core's area. -/
theorem wit_save_pages :
    let s := { pooled with saved := [] }.modStrand 0 0 fun st => { st with stopped := true }
    okv (State.areaOf { s with fe := { s.fe with preempts := [{ asked := true }] } } 0 0 0 true).1 =
      some ((List.range areaPages).map fun i => 0x10000 + 4096 * i) := by decide +kernel

/-- Pages of such an area are distinct, and each starts at a multiple of its size. -/
theorem wit_save_pages_apart :
    let l := (List.range areaPages).map fun i => 0x10000 + 4096 * i
    l.length = areaPages ∧ l.Nodup ∧ ∀ a ∈ l, a % 4096 = 0 := by
  refine ⟨by simp, List.Nodup.map (fun a b h => by simpa using h) List.nodup_range, fun a h => ?_⟩
  obtain ⟨i, -, rfl⟩ := List.mem_map.mp h
  omega

set_option maxRecDepth 200000 in
/-- R237: the pages of the saved group can be read, and its cores have places of their own. -/
theorem wit_resume_reads :
    (pooled.saved.map fun v => v.cores.map fun y => (pooled.areaReads v.part v.slot y, y.pos)) = [[(true, 0)]] := by decide +kernel

/-- R134: the head of CQ that begins: a form of the vector unit with a token of its own match. -/
theorem wit_cq_token :
    let e : Entry := { word := BitVec.ofNat 32 (0x30 * 2 ^ 25 + 4) }
    let s := { one { cq := [e], lc := 1, run := .running } with cyc := 5 }
    popsOf .cq (tokOf .cq e.word) = [.lc] ∧ 1 ≤ (s.strand 0 0).ctr .lc ∧ (s.strand 0 0).inOrder .lc = true ∧ isVector e.word = true ∧
      isMatrix e.word = false ∧ isAccess .cq e.word = false ∧ (s.strand 0 0).cqReady e ≤ s.cyc ∧ s.vuGrants 0 0 = true ∧ s.nodeEnding 0 = false ∧
      ({ lq := [{ word := 8 }], lc := 0, cq := [e] } : Strand).inOrder .lc = false := by decide +kernel

/-- R465, R468: SHA-384 of "abc" is cb00753f…c825a7, the value that FIPS 180-4's example gives; the first byte is the lowest. -/
theorem test_sha384 :
    sha384 ([0x61, 0x62, 0x63].map (BitVec.ofNat 8)) =
      BitVec.ofNat 384 0xa725c834a1ecba5823cce7a12b078680ed5bff435a608b1a63d1de0eab322c270750c69a693da0b58b5ea3453f7500cb := by decide +kernel

end Sys2Proof.Tests
end

section
/-!
SUPPORT. Scalar arithmetic on numbers and integers: what the bit counts count, what sign extension of the low bits
gives, and what the divisions divide (R148, R149); and the frame of a form that holds the next bundle (R131).
-/

namespace Sys2Proof.Machine

/-! ### Bit counts -/

theorem leadingZeros_le : ∀ n x : Nat, leadingZeros n x ≤ n
  | 0, _ => le_rfl
  | n + 1, x => by
    have ih := leadingZeros_le n x
    unfold leadingZeros
    split <;> omega

/-- No bit stands above the leading zeros' end. -/
theorem lt_two_pow_sub_leadingZeros : ∀ {n x : Nat}, x < 2 ^ n → x < 2 ^ (n - leadingZeros n x)
  | 0, _, h => h
  | n + 1, x, h => by
    unfold leadingZeros
    split
    · exact h
    next hbit =>
      have hx : x < 2 ^ n := Nat.lt_pow_two_of_testBit x fun i hi => by
        obtain rfl | hlt := hi.eq_or_lt
        · simpa using hbit
        · exact Nat.testBit_lt_two_pow (h.trans_le (Nat.pow_le_pow_right two_pos hlt))
      rw [show n + 1 - (1 + leadingZeros n x) = n - leadingZeros n x by omega]
      exact lt_two_pow_sub_leadingZeros hx

/-- The bit just below the leading zeros is set, unless every bit is a leading zero. -/
theorem two_pow_le_of_leadingZeros_lt : ∀ {n x : Nat}, leadingZeros n x < n → 2 ^ (n - 1 - leadingZeros n x) ≤ x
  | n + 1, x, h => by
    unfold leadingZeros at h ⊢
    split at h
    next hbit => simpa [hbit] using Nat.ge_two_pow_of_testBit hbit
    next hbit =>
      rw [if_neg hbit, show n + 1 - 1 - (1 + leadingZeros n x) = n - 1 - leadingZeros n x by omega]
      exact two_pow_le_of_leadingZeros_lt (by omega)

theorem trailingZeros_le : ∀ n x : Nat, trailingZeros n x ≤ n
  | 0, _ => le_rfl
  | n + 1, x => by
    have ih := trailingZeros_le n (x / 2)
    unfold trailingZeros
    split <;> omega

theorem two_pow_trailingZeros_dvd : ∀ n x : Nat, 2 ^ trailingZeros n x ∣ x
  | 0, x => one_dvd x
  | n + 1, x => by
    unfold trailingZeros
    split
    · exact one_dvd x
    next hodd =>
      rw [pow_add, pow_one, ← Nat.mul_div_cancel' (show 2 ∣ x by omega)]
      simpa using Nat.mul_dvd_mul_left 2 (two_pow_trailingZeros_dvd n (x / 2))

/-- The bit just above the trailing zeros is set, unless every bit is a trailing zero. -/
theorem testBit_trailingZeros : ∀ {n x : Nat}, trailingZeros n x < n → x.testBit (trailingZeros n x) = true
  | n + 1, x, h => by
    unfold trailingZeros at h ⊢
    split at h
    next hodd => simp [hodd]
    next hodd =>
      rw [if_neg hodd, Nat.add_comm, Nat.testBit_succ]
      exact testBit_trailingZeros (by omega)

theorem popcount_eq_length_filter_testBit : ∀ n x : Nat,
    popcount n x = ((List.range n).filter fun i => x.testBit i).length
  | 0, _ => rfl
  | n + 1, x => by
    have shift : (fun i => x.testBit i) ∘ Nat.succ = fun i => (x / 2).testBit i := funext fun i => x.testBit_succ i
    rw [popcount, popcount_eq_length_filter_testBit n, List.range_succ_eq_map, List.filter_cons, List.filter_map, shift,
      Nat.testBit_zero]
    split
    next hodd => simp [of_decide_eq_true hodd, Nat.add_comm]
    next heven =>
      have hx : x % 2 = 0 := by simpa using heven
      simp [hx]

/-! ### Sign extension -/

theorem signExtend_truncate (k : Nat) (a : W64) :
    (a.truncate k).signExtend 64 = BitVec.ofInt 64 (BitVec.ofNat k a.toNat).toInt := by
  rw [BitVec.ofNat_toNat]; rfl

/-! ### Divisions -/

/-- Truncating division of integers gives R149's value in the case of overflow too: 2^63 wraps to -2^63. -/
theorem divS_eq (a b : W64) :
    divS a b = if b = 0 then BitVec.allOnes 64
      else if a.toInt = -2 ^ 63 ∧ b.toInt = -1 then BitVec.ofInt 64 (-2 ^ 63) else BitVec.ofInt 64 (a.toInt.tdiv b.toInt) := by
  unfold divS
  congr 1
  split
  next h =>
    obtain ⟨ha, hb⟩ := h
    rw [ha, hb]
    decide
  · rfl

/-- The remainder is what the truncated quotient leaves over, which is 0 in the case of overflow. -/
theorem remS_eq (a b : W64) :
    remS a b = if b = 0 then a
      else if a.toInt = -2 ^ 63 ∧ b.toInt = -1 then 0
      else BitVec.ofInt 64 (a.toInt - a.toInt.tdiv b.toInt * b.toInt) := by
  unfold remS
  congr 1
  split
  next h =>
    obtain ⟨ha, hb⟩ := h
    rw [ha, hb]
    decide
  · rw [Int.tmod_def, Int.mul_comm]

/-- A form that writes one register and holds the next bundle runs: its frame, its value, and until when (R131). -/
theorem Runs_held20_seqSet {s : State} (h : s.clean) {i : Instr} {d : XReg} {v w : W64}
    (e : exec i s = State.held20 (s.seqSet d v)) (hv : v = w) :
    Runs i s fun t => s.seqFrame t [.x] ∧ s.xOnly t d w ∧ t.me.holdUntil = s.cyc + 20 := by
  subst hv
  refine ⟨s.issued.modMe fun st => { st.wx d.toNat v with holdUntil := s.cyc + 20 }, ?_, ?_, fun r => ?_, by simp⟩
  · rw [e, State.seqSet, State.held20, State.wx, State.modMe_modMe]; rfl
  · refine State.seqFrame_modMe h _ _ (by simp) (by simp) ?_ ?_
    · intro st q; cases q <;> simp [Strand.queue]
    · intro st p hp
      cases p <;> simp_all [Strand.agrees, Strand.rv, Strand.rm, Strand.re, Strand.rt, Strand.rl, Strand.ctr]
  · have hr := s.me.issuedAt_agrees s .x r
    have step : (s.issued.me.wx d.toNat v).rx r = if r = d.toNat ∧ r ≠ 0 then v else s.me.rx r := by
      rw [Strand.rx_wx, State.issued_clean h, State.me_modMe, hr]
    rwa [State.me_modMe]

/-! ### The statement -/

/-- Settles O2: each form writes one register, its value by the lemma about what it counts, extends or divides. -/
theorem bitCountsAndDivisions : Obligations.BitCountsAndDivisions := by
  refine ⟨fun s d a h => ?_, fun s d a b h => ?_⟩
  · intro A
    refine ⟨⟨leadingZeros 64 A.toNat, Sets_seqSet h _ d _ rfl, leadingZeros_le 64 _,
        lt_two_pow_sub_leadingZeros A.isLt, two_pow_le_of_leadingZeros_lt⟩,
      ⟨trailingZeros 64 A.toNat, Sets_seqSet h _ d _ rfl, trailingZeros_le 64 _,
        Nat.mod_eq_zero_of_dvd (two_pow_trailingZeros_dvd 64 _), testBit_trailingZeros⟩, ?_, ?_, ?_, ?_⟩
    · rw [← popcount_eq_length_filter_testBit]
      exact Sets_seqSet h _ d _ rfl
    all_goals
      rw [← signExtend_truncate]
      exact Sets_seqSet h _ d _ rfl
  · intro A B q r qn rn
    simp only [List.forall_mem_cons]
    exact ⟨Runs_held20_seqSet h rfl (divS_eq A B), Runs_held20_seqSet h rfl (v := divU A B) rfl,
      Runs_held20_seqSet h rfl (remS_eq A B), Runs_held20_seqSet h rfl (v := remU A B) rfl, List.forall_mem_nil _⟩

end Sys2Proof.Machine
end

section
/-!
SUPPORT. Barrier set slots: what a slot reads after a write to one, the ids that a declaration claims (R261), and the
frame of a form that issues and then writes one slot.
-/

namespace Sys2Proof.Machine

/-! ### Slots -/

theorem Strand.bar_setBar (st : Strand) (i j : Nat) (b : BarSlot) :
    (st.setBar i b).bar j = if j = i then b else st.bar j :=
  Map.get_put ({} : BarSlot) st.bars i j b

theorem Strand.setBar_queue (st : Strand) (i : Nat) (b : BarSlot) (q : Unit5) : (st.setBar i b).queue q = st.queue q := by
  cases q <;> rfl

/-- A write of a slot keeps every part of the strand but the slots. -/
theorem Strand.setBar_agrees (st : Strand) (i : Nat) (b : BarSlot) :
    ∀ {p : Part}, p ∉ [Part.bars] → (st.setBar i b).agrees st p
  | .x, _ | .v, _ | .m, _ | .e, _ | .t, _ | .l, _ | .tokens, _ => fun _ => rfl
  | .trap, _ => ⟨rfl, rfl, rfl, rfl, rfl⟩
  | .bars, h => absurd (List.mem_singleton_self _) h

theorem Strand.issuedAt_bar (st : Strand) (s : State) (j : Nat) : (st.issuedAt s).bar j = st.bar j :=
  congrArg (fun m => Map.get ({} : BarSlot) m j) (st.issuedAt_agrees s .bars)

/-- Once a clean bundle has issued, its strand's slots are still what they were. -/
theorem State.issued_bar {s : State} (h : s.clean) (j : Nat) : s.issued.me.bar j = s.me.bar j := by
  rw [State.issued_clean h, State.me_modMe, Strand.issuedAt_bar]

/-- A form that issues and then writes one slot of its strand: its frame, and what its slots are afterwards. -/
theorem State.issued_setBar {s : State} (h : s.clean) (i : Nat) (b : BarSlot) :
    let t := s.issued.modMe fun st => st.setBar i b
    s.seqFrame t [.bars] ∧ ∀ j, t.me.bar j = if j = i then b else s.me.bar j := by
  refine ⟨State.seqFrame_modMe h _ _ (fun _ => rfl) (fun _ => rfl) (fun st q => st.setBar_queue i b q)
    fun st p hp => st.setBar_agrees i b hp, fun j => ?_⟩
  rw [State.me_modMe, Strand.bar_setBar, State.issued_bar h]

/-- Only what an update makes of the executing strand as it is matters. -/
theorem State.modMe_congr {s : State} {f g : Strand → Strand} (h : f s.me = g s.me) : s.modMe f = s.modMe g :=
  congrArg (s.setStrand s.cur.core s.cur.strand) h

/-! ### Claims -/

/-- Claim the id of offset `k` as `b`, if it is free (R261). -/
def BarId.claim (b : BarId) (base : Nat) (m : Map BarId) (k : Nat) : Map BarId :=
  if (Map.get {} m (base + k)).node.isSome then m else Map.put m (base + k) b

theorem BarId.get_claim (b : BarId) (base : Nat) (m : Map BarId) (k p : Nat) :
    Map.get {} (b.claim base m k) p = if p = base + k ∧ (Map.get {} m p).node = none then b else Map.get {} m p := by
  unfold BarId.claim
  split
  next held =>
    refine (if_neg ?_).symm
    rintro ⟨rfl, free⟩
    simp [free] at held
  next free =>
    rw [Map.get_put]
    have unheld : (Map.get {} m (base + k)).node = none := by simpa using free
    by_cases hp : p = base + k
    · subst hp
      simp [unheld]
    · simp [hp]

/-- The claims of a set take its free ids, and leave every other id as it was. -/
theorem BarId.get_claims (b : BarId) (base : Nat) (m : Map BarId) (p : Nat) : ∀ n : Nat,
    Map.get {} ((List.range n).foldl (b.claim base) m) p =
      if base ≤ p ∧ p < base + n ∧ (Map.get {} m p).node = none then b else Map.get {} m p
  | 0 => by
    refine (if_neg ?_).symm
    omega
  | n + 1 => by
    have ih := BarId.get_claims b base m p n
    rw [List.range_succ, List.foldl_concat, BarId.get_claim, ih]
    by_cases hp : p = base + n
    · subst hp
      simp
    · have last : base ≤ p ∧ p < base + (n + 1) ↔ base ≤ p ∧ p < base + n := by omega
      simp only [hp, false_and, if_false, ← and_assoc, last]

/-- The state of an id that a declaration claims (R249, R261). -/
def State.claimAs (s : State) (sw rw : Nat) : BarId :=
  { node := some s.myPlace.node, setw := sw, relw := rw, home := s.scopeHome sw }

/-- The ids of the unit after a declaration's claims. -/
def State.claimed (s : State) (sw rw : Nat) : Map BarId :=
  (List.range (setDepth sw)).foldl ((s.claimAs sw rw).claim (setBase sw)) s.bars

/-- Every free id of the set goes to the declaring node. -/
theorem State.claimed_node (s : State) (sw rw : Nat) {p : Nat} (lo : setBase sw ≤ p) (hi : p < setBase sw + setDepth sw)
    (free : (Map.get {} s.bars p).node = none) : (Map.get {} (s.claimed sw rw) p).node = some s.myPlace.node := by
  rw [State.claimed, BarId.get_claims, if_pos ⟨lo, hi, free⟩]
  rfl

/-! ### The forms -/

theorem exec_bdecl_of_forbidden {s : State} (h : s.barForbidden = true) (i : BitVec 2) (a : XReg) (b : SrcB) :
    exec (.bdecl i a b) s = .next (s.raiseAtIssue 0x56 0) :=
  if_pos h

theorem exec_bdecl_of_cause {s : State} (h : s.barForbidden = false) {i : BitVec 2} {a : XReg} {b : SrcB} {k : Nat}
    (hk : s.bdeclCause i.toNat (s.x a).toNat (s.b b).toNat = some k) :
    exec (.bdecl i a b) s = .next (s.raiseAtIssue k 0) := by
  show execBdecl i a b s = _
  simp [execBdecl, h, hk]

/-- A declaration that passes its checks claims its ids, and fills its slot if that holds no set yet. -/
theorem exec_bdecl_of_legal {s : State} (h : s.barForbidden = false) {i : BitVec 2} {a : XReg} {b : SrcB}
    (hc : s.bdeclCause i.toNat (s.x a).toNat (s.b b).toNat = none) :
    exec (.bdecl i a b) s =
      .next ({ s.issued with bars := s.claimed (s.x a).toNat (s.b b).toNat }.modMe fun st =>
        if (st.bar i.toNat).valid then st
        else st.setBar i.toNat { valid := true, setw := (s.x a).toNat, relw := (s.b b).toNat }) := by
  show execBdecl i a b s = _
  simp only [execBdecl, h, hc]
  rfl

/-- A legal declaration on an unused slot: the slot is filled, the ids are claimed, and nothing else changes. -/
theorem Runs_bdecl_of_unused {s : State} (hs : s.clean) (h : s.barForbidden = false) {i : BitVec 2} {a : XReg} {b : SrcB}
    (hc : s.bdeclCause i.toNat (s.x a).toNat (s.b b).toNat = none) (unused : (s.me.bar i.toNat).valid = false) :
    Runs (.bdecl i a b) s fun t =>
      s.seqFrame { t with bars := s.bars } [.bars] ∧
        (∀ j, t.me.bar j = if j = i.toNat then { valid := true, setw := (s.x a).toNat, relw := (s.b b).toNat } else s.me.bar j) ∧
        t.bars = s.claimed (s.x a).toNat (s.b b).toNat := by
  obtain ⟨frame, slots⟩ :=
    State.issued_setBar hs i.toNat { valid := true, setw := (s.x a).toNat, relw := (s.b b).toNat }
  have fills : exec (.bdecl i a b) s =
      .next ({ s.issued with bars := s.claimed (s.x a).toNat (s.b b).toNat }.modMe fun st =>
        st.setBar i.toNat { valid := true, setw := (s.x a).toNat, relw := (s.b b).toNat }) := by
    rw [exec_bdecl_of_legal h hc]
    have still : ¬ (s.issued.me.bar i.toNat).valid = true := by simp [State.issued_bar hs, unused]
    refine congrArg Host.Outcome.next (State.modMe_congr ?_)
    exact if_neg still
  refine ⟨_, fills, ?_, slots, rfl⟩
  have ids : s.issued.bars = s.bars := by rw [State.issued_clean hs]; rfl
  rw [← ids]
  exact frame

theorem badv_of_forbidden {s : State} (h : s.barForbidden = true) (i : Nat) : s.badv i = .next (s.raiseAtIssue 0x56 0) :=
  if_pos h

theorem badv_of_unused {s : State} (h : s.barForbidden = false) {i : Nat} (unused : (s.me.bar i).valid = false) :
    s.badv i = .next (s.raiseAtIssue 0x54 0) := by
  simp [State.badv, h, unused]

/-- badv of a declared slot moves that slot's rotating base on, and changes nothing else. -/
theorem Runs_badv_of_declared {s : State} (hs : s.clean) (h : s.barForbidden = false) {f : Instr} {i : Nat}
    (hf : exec f s = s.badv i) (declared : (s.me.bar i).valid = true) :
    Runs f s fun t => s.seqFrame t [.bars] ∧ ∀ j, t.me.bar j =
      if j = i then { s.me.bar j with rot := ((s.me.bar j).rot + 1) % setDepth (s.me.bar j).setw } else s.me.bar j := by
  obtain ⟨frame, slots⟩ :=
    State.issued_setBar hs i { s.me.bar i with rot := ((s.me.bar i).rot + 1) % setDepth (s.me.bar i).setw }
  refine ⟨_, ?_, frame, fun j => ?_⟩
  · rw [hf]
    simp [State.badv, h, declared]
  · rw [slots]
    split
    next hj => rw [hj]
    · rfl

theorem exec_bstat_of_forbidden {s : State} (h : s.barForbidden = true) (d : XReg) (i : BitVec 2) :
    exec (.bstat d i) s = .next (s.raiseAtIssue 0x56 0) :=
  if_pos h

theorem exec_bstat_of_permitted {s : State} (h : s.barForbidden = false) (d : XReg) (i : BitVec 2) :
    exec (.bstat d i) s = s.seqSet d (s.me.bar i.toNat).status :=
  if_neg (by simp [h])

/-! ### The statement -/

/-- Settles O9: bdecl's slot and claims, badv's rotation and bstat's value, each by the lemma about its form. -/
theorem barrierSetsAreDeclaredAndRotated : Obligations.BarrierSetsAreDeclaredAndRotated := by
  refine ⟨fun s i a b => ⟨fun h => exec_bdecl_of_forbidden h i a b, fun hs h hc unused => ?_,
    fun k h hk => exec_bdecl_of_cause h hk⟩, fun s d i => ?_⟩
  · obtain ⟨t, runs, frame, slots, ids⟩ := Runs_bdecl_of_unused hs h hc unused
    exact ⟨t, runs, frame, slots, fun p lo hi free => ids ▸ s.claimed_node _ _ lo hi free⟩
  · intro badvs
    have exec_badv : ∀ p ∈ badvs, exec p.1 s = s.badv p.2 := by
      simp only [badvs, List.forall_mem_cons]
      exact ⟨rfl, rfl, rfl, rfl, List.forall_mem_nil _⟩
    refine ⟨fun h => ⟨exec_bstat_of_forbidden h d i, fun p hp => ?_⟩,
      fun hs h => ⟨fun p hp unused => ?_, fun p hp declared => ?_, ?_⟩⟩
    · rw [exec_badv p hp, badv_of_forbidden h]
    · rw [exec_badv p hp, badv_of_unused h unused]
    · exact Runs_badv_of_declared hs h (exec_badv p hp) declared
    · exact Sets_seqSet hs _ d _ (exec_bstat_of_permitted h d i)

end Sys2Proof.Machine
end

section
/-!
SUPPORT. The accumulator store cell by cell: what a cell reads after writes of cells, after a fill and after a fold of
a region, and what these leave of their core (R86, R317, R332).
-/

namespace Sys2Proof.Machine

/-! ### Numbers in bytes -/

theorem leBytes_length : ∀ n x : Nat, (leBytes n x).length = n
  | 0, _ => rfl
  | n + 1, x => congrArg (· + 1) (leBytes_length n (x / 256))

/-- A number of `n` bytes is read back from them, its higher bits dropped. -/
theorem leNat_leBytes : ∀ n x : Nat, leNat (leBytes n x) = x % 256 ^ n
  | 0, x => (Nat.mod_one x).symm
  | n + 1, x => by
    rw [leBytes, leNat, leNat_leBytes n, BitVec.toNat_ofNat, pow_succ' 256 n]
    exact Nat.mod_mul.symm

theorem leNat_read_one (m : Mem) (a : Nat) : leNat (Mem.read m a 1) < 256 := by
  have := (Mem.get m a).isLt
  simpa [Mem.read, leNat] using this

/-- Two memories that agree on the bytes of a read give the same bytes. -/
theorem Mem.read_congr {m m' : Mem} : ∀ {n a : Nat}, (∀ x, a ≤ x → x < a + n → Mem.get m x = Mem.get m' x) →
    Mem.read m a n = Mem.read m' a n
  | 0, _, _ => rfl
  | n + 1, a, h => by
    rw [Mem.read, Mem.read, h a le_rfl (by omega), Mem.read_congr fun x lo hi => h x (by omega) (by omega)]

/-- Bytes away from those written are read as they were. -/
theorem Mem.read_write_other {m : Mem} {a b n : Nat} {bs : List Byte} (h : b + n ≤ a ∨ a + bs.length ≤ b) :
    Mem.read (Mem.write m a bs) b n = Mem.read m b n :=
  Mem.read_congr fun x lo hi => Mem.get_write_other m a x bs (by omega)

/-- The bytes written are read back. -/
theorem Mem.read_write_same : ∀ (m : Mem) (a : Nat) (bs : List Byte), Mem.read (Mem.write m a bs) a bs.length = bs
  | _, _, [] => rfl
  | m, a, b :: bs => by
    have first : Mem.get (Mem.write m a (b :: bs)) a = b := by simp [Mem.get_write]
    rw [List.length_cons, Mem.read, first, Mem.write, Mem.read_write_same _ (a + 1) bs]

/-! ### Cells of the accumulator store -/

/-- The cell that a row and a column name: each counts modulo 256 (R317, R335). -/
def cellOf (p : Nat × Nat) : Nat × Nat := (p.1 % 256, p.2 % 256)

theorem cellOf_eq_iff {p q : Nat × Nat} : cellOf p = cellOf q ↔ p.1 % 256 = q.1 % 256 ∧ p.2 % 256 = q.2 % 256 :=
  Prod.mk_inj

theorem cellOf_of_lt {r c : Nat} (hr : r < 256) (hc : c < 256) : cellOf (r, c) = (r, c) :=
  Prod.ext (Nat.mod_eq_of_lt hr) (Nat.mod_eq_of_lt hc)

/-- The three stores of a core are what they were. -/
def Core.sameStores (k k' : Core) : Prop := k'.sp = k.sp ∧ k'.acc = k.acc ∧ k'.cst = k.cst

theorem Core.cell_of_sameStores {k k' : Core} (h : k.sameStores k') (r c : Nat) : k'.cell r c = k.cell r c := by
  obtain ⟨-, acc, -⟩ := h
  rw [Core.cell, Core.cell, acc]

theorem Core.cell_mod (k : Core) (r c : Nat) : k.cell (r % 256) (c % 256) = k.cell r c := by
  simp [Core.cell]

/-- A cell reads what was written to it, and every other cell what it held. -/
theorem Core.cell_setCell (k : Core) (p q : Nat × Nat) (v : W32) :
    (k.setCell p.1 p.2 v).cell q.1 q.2 = if cellOf q = cellOf p then v else k.cell q.1 q.2 := by
  split
  next same =>
    obtain ⟨row, column⟩ := cellOf_eq_iff.mp same
    have bytes := Mem.read_write_same k.acc (4 * (256 * (p.1 % 256) + p.2 % 256)) (leBytes 4 v.toNat)
    rw [leBytes_length] at bytes
    rw [Core.cell, Core.setCell, row, column, bytes, leNat_leBytes, Nat.mod_eq_of_lt (b := 256 ^ 4) v.isLt]
    exact BitVec.ofNat_toNat ..
  next other =>
    rw [cellOf_eq_iff] at other
    rw [Core.cell, Core.setCell, Mem.read_write_other (by rw [leBytes_length]; omega)]
    rfl

/-- Write a value to the cell of each element of a list, in the order of the list. -/
def Core.writeCells {α : Type} (k : Core) (place : α → Nat × Nat) (val : α → W32) (l : List α) : Core :=
  l.foldl (fun k a => k.setCell (place a).1 (place a).2 (val a)) k

section
variable {α : Type} {place : α → Nat × Nat} {val : α → W32} {q : Nat × Nat}

/-- A cell that no element of the list names keeps its value. -/
theorem Core.cell_writeCells_of_unnamed : ∀ {l : List α} {k : Core}, (∀ a ∈ l, cellOf q ≠ cellOf (place a)) →
    (k.writeCells place val l).cell q.1 q.2 = k.cell q.1 q.2
  | [], _, _ => rfl
  | a :: l, k, h => by
    rw [List.forall_mem_cons] at h
    obtain ⟨head, tail⟩ := h
    have rest := Core.cell_writeCells_of_unnamed (k := k.setCell (place a).1 (place a).2 (val a)) tail
    rwa [Core.cell_setCell, if_neg head] at rest

/-- A cell to which every element that names it writes `v` holds `v`, if one names it. -/
theorem Core.cell_writeCells_of_named {v : W32} : ∀ {l : List α} {k : Core},
    (∀ a ∈ l, cellOf q = cellOf (place a) → val a = v) → (∃ a ∈ l, cellOf q = cellOf (place a)) →
      (k.writeCells place val l).cell q.1 q.2 = v
  | [], _, _, ⟨_, mem, _⟩ => absurd mem List.not_mem_nil
  | a :: l, k, values, named => by
    rw [List.forall_mem_cons] at values
    obtain ⟨head, tail⟩ := values
    by_cases later : ∃ b ∈ l, cellOf q = cellOf (place b)
    · exact Core.cell_writeCells_of_named (k := k.setCell (place a).1 (place a).2 (val a)) tail later
    · have last : cellOf q = cellOf (place a) := by
        obtain ⟨b, mem, hb⟩ := named
        obtain rfl | mem := List.mem_cons.mp mem
        · exact hb
        · exact absurd ⟨b, mem, hb⟩ later
      have rest := Core.cell_writeCells_of_unnamed (val := val) (k := k.setCell (place a).1 (place a).2 (val a))
        fun b mem hb => later ⟨b, mem, hb⟩
      rw [Core.cell_setCell, if_pos last] at rest
      exact rest.trans (head last)

end

/-! ### Regions -/

theorem mem_regionCells {p : Nat × Nat} : p ∈ regionCells ↔ p.1 < 64 ∧ p.2 < 64 := by
  simp only [regionCells, List.mem_map, List.mem_range]
  constructor
  · rintro ⟨n, hn, rfl⟩
    constructor <;> dsimp only <;> omega
  · rintro ⟨row, column⟩
    exact ⟨64 * p.1 + p.2, by omega, Prod.ext (by dsimp only; omega) (by dsimp only; omega)⟩


/-- The cell of region `z` at a place in it, as a row and a column of the store. -/
def regionPlace (z : Nat) (p : Nat × Nat) : Nat × Nat := (regionRow z + p.1, regionCol z + p.2)

/-- A cell has a place in region `z` when its row and its column lie in it, and then it is their remainder by 64 (R317). -/
theorem cellOf_eq_regionPlace {z r c : Nat} (hz : z < 16) (hr : r < 256) (hc : c < 256) {p : Nat × Nat} (hp : p ∈ regionCells) :
    cellOf (r, c) = cellOf (regionPlace z p) ↔ (r / 64 = z / 4 ∧ c / 64 = z % 4) ∧ p = (r % 64, c % 64) := by
  obtain ⟨row, column⟩ := mem_regionCells.mp hp
  rw [cellOf_eq_iff, Prod.ext_iff]
  simp only [regionPlace, regionRow, regionCol]
  omega

theorem Core.fillRegion_eq_writeCells (k : Core) (z : Nat) (f : Nat → Nat → W32) :
    k.fillRegion z f = k.writeCells (regionPlace z) (fun p => f p.1 p.2) regionCells := by
  rw [Core.fillRegion, List.foldl_map]
  rfl

/-- A fill gives each cell of its region its value by row and column, and keeps every other cell. -/
theorem Core.cell_fillRegion (k : Core) {z r c : Nat} (f : Nat → Nat → W32) (hz : z < 16) (hr : r < 256) (hc : c < 256) :
    (k.fillRegion z f).cell r c = if r / 64 = z / 4 ∧ c / 64 = z % 4 then f (r % 64) (c % 64) else k.cell r c := by
  rw [k.fillRegion_eq_writeCells]
  have place := @cellOf_eq_regionPlace z r c hz hr hc
  split
  next inside =>
    have mem : (r % 64, c % 64) ∈ regionCells := mem_regionCells.mpr ⟨Nat.mod_lt _ (by decide), Nat.mod_lt _ (by decide)⟩
    refine Core.cell_writeCells_of_named (q := (r, c)) (fun p hp named => ?_) ⟨_, mem, (place mem).mpr ⟨inside, rfl⟩⟩
    obtain ⟨-, rfl⟩ := (place hp).mp named
    rfl
  next outside =>
    exact Core.cell_writeCells_of_unnamed (q := (r, c)) fun p hp named => outside ((place hp).mp named).1

/-- A fold gives region `z` its values from the cells of `p` and `z` as they stood, and then clears `p` where asked (R332). -/
theorem Core.cell_fold (k : Core) {z p r c : Nat} (clr : Bool) (f : Nat → Nat → W32 → W32 → W32) (hz : z < 16) (hp : p < 16)
    (hr : r < 256) (hc : c < 256) :
    (k.fold z p clr f).cell r c =
      if clr ∧ r / 64 = p / 4 ∧ c / 64 = p % 4 then 0
      else if r / 64 = z / 4 ∧ c / 64 = z % 4 then
        f (r % 64) (c % 64) (k.regionCell p (r % 64) (c % 64)) (k.regionCell z (r % 64) (c % 64))
      else k.cell r c := by
  cases clr with
  | false => simpa [Core.fold] using k.cell_fillRegion _ hz hr hc
  | true =>
    rw [Core.fold, if_pos rfl, Core.cell_fillRegion _ _ hp hr hc, Core.cell_fillRegion _ _ hz hr hc]
    simp only [true_and]

/-! ### What writes of cells leave of a core -/

/-- Of a core, only the accumulator store differs. -/
def Core.accOnly (k k' : Core) : Prop := k' = { k with acc := k'.acc }

theorem Core.accOnly_trans {k k' k'' : Core} (h : k.accOnly k') (h' : k'.accOnly k'') : k.accOnly k'' := by
  unfold Core.accOnly at *
  rw [h', h]

theorem Core.accOnly_writeCells {α : Type} (place : α → Nat × Nat) (val : α → W32) :
    ∀ (l : List α) (k : Core), k.accOnly (k.writeCells place val l)
  | [], _ => rfl
  | a :: l, k => Core.accOnly_trans (k' := k.setCell (place a).1 (place a).2 (val a)) rfl (Core.accOnly_writeCells place val l _)

theorem Core.accOnly_fillRegion (k : Core) (z : Nat) (f : Nat → Nat → W32) : k.accOnly (k.fillRegion z f) := by
  rw [k.fillRegion_eq_writeCells]
  exact Core.accOnly_writeCells ..

theorem Core.accOnly_fold (k : Core) (z p : Nat) (clr : Bool) (f : Nat → Nat → W32 → W32 → W32) :
    k.accOnly (k.fold z p clr f) := by
  unfold Core.fold
  split
  · exact Core.accOnly_trans (k.accOnly_fillRegion _ _) (Core.accOnly_fillRegion _ _ _)
  · exact k.accOnly_fillRegion _ _

theorem Core.accOnly_strand {k k' : Core} (h : k.accOnly k') (i : Nat) : k'.strand i = k.strand i := by rw [h]; rfl
theorem Core.accOnly_arrayFree {k k' : Core} (h : k.accOnly k') : k'.arrayFree = k.arrayFree := by rw [h]
theorem Core.accOnly_haspLeft {k k' : Core} (h : k.accOnly k') : k'.haspLeft = k.haspLeft := by rw [h]
theorem Core.accOnly_sp {k k' : Core} (h : k.accOnly k') : k'.sp = k.sp := by rw [h]
theorem Core.accOnly_cst {k k' : Core} (h : k.accOnly k') : k'.cst = k.cst := by rw [h]

/-! ### What an effect on the accumulator store leaves -/

section
variable {k₀ k k' k'' : Core}

/-- The scratchpad and the column store read as before. -/
theorem Core.sp_cst_of_accOnly (before : k₀.sameStores k) (effect : k.accOnly k') (after : k'.sameStores k'') (b : Nat) :
    Mem.get k''.sp b = Mem.get k₀.sp b ∧ Mem.get k''.cst b = Mem.get k₀.cst b := by
  obtain ⟨sp, -, cst⟩ := before
  obtain ⟨sp', -, cst'⟩ := after
  rw [sp', cst', Core.accOnly_sp effect, Core.accOnly_cst effect, sp, cst]
  exact ⟨rfl, rfl⟩

/-- Cells after a fill by values of the cells as they stood before. -/
theorem Core.cell_of_fillRegion {z : Nat} {f g : Nat → Nat → W32} (hz : z < 16) (before : k₀.sameStores k)
    (after : (k.fillRegion z f).sameStores k') (fg : f = g) (r c : Nat) (hr : r < 256) (hc : c < 256) :
    k'.cell r c = if r / 64 = z / 4 ∧ c / 64 = z % 4 then g (r % 64) (c % 64) else k₀.cell r c := by
  rw [Core.cell_of_sameStores after, Core.cell_fillRegion k f hz hr hc, Core.cell_of_sameStores before, fg]

/-- Cells after a fold, by values `g` of the cells as they stood before. -/
theorem Core.cell_of_fold {z p : BitVec 4} {clr : Bool} {f : Nat → Nat → W32 → W32 → W32} {g : Nat → Nat → W32}
    (before : k₀.sameStores k) (after : (k.fold z.toNat p.toNat clr f).sameStores k')
    (fg : ∀ i j, f i j (k₀.regionCell p.toNat i j) (k₀.regionCell z.toNat i j) = g i j)
    (r c : Nat) (hr : r < 256) (hc : c < 256) :
    k'.cell r c = if clr ∧ r / 64 = p.toNat / 4 ∧ c / 64 = p.toNat % 4 then 0
      else if r / 64 = z.toNat / 4 ∧ c / 64 = z.toNat % 4 then g (r % 64) (c % 64) else k₀.cell r c := by
  have same := Core.cell_of_sameStores before
  have values := fg (r % 64) (c % 64)
  simp only [Core.regionCell] at values
  rw [Core.cell_of_sameStores after, Core.cell_fold k clr f z.isLt p.isLt hr hc]
  simp only [Core.regionCell, same, values]
end

end Sys2Proof.Machine
end

section
/-!
SUPPORT. Lanes of vector registers: a vector read back from its lanes, and the frame of a CQ write of lanes (R174, R178).
-/

namespace Sys2Proof.Machine

/-! ### Lanes -/

theorem packNat_lt (w : Nat) : ∀ l : List Nat, packNat w l < 2 ^ (w * l.length)
  | [] => by simp [packNat]
  | x :: xs => by
    have head : x % 2 ^ w < 2 ^ w := Nat.mod_lt _ (Nat.two_pow_pos w)
    have tail := Nat.mul_le_mul_left (2 ^ w) (Nat.succ_le_of_lt (packNat_lt w xs))
    rw [packNat, List.length_cons, Nat.mul_succ, Nat.add_comm (w * _), pow_add]
    rw [Nat.mul_succ] at tail
    omega

/-- The number at place `i` of packed numbers. -/
theorem packNat_shiftRight_mod (w : Nat) : ∀ (l : List Nat) (i : Nat), (packNat w l >>> (w * i)) % 2 ^ w = l.getD i 0 % 2 ^ w
  | [], i => by simp [packNat]
  | x :: xs, 0 => by simp [packNat]
  | x :: xs, i + 1 => by
    have rest : packNat w (x :: xs) >>> w = packNat w xs := by
      rw [packNat, Nat.shiftRight_eq_div_pow, Nat.add_mul_div_left _ _ (Nat.two_pow_pos w),
        Nat.div_eq_of_lt (Nat.mod_lt _ (Nat.two_pow_pos w)), Nat.zero_add]
    rw [Nat.mul_succ, Nat.add_comm, Nat.shiftRight_add, rest, packNat_shiftRight_mod w xs i, List.getD_cons_succ]

/-- Packed numbers fit a word with room for all of them. -/
theorem toNat_ofNat_packNat {w n : Nat} {l : List Nat} (h : n = w * l.length) :
    (BitVec.ofNat n (packNat w l)).toNat = packNat w l := by
  subst h
  rw [BitVec.toNat_ofNat, Nat.mod_eq_of_lt (packNat_lt w l)]

theorem lane_ofLanes_range (f : Nat → W32) {i : Nat} (hi : i < 64) : lane (ofLanes ((List.range 64).map f)) i = f i := by
  apply BitVec.eq_of_toNat_eq
  rw [lane, ofLanes, toNat_ofNat_packNat (by simp only [List.length_map, List.length_range]), BitVec.toNat_ofNat,
    packNat_shiftRight_mod]
  have value := (f i).isLt
  simp [hi, Nat.mod_eq_of_lt value]

theorem lane_blend (m : W64) (old new : BitVec 2048) {i : Nat} (hi : i < 64) :
    lane (blend m old new) i = if m.getLsbD i then lane new i else lane old i :=
  lane_ofLanes_range _ hi

/-! ### Writes of CQ -/

theorem Strand.rv_wvCq (st : Strand) (cyc L r q : Nat) (m : W64) (v : BitVec 2048) :
    (st.wvCq cyc L r m v).rv q = if q = r then blend m (st.rv r) v else st.rv q :=
  Strand.rv_wv ..

/-- A CQ write of lanes of a vector register keeps every part of the strand but the vector registers. -/
theorem Strand.wvCq_agrees (st : Strand) (cyc L r : Nat) (m : W64) (v : BitVec 2048) :
    ∀ {p : Part}, p ∉ [Part.v] → (st.wvCq cyc L r m v).agrees st p
  | .x, _ | .m, _ | .e, _ | .t, _ | .l, _ => fun _ => rfl
  | .tokens, _ => fun k => by cases k <;> rfl
  | .trap, _ => ⟨rfl, rfl, rfl, rfl, rfl⟩
  | .bars, _ => rfl
  | .v, h => absurd (List.mem_singleton_self _) h

end Sys2Proof.Machine
end

section
/-!
SUPPORT. The frame of a form that dispatches on the array: what dispatch changes, what an effect on the accumulator store adds,
and the turns of a form that reads a scratchpad operand (R319 to R321, R325).
-/

namespace Sys2Proof.Machine

/-! ### Updates of the executing core -/

@[simp] theorem State.myCore_modMyCore (s : State) (f : Core → Core) : (s.modMyCore f).myCore = f s.myCore :=
  s.core_modCore s.cur.core f

@[simp] theorem State.me_modMyCore (s : State) (f : Core → Core) : (s.modMyCore f).me = (f s.myCore).strand s.cur.strand :=
  congrArg (fun k => Core.strand k s.cur.strand) (s.myCore_modMyCore f)

@[simp] theorem State.myCore_modMe (s : State) (f : Strand → Strand) :
    (s.modMe f).myCore = s.myCore.setStrand s.cur.strand (f s.me) :=
  s.core_modCore s.cur.core _

/-! ### Dispatch on the array -/

/-- A strand whose CQ entry has been dispatched at clk `cyc`, with this bound (R173, R174). -/
def Strand.dispatchedAt (st : Strand) (cyc L : Nat) : Strand :=
  { st with cq := modUndispatched (fun e => { e with until_ := some (cyc + L) }) st.cq, lastDisp := cyc, lastL := L }

theorem Strand.dispatchedAt_agrees (st : Strand) (cyc L : Nat) : ∀ p : Part, (st.dispatchedAt cyc L).agrees st p
  | .x | .v | .m | .e | .t | .l => fun _ => rfl
  | .tokens => fun k => by cases k <;> rfl
  | .trap => ⟨rfl, rfl, rfl, rfl, rfl⟩
  | .bars => rfl

/-- The state in which the form of a holder with budget left makes its effect: dispatched, one unit of the budget spent. -/
def State.onArrayFor (s : State) (occ L : Nat) : State := s.haspSpend.arrayDispatch occ L

/-- The holder's MX form without a cause and without a wait dispatches and makes its effect (R308, R319, R323). -/
theorem State.mx_of_holdsHasp {s : State} (h : s.holdsHasp) (occ L : Nat) (act : State → State) :
    s.mx occ L none false act = .next (act (s.onArrayFor occ L)) := by
  obtain ⟨joined, holder, budget⟩ := h
  simp [State.mx, State.onArrayFor, joined, holder, Nat.pos_iff_ne_zero.mp budget]

section
variable (s : State) (occ L : Nat)

theorem State.me_haspSpend : s.haspSpend.me = s.me := s.me_modMyCore _

theorem State.me_onArrayFor : (s.onArrayFor occ L).me = s.me.dispatchedAt s.cyc L := by
  have strand : (s.onArrayFor occ L).me = (s.haspSpend.dispatched L).me := State.me_modMyCore _ _
  rw [strand, State.dispatched, State.me_modMe, s.me_haspSpend]
  rfl

theorem State.myCore_onArrayFor : (s.onArrayFor occ L).myCore =
    { s.haspSpend.myCore.setStrand s.cur.strand (s.me.dispatchedAt s.cyc L) with arrayFree := s.cyc + occ } := by
  rw [State.onArrayFor, State.arrayDispatch, State.myCore_modMyCore, State.dispatched, State.myCore_modMe, s.me_haspSpend]
  rfl

theorem State.haspLeft_onArrayFor : (s.onArrayFor occ L).myCore.haspLeft =
    (if 0 < s.myCore.haspLeft then s.myCore.haspLeft else s.me.haspBudget) - 1 := by
  rw [s.myCore_onArrayFor, State.haspSpend, State.myCore_modMyCore]
  rfl

theorem State.sameStores_onArrayFor : s.myCore.sameStores (s.onArrayFor occ L).myCore := by
  rw [s.myCore_onArrayFor, State.haspSpend, State.myCore_modMyCore]
  exact ⟨rfl, rfl, rfl⟩
end

theorem State.seenCore_onArrayFor (s : State) (occ L : Nat) :
    (s.seenCore (s.onArrayFor occ L).myCore).sp = (s.seenCore s.myCore).sp := by
  rw [s.myCore_onArrayFor, State.haspSpend, State.myCore_modMyCore]
  rfl

/-- A dispatched form, before its effect: it has spent one unit of the budget, and changed nothing else (R321, R325). -/
theorem State.mxFrame_onArrayFor {s : State} (h : s.holdsHasp) (occ L : Nat) : s.mxFrame (s.onArrayFor occ L) occ L [] := by
  obtain ⟨-, -, budget⟩ := h
  have me := s.me_onArrayFor occ L
  refine ⟨⟨?_, ?_, ?_⟩, fun p _ => ?_, fun c other => ?_, fun _ => ⟨rfl, rfl, fun _ => rfl⟩⟩
  · rw [State.hasDispatched, me]
    exact ⟨rfl, rfl, rfl⟩
  · rw [s.myCore_onArrayFor]
  · rw [s.haspLeft_onArrayFor, if_pos budget]
  · rw [me]
    exact s.me.dispatchedAt_agrees ..
  · have spent : s.haspSpend.core c = s.core c := s.core_modCore_other _ other
    have gone : (s.haspSpend.dispatched L).core c = s.haspSpend.core c := State.core_modCore_other _ _ other
    exact (State.core_modCore_other _ _ other).trans (gone.trans spent)

/-- Where translated memory and the three stores of every core are what they were, every byte is. -/
theorem State.sameBytes_of_sameStores {s t : State} (memory : s.sameMemory t) (stores : ∀ c, (s.core c).sameStores (t.core c)) :
    s.sameBytes t := by
  refine ⟨fun l => ?_, fun c a => ?_⟩
  · obtain ⟨dev, host, peer⟩ := memory l.addr
    cases l with
    | dev a => exact dev
    | host a => exact host
    | peer n a => exact peer n
    | sp c a =>
      obtain ⟨sp, -, -⟩ := stores c
      exact congrArg (fun m => Mem.get m a) sp
  · obtain ⟨sp, acc, cst⟩ := stores c
    rw [sp, acc, cst]
    exact ⟨rfl, rfl, rfl⟩

/-- Dispatch alone changes no byte. -/
theorem State.sameBytes_onArrayFor {s : State} (h : s.holdsHasp) (occ L : Nat) : s.sameBytes (s.onArrayFor occ L) := by
  obtain ⟨-, -, cores, memory⟩ := State.mxFrame_onArrayFor h occ L
  refine State.sameBytes_of_sameStores memory fun c => ?_
  by_cases own : c = s.cur.core
  · rw [own]
    exact s.sameStores_onArrayFor occ L
  · rw [cores c own]
    exact ⟨rfl, rfl, rfl⟩

/-- An effect on the accumulator store keeps the frame of its form. -/
theorem State.mxFrame_modMyCore {s t : State} {occ L : Nat} {changed : List Part} (h : s.mxFrame t occ L changed)
    (hcur : t.cur = s.cur) {f : Core → Core} (hf : t.myCore.accOnly (f t.myCore)) :
    s.mxFrame (t.modMyCore f) occ L changed := by
  obtain ⟨⟨dispatched, free, left⟩, parts, cores, memory⟩ := h
  have me : (t.modMyCore f).me = t.me := (t.me_modMyCore f).trans (Core.accOnly_strand hf _)
  refine ⟨⟨?_, ?_, ?_⟩, fun p hp => ?_, fun c other => ?_, memory⟩
  · rwa [State.hasDispatched, me]
  · rw [t.myCore_modMyCore, Core.accOnly_arrayFree hf, free]
  · rw [t.myCore_modMyCore, Core.accOnly_haspLeft hf, left]
  · rw [me]
    exact parts p hp
  · exact (t.core_modCore_other f (hcur ▸ other)).trans (cores c other)

/-- So does a write of lanes of a vector register, of the frame that names vector registers. -/
theorem State.mxFrame_wvCq {s t : State} {occ L : Nat} (h : s.mxFrame t occ L []) (hcur : t.cur = s.cur)
    (cyc n r : Nat) (m : W64) (v : BitVec 2048) : s.mxFrame (t.modMe fun st => st.wvCq cyc n r m v) occ L [.v] := by
  obtain ⟨⟨dispatched, free, left⟩, parts, cores, memory⟩ := h
  refine ⟨⟨?_, ?_, ?_⟩, fun p hp => ?_, fun c other => ?_, memory⟩
  · rwa [State.hasDispatched, State.me_modMe]
  · rwa [State.myCore_modMe]
  · rwa [State.myCore_modMe]
  · rw [State.me_modMe]
    exact Strand.agrees_trans (Strand.wvCq_agrees _ _ _ _ _ _ hp) (parts p List.not_mem_nil)
  · exact (t.core_modCore_other _ (hcur ▸ other)).trans (cores c other)

/-! ### Forms with a scratchpad operand -/

/-- An aligned operand within the scratchpad passes the check of its range (R319). -/
theorem mxRange_eq_none {E : W64} {n : Nat} (aligned : E.toNat % 64 = 0) (inside : E.toNat + n ≤ 2 ^ 20) (hn : 0 < n) :
    mxRange E n = none := by
  have low : bitsAt E.toNat 20 44 = 0 := by
    rw [bitsAt, Nat.shiftRight_eq_div_pow, Nat.div_eq_of_lt (by omega), Nat.zero_mod]
  have fits : ¬ spSize < E.toNat + n := inside.not_gt
  simp [mxRange, low, aligned, fits]

/-- Each element of an operand is read in this turn, or is as it was. -/
theorem sampled_sampleSrcs (free : Nat) (rd : Loc → Nat → List Byte) (l : List Src) : sampled rd l (sampleSrcs free rd l) := by
  refine List.forall₂_iff_get.mpr ⟨by simp [sampleSrcs], fun i _ _ => ?_⟩
  simp only [sampleSrcs, List.get_eq_getElem, List.getElem_map, List.getElem_zipIdx]
  split
  · exact .inr rfl
  · exact .inl rfl

/-- The access that a form had put off changes of its core the accumulator store, and of its strand the entry (R320). -/
theorem State.frame_mxActs (s : State) {f : Core → Core} (hf : s.myCore.accOnly (f s.myCore)) :
    s.keepsBut (s.mxActs f) [] ∧ (∀ c, c ≠ s.cur.core → (s.mxActs f).core c = s.core c) ∧ s.sameMemory (s.mxActs f) ∧
      (s.mxActs f).me.queue s.cur.unit =
        modSame s.cur.entry (fun e => { e with left := none, srcs := [], later := [] }) (s.me.queue s.cur.unit) ∧
      (f s.myCore).sameStores (s.mxActs f).myCore := by
  have me : (s.modMyCore f).me = s.me := (s.me_modMyCore f).trans (Core.accOnly_strand hf _)
  have after : (s.mxActs f).me = s.me.setQueue s.cur.unit
      (modSame s.cur.entry (fun e => { e with left := none, srcs := [], later := [] }) (s.me.queue s.cur.unit)) := by
    rw [State.mxActs, State.modHead, State.me_modMe, me]
    rfl
  refine ⟨fun p _ => ?_, fun c other => ?_, fun _ => ⟨rfl, rfl, fun _ => rfl⟩, ?_, ?_⟩
  · rw [after]
    exact Strand.setQueue_agrees ..
  · exact (State.core_modCore_other _ _ other).trans (s.core_modCore_other _ other)
  · rw [after]
    cases s.cur.unit <;> rfl
  · rw [State.mxActs, State.modHead, State.myCore_modMe, State.myCore_modMyCore]
    exact ⟨rfl, rfl, rfl⟩

/-- A form of the holder that reads a scratchpad operand, and whose effect changes the accumulator store only, runs with what that
effect makes of the stores. -/
theorem State.mxRuns_of_mxSp {s : State} (h : s.holdsHasp) {i : Instr} {l : Lit} {n occ L : Nat} (hn : 0 < n)
    {act : Core → Nat → Core → Core} {Q : Mem → State → Prop} (run : exec i s = s.mxSp occ L l n act)
    (acc : ∀ v E (k : Core), k.accOnly (act v E k))
    (effect : ∀ v k t, s.myCore.sameStores k → (act v (s.mxAddr l).toNat k).sameStores t.myCore → Q v.sp t) :
    s.mxRuns i (s.mxAddr l) n occ L Q := by
  have dispatches (first : s.cur.entry.left = none) (ready : s.mxReady (s.mxAddr l) n false) :
      exec i s = .next (if s.mxLate then
          (s.onArrayFor occ L).modHead fun e => { e with left := some 0, srcs := s.mxSrcs (s.mxAddr l).toNat n }
        else (s.onArrayFor occ L).modMyCore fun k => act (s.seenCore k) (s.mxAddr l).toNat k) := by
    obtain ⟨aligned, inside, free⟩ := ready
    rw [run, State.mxSp, if_neg (by simp [first]), mxRange_eq_none aligned inside hn, free]
    exact State.mx_of_holdsHasp h ..
  have frame := State.mxFrame_onArrayFor h occ L
  refine ⟨fun first ready now => ?_, fun first ready later => ?_, fun second => ?_⟩
  · refine ⟨_, by rw [dispatches first ready, now]; rfl, State.mxFrame_modMyCore frame rfl (acc ..), ?_⟩
    rw [← s.seenCore_onArrayFor occ L]
    refine effect _ _ _ (s.sameStores_onArrayFor occ L) ?_
    rw [State.myCore_modMyCore]
    exact ⟨rfl, rfl, rfl⟩
  · refine ⟨s.onArrayFor occ L, s.mxSrcs (s.mxAddr l).toNat n, frame, rfl, State.sameBytes_onArrayFor h occ L,
      sampled_sampleSrcs .., ?_⟩
    rw [dispatches first ready, later]
    rfl
  · let seen := (s.seenCore s.myCore).laid (s.mxAddr l).toNat s.cur.entry.srcs
    obtain ⟨parts, cores, memory, queue, stores⟩ := s.frame_mxActs (acc seen (s.mxAddr l).toNat s.myCore)
    refine ⟨_, ?_, effect _ _ _ ⟨rfl, rfl, rfl⟩ stores, parts, cores, memory, queue⟩
    rw [run, State.mxSp, if_pos (Option.isSome_iff_ne_none.mpr second)]
    rfl

/-! ### Forms without a scratchpad operand -/

/-- A form of the holder whose effect changes the accumulator store only runs with what that effect makes of the stores. -/
theorem State.Runs_of_mx {s : State} (h : s.holdsHasp) {i : Instr} {occ L : Nat} {f : Core → Core} {Q : State → Prop}
    (run : exec i s = s.mx occ L none false fun t => t.modMyCore f) (acc : ∀ k : Core, k.accOnly (f k))
    (effect : ∀ k t, s.myCore.sameStores k → (f k).sameStores t.myCore → Q t) :
    Runs i s fun t => s.mxFrame t occ L [] ∧ Q t := by
  refine ⟨_, run.trans (State.mx_of_holdsHasp h ..), State.mxFrame_modMyCore (State.mxFrame_onArrayFor h occ L) rfl (acc _), ?_⟩
  refine effect _ _ (s.sameStores_onArrayFor occ L) ?_
  rw [State.myCore_modMyCore]
  exact ⟨rfl, rfl, rfl⟩

end Sys2Proof.Machine
end

section
/-!
SUPPORT. The accumulator forms: scales and origin words, and what each form makes of cells and lanes (R86, R328, R332 to R336).
-/

namespace Sys2Proof.Machine

/-! ### Scales -/

/-- acsc.e8 with the scales of one byte each (R75, R86). -/
theorem scaleE8_of_bytes {er ec : Nat} (hr : er < 256) (hc : ec < 256) (p c : W32) :
    scaleE8 er ec p c = if er = 255 ∨ ec = 255 then nan32 else r32 ((v32 c).add ((v32 p).scale ((er : Int) + ec - 254))) := by
  have shift : (er : Int) - 127 + ((ec : Int) - 127) = (er : Int) + ec - 254 := by omega
  simp only [scaleE8, Nat.mod_eq_of_lt hr, Nat.mod_eq_of_lt hc, shift, Bool.or_eq_true, decide_eq_true_eq]

/-! ### Origin words (R328, R336) -/

theorem originRow_eq (o : W64) : originRow o = o.toNat % 256 := rfl

theorem originCol_eq (o : W64) : originCol o = o.toNat / 256 % 256 := by
  rw [originCol, bitsAt, Nat.shiftRight_eq_div_pow]
  rfl

theorem cellOf_cellOf (p : Nat × Nat) : cellOf (cellOf p) = cellOf p := by
  simp [cellOf]

/-- The cell of lane `i`, of the origin word's low and next byte. -/
theorem cellOf_acLane (o : W64) (col : Bool) (i : Nat) : cellOf (acLane o col i) =
    if col then ((o.toNat % 256 + i) % 256, o.toNat / 256 % 256) else (o.toNat % 256, (o.toNat / 256 % 256 + i) % 256) := by
  cases col <;> simp [cellOf, acLane, originRow_eq, originCol_eq]

/-- Two of the 64 lanes name two cells. -/
theorem acLane_injective (o : W64) (col : Bool) {i j : Nat} (hi : i < 64) (hj : j < 64)
    (h : cellOf (acLane o col i) = cellOf (acLane o col j)) : i = j := by
  rw [cellOf_eq_iff] at h
  cases col <;> simp only [acLane, if_true, if_false, Bool.false_eq_true] at h <;> omega

theorem Core.cell_cellOf (k : Core) (p : Nat × Nat) : k.cell (cellOf p).1 (cellOf p).2 = k.cell p.1 p.2 := k.cell_mod p.1 p.2

/-! ### The forms -/

theorem exec_acscE8 (s : State) (z p : BitVec 4) (clr : Bool) (a : XReg) (l : Lit) (tok : Tok) :
    exec (.acscE8 z p clr a l tok) s = s.mxSp 16 16 l 256 fun v E k => k.fold z.toNat p.toNat clr fun i j =>
      scaleE8 (v.spNat (E + 4 * i) 1) (v.spNat (E + 4 * j + 1) 1) := rfl

theorem exec_acscF32 (s : State) (z p : BitVec 4) (clr : Bool) (a : XReg) (l : Lit) (tok : Tok) :
    exec (.acscF32 z p clr a l tok) s = s.mxSp 16 16 l 512 fun v E k => k.fold z.toNat p.toNat clr fun i j =>
      scaleF32 (w32 (v.spNat (E + 4 * i) 4)) (w32 (v.spNat (E + 256 + 4 * j) 4)) := rfl

section
variable {s : State} (hasp : s.holdsHasp)
include hasp

/-- acsc folds with the scales that `f` reads, in the row and the column of the cell (R332). -/
theorem State.mxRuns_fold {i : Instr} {l : Lit} {z p : BitVec 4} {clr : Bool} {n : Nat} (hn : 0 < n)
    {f : Core → Nat → Nat → Nat → W32 → W32 → W32} {g : Mem → Nat → Nat → W32}
    (run : exec i s = s.mxSp 16 16 l n fun v E k => k.fold z.toNat p.toNat clr (f v E))
    (fg : ∀ v i j, f v (s.mxAddr l).toNat i j (s.myCore.regionCell p.toNat i j) (s.myCore.regionCell z.toNat i j) = g v.sp i j) :
    s.mxRuns i (s.mxAddr l) n 16 16 fun m t =>
      (∀ b, Mem.get t.myCore.sp b = Mem.get s.myCore.sp b ∧ Mem.get t.myCore.cst b = Mem.get s.myCore.cst b) ∧
        ∀ r c, r < 256 → c < 256 → t.myCore.cell r c =
          if clr ∧ r / 64 = p.toNat / 4 ∧ c / 64 = p.toNat % 4 then 0
          else if r / 64 = z.toNat / 4 ∧ c / 64 = z.toNat % 4 then g m (r % 64) (c % 64) else s.myCore.cell r c :=
  State.mxRuns_of_mxSp hasp hn run (fun _ _ k => k.accOnly_fold ..) fun v k _ before after =>
    ⟨Core.sp_cst_of_accOnly before (k.accOnly_fold ..) after, Core.cell_of_fold before after (fg v)⟩

/-- acz and acmv give each cell of a region a value that the cells before determine (R333, R335). -/
theorem State.Runs_fillRegion {i : Instr} {z : BitVec 4} {occ L : Nat} {f : Core → Nat → Nat → W32} {g : Nat → Nat → W32}
    (run : exec i s = s.mx occ L none false fun t => t.modMyCore fun k => k.fillRegion z.toNat (f k))
    (fg : ∀ k, s.myCore.sameStores k → f k = g) :
    Runs i s fun t => s.mxFrame t occ L [] ∧
      (∀ b, Mem.get t.myCore.sp b = Mem.get s.myCore.sp b ∧ Mem.get t.myCore.cst b = Mem.get s.myCore.cst b) ∧
        s.regionOnly t z.toNat g :=
  State.Runs_of_mx hasp run (fun k => k.accOnly_fillRegion ..) fun k _ before after =>
    ⟨Core.sp_cst_of_accOnly before (k.accOnly_fillRegion ..) after, Core.cell_of_fillRegion z.isLt before after (fg k before)⟩

/-- acvr writes the 64 cells that its origin word names, and no other (R336). -/
theorem State.Runs_acvr (v : VReg) (col : Bool) (a : XReg) (tok : Tok) :
    Runs (.acvr v col a tok) s fun t => s.mxFrame t 2 2 [] ∧
      (∀ b, Mem.get t.myCore.sp b = Mem.get s.myCore.sp b ∧ Mem.get t.myCore.cst b = Mem.get s.myCore.cst b) ∧
        (∀ i, i < 64 → ∀ q, q = cellOf (acLane (s.cap 0) col i) → t.myCore.cell q.1 q.2 = lane (s.vreg v.toNat 0) i) ∧
          ∀ r c, r < 256 → c < 256 → (∀ i, i < 64 → cellOf (acLane (s.cap 0) col i) ≠ (r, c)) →
            t.myCore.cell r c = s.myCore.cell r c := by
  have acc (k : Core) := Core.accOnly_writeCells (acLane (s.cap 0) col) (lane (s.vreg v.toNat 0)) (List.range 64) k
  refine State.Runs_of_mx hasp (f := fun k => k.writeCells (acLane (s.cap 0) col) (lane (s.vreg v.toNat 0)) (List.range 64)) rfl acc
    fun k t before after => ⟨Core.sp_cst_of_accOnly before (acc k) after, ?_, ?_⟩
  · rintro i hi q rfl
    rw [Core.cell_of_sameStores after]
    refine Core.cell_writeCells_of_named (fun j hj named => ?_) ⟨i, List.mem_range.mpr hi, cellOf_cellOf _⟩
    rw [cellOf_cellOf] at named
    rw [acLane_injective _ _ hi (List.mem_range.mp hj) named]
  · intro r c hr hc away
    rw [Core.cell_of_sameStores after, ← Core.cell_of_sameStores before]
    refine Core.cell_writeCells_of_unnamed (q := (r, c)) fun i hi named => ?_
    rw [cellOf_of_lt hr hc] at named
    exact away i (List.mem_range.mp hi) named.symm

/-- acrd reads the 64 cells that its origin word names into a vector register (R336). -/
theorem State.Runs_acrd (v : VReg) (col : Bool) (a : XReg) (tok : Tok) :
    Runs (.acrd v col a tok) s fun t => s.mxFrame t 1 4 [.v] ∧ s.myCore.sameStores t.myCore ∧
      (∀ r, r ≠ v.toNat → t.me.rv r = s.me.rv r) ∧
        ∀ i, i < 64 → ∀ q, q = cellOf (acLane (s.cap 0) col i) → lane (t.me.rv v.toNat) i = s.myCore.cell q.1 q.2 := by
  have before := s.sameStores_onArrayFor 1 4
  have frame := State.mxFrame_onArrayFor hasp 1 4
  have registers (r : Nat) : (s.onArrayFor 1 4).me.rv r = s.me.rv r := by rw [s.me_onArrayFor]; rfl
  have run : exec (.acrd v col a tok) s = s.mx 1 4 none false fun t => t.modMe fun st =>
      st.wvCq s.cyc 4 v.toNat (BitVec.allOnes 64)
        (ofLanes ((List.range 64).map fun i => t.myCore.cell (acLane (s.cap 0) col i).1 (acLane (s.cap 0) col i).2)) := rfl
  refine ⟨_, run.trans (State.mx_of_holdsHasp hasp ..), State.mxFrame_wvCq frame rfl .., ?_, fun r hr => ?_, ?_⟩
  · rw [State.myCore_modMe]
    exact before
  · rw [State.me_modMe, Strand.rv_wvCq, if_neg hr, registers]
  · rintro i hi q rfl
    have enabled : (BitVec.allOnes 64).getLsbD i = true := by rw [BitVec.getLsbD_allOnes, decide_eq_true hi]
    rw [State.me_modMe, Strand.rv_wvCq, if_pos rfl, lane_blend _ _ _ hi, if_pos enabled, lane_ofLanes_range _ hi,
      Core.cell_of_sameStores before, Core.cell_cellOf]
end

/-! ### The statement -/

/-- Settles O30: each form by the lemma about what its effect makes of the accumulator store. -/
theorem accumulatorFormsFoldAndMove : Obligations.AccumulatorFormsFoldAndMove := by
  intro s z p clr col v a l tok E o row col0 cell at_ sp e8 f32 folded place stores hasp
  have place_eq (i : Nat) : place i = cellOf (acLane (s.cap 0) col i) := (cellOf_acLane (s.cap 0) col i).symm
  refine ⟨State.mxRuns_fold hasp (by omega) (exec_acscE8 ..) fun v i j => ?_,
    State.mxRuns_fold hasp (by omega) (exec_acscF32 ..) fun v i j => ?_,
    State.Runs_fillRegion hasp rfl fun _ _ => rfl, State.Runs_fillRegion hasp rfl fun k before => ?_, ?_, ?_⟩
  · refine (scaleE8_of_bytes (leNat_read_one ..) (leNat_read_one ..) ..).trans ?_
    simp only [e8, sp, Nat.add_assoc, E]
    rfl
  · simp only [f32, sp, Nat.add_assoc, E]
    rfl
  · funext i j
    rw [Core.cell_of_sameStores before, originRow_eq, originCol_eq]
    exact (s.myCore.cell_mod _ _).symm
  · obtain ⟨t, runs, frame, rest, written, kept⟩ := State.Runs_acvr hasp v col a tok
    refine ⟨t, runs, frame, rest, fun i hi => written i hi _ (place_eq i), fun r c hr hc away => kept r c hr hc fun i hi => ?_⟩
    rw [← place_eq]
    exact away i hi
  · obtain ⟨t, runs, frame, ⟨spad, acc, cst⟩, registers, lanes⟩ := State.Runs_acrd hasp v col a tok
    refine ⟨t, runs, frame, fun b => by rw [acc], fun b => by rw [spad, cst]; exact ⟨rfl, rfl⟩, registers,
      fun i hi => lanes i hi _ (place_eq i)⟩

end Sys2Proof.Machine
end
